-- ==== Sys2Proof/Word.lean ====
section
/-! DEFINITION. The words of the machine: bytes, parcels, register codes, and the plainest conversions
between bit vectors and bytes. -/

namespace Sys2Proof

/-- One byte of memory. -/
abbrev Byte := BitVec 8

/-- One 32-bit parcel of code (03 R47). -/
abbrev Parcel := BitVec 32

/-- A scalar register's value. -/
abbrev Word64 := BitVec 64

/-- A lane register's element. -/
abbrev Word32 := BitVec 32

/-- The code of a scalar register field (03 R57): 0-7 are g0-g7, 8-31 are s0-s23. -/
abbrev SReg := BitVec 5

/-- The code of a lane register field (03 R57): v0-v63. -/
abbrev VReg := BitVec 6

/-- A pm field (03 R54): bit 3 negates, bits 2:0 name a mask register, 0 is every active lane. -/
abbrev Pm := BitVec 4

/-- Byte `k` of a word, byte 0 the least significant. -/
def byteOf {w : Nat} (x : BitVec w) (k : Nat) : Byte := x.extractLsb' (8 * k) 8

/-- The `n` low bytes of a word, least significant first: every type is little-endian (04 R71). -/
def toBytes {w : Nat} (x : BitVec w) (n : Nat) : List Byte := (List.range n).map (byteOf x)

/-- The number that little-endian bytes spell. -/
def natOfBytes : List Byte → Nat
  | [] => 0
  | b :: bs => b.toNat + 256 * natOfBytes bs

/-- The word that little-endian bytes spell. -/
def ofBytes (w : Nat) (bs : List Byte) : BitVec w := BitVec.ofNat w (natOfBytes bs)

end Sys2Proof
end

