-- ==== Sys2Proof/Config.lean ====
section
/-! DEFINITION. What the spec leaves open: free values, each an opaque function that no proof can look into. -/

namespace Sys2Proof

/-- Which value a word reads from a register with writes outstanding (05 R115): chosen freely for each word, strand and
register. Log 6. -/
opaque Config.staleChoice (word strand key : Nat) : Nat

/-- The handle that the hardware keeps in WAITER while strands are parked on a cell (01 R13). Log 13. -/
opaque Config.waiterHandle (word : Nat) : BitVec 64

/-- A byte that a space-1 LDX reads from a physical address that holds nothing, and its tag, by the word, the strand and the byte: the spec
gives the load no result there (log 14). -/
opaque Config.holeByte (word strand i : Nat) : Byte
opaque Config.holeTag (word strand : Nat) : Bool

/-- A byte of a ray's save slot that the device keeps in a form of its own (15 R330), by the write and the byte's place. Log 65. -/
opaque Config.slotByte (n i : Nat) : Byte

/-- Which line a cache gives up when it must give up one, by a number of the machine's: the spec names no replacement rule (log 56). -/
opaque Config.victim (n : Nat) : Nat

/-- The result that a special function returns for a source whose result 04 R90 does not fix, before the bound of R89 is
applied: operation 0 to 7 in the order of the opcodes, source bits. Log 7. -/
opaque Config.special (op : Nat) (x : Word32) : Word32

/-- A channel of a footprint whose sizes leave the numbers, where 15 R344 states no result: by its operands. Log 12. -/
opaque Config.footprint (operands : List Word32) (channel : Nat) : Word32

/-- Where a Larder unit hands out an area of its share (16 R348), by a number of the allocation; taken where the area is free there,
else the first free place is. Log 21. -/
opaque Config.larderPlace (n : Nat) : Nat

/-- A byte of a hash grid, whose layout belongs to the device (16 R349), by the seal's number and the byte's place. Log 21. -/
opaque Config.gridByte (n i : Nat) : Byte

/-- The core that owns the port over which an operation of another device comes (19 R423), by a number of the operation. Log 24. -/
opaque Config.portCore (n : Nat) : Nat

/-- The number that CCANCEL and CSEQ report for a key of a FAILED communicator, where 19 R418 and R419 state none, by the word. Log 24. -/
opaque Config.failedNumber (word : Nat) : BitVec 32

/-- A byte of the state dump that 21 R447 leaves to the device, by the cycle of the error and the byte's place. Log 22. -/
opaque Config.dumpByte (cycle i : Nat) : Byte

/-- The offset and the length of a section of the state dump (21 R447). Log 22. -/
opaque Config.dumpSection (cycle kind : Nat) : Nat × Nat

/-- A byte of SHAKE256 of a byte string (22 R454): the function is defined outside the spec. Log 11. -/
opaque Config.shake (bs : List Byte) (i : Nat) : Byte

/-- Whether an XMSS-SHAKE_20_256 signature is good under Getorra's key for debug tokens (22 R457) or for lifecycle tokens (R456). Log
11. -/
opaque Config.debugSigned (message signature : List Byte) : Bool
opaque Config.lifecycleSigned (token : List Byte) : Bool

/-- Whether a firmware stage's image is signed under the Getorra root key whose hash is fused (22 R454), and a partition configuration under the
operator's key (R460). Log 11. -/
opaque Config.stageSigned (image : List Byte) : Bool
opaque Config.configSigned (image : List Byte) : Bool

/-- The partition count and the device identifiers that a configuration holds (22 R460): its layout is not the spec's. Log 11. -/
opaque Config.configured (image : List Byte) : Nat × List Nat

/-- Whether a test kernel's image is signed under the key that MEAS3 measures, and the SHAKE256 digests that it carries (21 R444): the
image's layout is not the spec's. Log 11. -/
opaque Config.testSigned (meas image : List Byte) : Bool
opaque Config.testDigests (image : List Byte) : List (List Byte)

/-- CAUSE of the fault record for a context that a function-level reset faults (22 R453, R461): the spec names none. Log 54. -/
opaque Config.resetCause (n : Nat) : BitVec 8

/-- A byte of the device's XMSS-SHAKE_20_256 signature at a leaf of its identity key (22 R455). Log 11. -/
opaque Config.signature (leaf : Nat) (message : List Byte) (i : Nat) : Byte

/-- Where a surface or bitstream lies, by its descriptor: virtual addresses and lengths (22 R463). Log 12. -/
opaque Config.surface (descriptor : List Byte) : List (Nat × Nat)

/-- Which consumption bit of CHKIV a job that reads poison sets (22 R463): the spec names none. Log 12. -/
opaque Config.jobBit (job : Nat) : Nat

/-- A byte of what a display or encode job writes, by the register of the head or encoder, its record, the descriptors of its destination and
sources, and what it has read (22 R462). Log 12. -/
opaque Config.picture (reg : Nat) (record : List Byte) (surfaces sources : List (List Byte)) (i : Nat) : Byte

end Sys2Proof
end

