-- ==== Sys2Proof/Syntax.lean ====
section
/-! DEFINITION. The syntax of Klorex: the operand records of the word formats of 03 R52 to R56, one constructor of
`Instr` for every row of the opcode table. The first 194 rows are words; each carries the record of its format, so that
no bit of a word is lost. The last 105 rows are steps of the engines, the task engine, firmware, the fabric, the host
and the board (95_what_each_step_holds.md); each carries what names the step. -/

namespace Sys2Proof

/-- NS (R52): the SYS group. -/
structure FormNS where
  s : Bool
  imm : BitVec 16
  deriving DecidableEq, Repr

/-- NR (R52) as the ALU group uses it: fn9[7:0] is the operation, fn9[8] is W. -/
structure FormNA where
  s : Bool
  w : Bool
  sd : SReg
  sa : SReg
  sb : SReg
  deriving DecidableEq, Repr

/-- NR (R52). -/
structure FormNR where
  s : Bool
  sd : SReg
  sa : SReg
  sb : SReg
  fn : BitVec 9
  deriving DecidableEq, Repr

/-- NI (R52); SHI lays out its bits 13:0 as R53 gives. -/
structure FormNI where
  s : Bool
  sd : SReg
  sa : SReg
  imm : BitVec 14
  deriving DecidableEq, Repr

/-- NL (R52). -/
structure FormNL where
  s : Bool
  sd : SReg
  imm : BitVec 19
  deriving DecidableEq, Repr

/-- NB (R52): a register, three bits, sixteen bits; SPAWN and AWAIT share it (R53). -/
structure FormNB where
  s : Bool
  sa : SReg
  c : BitVec 3
  x : BitVec 16
  deriving DecidableEq, Repr

/-- NJ (R52), and the words whose 24 low bits are one field: J, RET, REGION. -/
structure FormNJ where
  s : Bool
  x : BitVec 24
  deriving DecidableEq, Repr

/-- CALL and CALLR (R53). -/
structure FormNC where
  s : Bool
  kS : BitVec 4
  kV : BitVec 4
  x : BitVec 16
  deriving DecidableEq, Repr

/-- NM (R52). -/
structure FormNM where
  s : Bool
  sd : SReg
  sa : SReg
  size : BitVec 2
  sx : Bool
  off : BitVec 11
  deriving DecidableEq, Repr

/-- NX (R52). -/
structure FormNX where
  s : Bool
  sd : SReg
  sa : SReg
  size : BitVec 2
  sx : Bool
  space : BitVec 3
  off : BitVec 8
  deriving DecidableEq, Repr

/-- NF (R52); `z` is bits 7:6. -/
structure FormNF where
  s : Bool
  sd : SReg
  sa : SReg
  pos : BitVec 6
  z : BitVec 2
  wid : BitVec 6
  deriving DecidableEq, Repr

/-- BAR (R53): identifier, count register, and the nine low bits. -/
structure FormBar where
  s : Bool
  id : BitVec 8
  cnt : SReg
  z : BitVec 9
  deriving DecidableEq, Repr

/-- The fields of a wide word (R54), the opcode apart. -/
structure Wide where
  s : Bool
  vd : VReg
  va : VReg
  vb : VReg
  pm : Pm
  vc : VReg
  fn : BitVec 8
  t : BitVec 4
  rm : BitVec 3
  ss : SReg
  aux : BitVec 6
  imm : BitVec 32
  deriving DecidableEq, Repr

/-- Parcel 1 of a wide word (R54). -/
def Wide.parcel1 (o : Wide) : Parcel := o.vc ++ o.fn ++ o.t ++ o.rm ++ o.ss ++ o.aux

/-- What a member is told of a key or a start number (19 R405 to R407): a notice, or the reply to a request of its own. -/
inductive Notice where
  | assigned | voided | retired
  /-- The reply GO to a START. -/
  | go
  /-- The reply to a CCANCEL: 0 VOIDED, 1 STARTED, 2 FAILED (R418). -/
  | answer (code : Nat)
  /-- The reply to a CSEQ: 0 NONE, 1 ASSIGNED, 2 STARTED, 3 VOID, 5 FAILED (R419). -/
  | state (code : Nat)
  /-- The window is full: a new registration is refused for now (R409). -/
  | refused
  deriving DecidableEq, Repr

/-- The state of a key at the primary (19 R406). -/
inductive KeyState where
  | none | assigned | started | void
  deriving DecidableEq, Repr

/-- A replicated assignment or change of state (19 R405, R410). -/
structure Replica where
  key : BitVec 64
  number : BitVec 32
  state : KeyState
  /-- Members that have registered the key, started it, and reported DONE or SKIPPED (19 R405, R412). -/
  regs : List Nat
  started : List Nat
  done : List Nat
  epoch : BitVec 32
  deriving DecidableEq, Repr

/-- One write packet or remote signal of an FPUT as its target receives it (19 R420), with the places in its data of the bytes that were read with an
uncorrectable error (R423). -/
structure Packet where
  comm : Nat
  va : BitVec 64
  data : List Byte
  bad : List Nat
  signal : Bool
  origin : Nat
  op : Nat
  deriving DecidableEq, Repr

/-- The bytes of a packet, with the places of those that were read with an uncorrectable error (19 R423). -/
structure Payload where
  bytes : List Byte
  bad : List Nat
  deriving DecidableEq, Repr

/-- A unit that the scrub has read: 32 bytes of HBM, or 8 bytes that a slice of L2 holds, at a physical address (21 R427, R429). -/
inductive Scrubbed where
  | hbm (pa : Nat)
  | l2 (pa : Nat)
  deriving DecidableEq, Repr

/-- What a boot of the device finds (22 R454, R460; 11 R243): the signed images of the first-stage loader, the firmware, the partition
configuration and the test-kernel key, the CXL memory on each port, and the fused strap; and what has reset the device, a write of RESETCTL in a
partition, or nothing for the reset pin (R452). -/
structure Boot where
  loader : List Byte
  firmware : List Byte
  config : List Byte
  testKey : List Byte
  cxl : List Nat
  openStrap : Bool
  resetctl : Option (Nat × BitVec 64)
  deriving DecidableEq, Repr

/-- One test kernel of a round (21 R444, R445): the unit that it tests, by kind and number, its identifier, its signed image, and the outputs that
it produced. -/
structure TestRun where
  kind : Nat
  unit : Nat
  test : Nat
  image : List Byte
  outputs : List (List Byte)
  deriving DecidableEq, Repr

/-- Where a soft error strikes (21 R427). -/
inductive Strike where
  | hbm (pa : Nat)
  | l2 (pa : Nat)
  /-- A unit of a remote line, by the slice's stack group and the unit's physical address. -/
  | remote (group pa : Nat)
  | l1 (core line unit : Nat)
  | scratch (core off : Nat)
  | scalar (sid reg : Nat)
  | lane (sid reg k : Nat)
  | frame (gid : Nat)
  /-- A unit of a record in a vertex cache, by its physical address. -/
  | vertex (pa : Nat)
  /-- An entry of a matrix engine's accumulator store, by 64 × row + column. -/
  | acc (engine entry : Nat)
  /-- A weight of a bank, by 64 × column + row. -/
  | latch (engine : Nat) (shadow : Bool) (cell : Nat)
  | icache (core line : Nat)
  | tlb (k : Nat)
  deriving DecidableEq, Repr

/-- One constructor for every row of the opcode table. -/
inductive Instr where
  -- SYS group (R64)
  | nop (o : FormNS) | yield (o : FormNS) | fetchb (o : FormNS) | regang (o : FormNS) | exit (o : FormNS)
  | trap (o : FormNS) | brk (o : FormNS) | eret (o : FormNS) | chkerr (o : FormNS) | trigger (o : FormNS)
  | guard (o : FormNS) | resolve (o : FormNS)
  -- ALU group (R65)
  | add (o : FormNA) | sub (o : FormNA) | mul (o : FormNA) | mulh (o : FormNA) | mulhn (o : FormNA)
  | div (o : FormNA) | divn (o : FormNA) | rem (o : FormNA) | remn (o : FormNA)
  | and (o : FormNA) | or (o : FormNA) | xor (o : FormNA) | andn (o : FormNA)
  | shl (o : FormNA) | shr (o : FormNA) | sar (o : FormNA) | rol (o : FormNA)
  | min (o : FormNA) | minn (o : FormNA) | max (o : FormNA) | maxn (o : FormNA)
  | slt (o : FormNA) | sltn (o : FormNA) | seq (o : FormNA)
  | clz (o : FormNA) | ctz (o : FormNA) | popc (o : FormNA) | brev (o : FormNA)
  | sext (o : FormNA) | zext (o : FormNA) | lea (k : BitVec 2) (o : FormNA)
  -- immediates, constants, bit fields (R63)
  | addi (o : FormNI) | andi (o : FormNI) | ori (o : FormNI) | xori (o : FormNI) | slti (o : FormNI) | shi (o : FormNI)
  | li (o : FormNL) | lsh (o : FormNL) | addpc (o : FormNL)
  | bext (o : FormNF) | bins (o : FormNF) | bextv (o : FormNR) | binsv (o : FormNR)
  -- control (R63)
  | br (o : FormNB) | j (o : FormNJ) | call (o : FormNC) | callr (o : FormNC) | ret (o : FormNJ) | region (o : FormNJ)
  -- memory, range maintenance (R63)
  | ld (o : FormNM) | st (o : FormNM) | amo (o : FormNR) | ldx (o : FormNX) | stx (o : FormNX)
  | cwb (o : FormNR) | cinv (o : FormNR) | icinv (o : FormNR)
  -- spawn, cells, stages, barriers (R63)
  | spawn (o : FormNB) | await (o : FormNB) | signal (o : FormNR) | cellinit (o : FormNR) | cellrd (o : FormNR)
  | emit (o : FormNR)
  | barInit (o : FormBar) | barArrive (o : FormBar) | barWait (o : FormBar) | barSync (o : FormBar)
  -- CSRs, segments, translation (R63)
  | csrr (o : FormNI) | csrw (o : FormNI) | segw (o : FormNR) | tlbi (o : FormNR)
  -- lane integer (R66)
  | vadd (o : Wide) | vsub (o : Wide) | vmul (o : Wide) | vmulh (o : Wide) | vmad (o : Wide)
  | vand (o : Wide) | vor (o : Wide) | vxor (o : Wide) | vandn (o : Wide)
  | vshl (o : Wide) | vshr (o : Wide) | vsar (o : Wide) | vmin (o : Wide) | vmax (o : Wide) | vabsd (o : Wide)
  | vclz (o : Wide) | vpopc (o : Wide) | vbrev (o : Wide) | vbext (o : Wide) | vbins (o : Wide)
  | vsel (o : Wide) | vcmp (o : Wide) | vsat (o : Wide) | vcvti (o : Wide) | vaddc (o : Wide) | vdot4i (o : Wide)
  | vmovi (o : Wide) | vlane (o : Wide) | smov (o : Wide)
  -- lane float
  | vfadd (o : Wide) | vfsub (o : Wide) | vfmul (o : Wide) | vfma (o : Wide) | vfmin (o : Wide) | vfmax (o : Wide)
  | vfcmp (o : Wide) | vfcls (o : Wide) | vfrcp (o : Wide) | vfrsq (o : Wide) | vfsqrt (o : Wide) | vfexp2 (o : Wide)
  | vflog2 (o : Wide) | vfsin (o : Wide) | vfcos (o : Wide) | vftanh (o : Wide) | vfdiv (o : Wide) | vfrnd (o : Wide)
  -- conversions, packs, dot products
  | vcvtf (o : Wide) | vcvtfi (o : Wide) | vcvtif (o : Wide) | vpack2 (o : Wide) | vpack4 (o : Wide) | vunpk (o : Wide)
  | vfdot2 (o : Wide) | vfdot4 (o : Wide)
  -- cross-lane
  | vperm (o : Wide) | vshfl (o : Wide) | vbcast (o : Wide) | vreduce (o : Wide) | vscan (o : Wide)
  | vballot (o : Wide) | vvote (o : Wide)
  -- lane memory
  | vld (o : Wide) | vst (o : Wide) | vldb (o : Wide) | vstb (o : Wide) | vatom (o : Wide) | vldc (o : Wide)
  | vstf (o : Wide) | vpref (o : Wide)
  -- lane branches, masks, spawning
  | vbr (o : Wide) | vexit (o : Wide) | mset (o : Wide) | mop (o : Wide) | mpopc (o : Wide) | mffs (o : Wide)
  | emset (o : Wide) | livev (o : Wide) | spawnv (o : Wide)
  -- engine words
  | cpy (o : Wide) | cpy2 (o : Wide) | cpyg (o : Wide) | feset (o : Wide)
  | mwld (o : Wide) | mtile (o : Wide) | mq (o : Wide) | mchain (o : Wide) | mrpr (o : Wide) | mstat (o : Wide)
  | rtrace (o : Wide) | rcand (o : Wide) | rverd (o : Wide) | rhit (o : Wide) | rmarch (o : Wide) | rtex (o : Wide)
  | gapp (o : Wide) | gconn (o : Wide) | gmerge (o : Wide) | grw (o : Wide) | gret (o : Wide) | gseal (o : Wide)
  | gopen (o : Wide) | gread (o : Wide) | ghold (o : Wide) | gdrop (o : Wide)
  | coll (o : Wide) | ccancel (o : Wide) | cseq (o : Wide) | fput (o : Wide) | fget (o : Wide)
  -- steps that the round of Machine/Agenda.lean takes by itself, whoever makes them (Lean compiles a constructor with fields as a
  -- value only among the first of them)
  | contextFault (part ctx : Nat) (cause : BitVec 8) | resultReturn (g n : Nat) | gangReady (g : Nat) | rangeWalkDone (g : Nat)
  | cellinitReply (g : Nat) | tlbiConfirm (g : Nat) | strandResume (g q : Nat) | regangRelease (og : Nat) | trapEntry (g : Nat)
  | poolAllocation (tok : Nat) | faultLogWrite (tok : Nat) | faultTimeout (tok : Nat) | preempt (g : Nat)
  | copyActivate (c : Nat) | copyGranule (c n : Nat) | copyComplete (c : Nat) | mwldExecute (c : Nat) | tileStart (c : Nat)
  | matrixLatchStep (c : Nat) | matrixComputeStep (c : Nat) | matrixWriteStep (c : Nat) | tileRetire (c : Nat)
  | mqDispatch (c e : Nat) | rayTraceResult (r : Nat) | rayMarchComplete (r : Nat) | gsealComplete (part pass : Nat)
  | launchAccept (part : Nat) | nodeStart (l n : Nat) | nodeRetire (l n : Nat) | hostNodeWrite (l n : Nat)
  | placeStrand (entry q : Nat) | stageTakeRecords (l n core q : Nat) | stageEnd (l n : Nat) | rebalancePeriod (part : Nat)
  | fputComplete (c : Nat) | crewRollback (crew : Nat) | twinCheckPoint (crew index : Nat) | idleEntry (part : Nat)
  | jobStart (part job : Nat) | jobDone (part job : Nat)
  -- steps of the strand engine
  | branchBubbleEnd (g : Nat) | fairnessStarvation (q : Nat)
  -- faults and their service
  | cellarMigration (part ctx : Nat) (va : BitVec 64) (inward copyOk : Bool) | cellarIdleReturn (part page : Nat)
  | frespRetry (part : Nat) (token : BitVec 32) | frespFail (part : Nat) (token : BitVec 32)
  -- pre-emption, context save, debug
  | contextSave (part ctx : Nat) | contextRestore (part ctx : Nat) | breakpointStop (g : Nat) | dbgctlStopAll (part ctx : Nat)
  | dbgctlResume (part g : Nat) | dbgctlStep (part g : Nat) | dbgctlClose (part : Nat) | dbgauthSubmit (part : Nat)
  | dbgTokenChecked (part : Nat)
  -- copy, matrix, ray, Larder
  | raySpill (core : Nat)
  -- task engine
  | launch (part : Nat) (words : List (BitVec 64))
  -- fabric
  | fputPacketPerform (part : Nat) (p : Packet) | fabricAck (core c : Nat) (failed : Bool)
  | fgetComplete (c k : Nat) (data : Payload) (failed : Bool) | packetResend (c n : Nat) | pathFailure (c : Nat)
  | seqRegister (part comm : Nat) (key : BitVec 64) (m : Nat) | seqStart (part comm : Nat) (key : BitVec 64) (m : Nat)
  | seqCancel (part comm : Nat) (key : BitVec 64) (m : Nat) | seqDoneReport (part comm : Nat) (key : BitVec 64) (m : Nat)
  | memberNotice (part comm : Nat) (number : BitVec 32) (key : BitVec 64) (what : Notice)
  | collStart (part : Nat) (key : BitVec 64) (others : List (BitVec 64 × BitVec 64))
  | collComplete (part : Nat) (key : BitVec 64) (srcs : List (List Byte)) (failed : Bool)
  | replicationApply (part comm : Nat) (r : Replica) | heartbeat (part comm : Nat) | standbyTakeover (part comm : Nat)
  | primaryDegraded (part comm : Nat) | epochFence (part comm : Nat) (epoch : BitVec 32)
  | requestRetry (part comm : Nat) (key : BitVec 64) | memberUnreachable (part comm m : Nat)
  | failedReport (part comm : Nat) (key : BitVec 64)
  -- reliability
  | scrub (w : Scrubbed) (uncorrectable : Bool) | errcntClear (part g : Nat)
  | fieldTestRound (part : Nat) (runs : List TestRun) | fatalError (cause die unit : Nat)
  -- power, reset, attestation, contexts, display, host
  | pwrRun (part : Nat) | pwrPartitionOff (part : Nat) | pwrSleep (part : Nat) | pcieWake | deviceReset (b : Boot)
  | functionLevelReset (part : Nat) | attestRequest (part : Nat) | attestDone (part : Nat) | ctxCreate (part ctx : Nat)
  | ctxDestroy (part ctx : Nat) | ctxPooladd (part : Nat) | ctxLardersz (part : Nat)
  | headJob (part die head : Nat) (a : BitVec 64) | encoderJob (part die enc : Nat) (a : BitVec 64)
  | headScanout (part die head : Nat) | registerWrite (part off : Nat) (v : BitVec 64)
  | hostWindowWrite (part bar off : Nat) (data : List Byte) | communicatorFailure (part comm : Nat)
  | takeoverNotice (part comm dev : Nat) (epoch : BitVec 32) | standbyAcknowledgement (part comm : Nat) (key : BitVec 64)
  | fgetTargetRead (part comm : Nat) (va : BitVec 64) (len tag : Nat) | softError (w : Strike) (uncorrectable : Bool)
  | lifecycleReturned (token : List Byte) | inboundMigrationTimeout (tok : Nat)
  deriving DecidableEq, Repr

end Sys2Proof
end

