-- ==== Sys2Proof/Machine/Fields.lean ====
section
/-! DEFINITION. The opcode maps of 03 R63 to R66, and which terms of the syntax are words of the machine: the operation bits that name an assigned operation
(03 R66, R70 order 1) and the field bits that R52 to R67 and each description bound (R70 order 2). -/

namespace Sys2Proof

/-! ## Narrow formats (R52, R53): the 24 low bits of a word -/

/-- NS: fn8 [23:16], imm16 [15:0]. -/
def FormNS.body (fn : BitVec 8) (o : FormNS) : BitVec 24 := fn ++ o.imm
def FormNS.ofBody (s : Bool) (b : BitVec 24) : FormNS := ⟨s, b.extractLsb' 0 16⟩

/-- NR as the ALU group uses it: sd [23:19], sa [18:14], sb [13:9], W [8], fn [7:0]. -/
def FormNA.body (fn : BitVec 8) (o : FormNA) : BitVec 24 := o.sd ++ o.sa ++ o.sb ++ BitVec.ofBool o.w ++ fn
def FormNA.ofBody (s : Bool) (b : BitVec 24) : FormNA :=
  ⟨s, b.getLsbD 8, b.extractLsb' 19 5, b.extractLsb' 14 5, b.extractLsb' 9 5⟩

/-- NR: sd [23:19], sa [18:14], sb [13:9], fn9 [8:0]. -/
def FormNR.body (o : FormNR) : BitVec 24 := o.sd ++ o.sa ++ o.sb ++ o.fn
def FormNR.ofBody (s : Bool) (b : BitVec 24) : FormNR :=
  ⟨s, b.extractLsb' 19 5, b.extractLsb' 14 5, b.extractLsb' 9 5, b.extractLsb' 0 9⟩

/-- NI: sd [23:19], sa [18:14], imm14 [13:0]. -/
def FormNI.body (o : FormNI) : BitVec 24 := o.sd ++ o.sa ++ o.imm
def FormNI.ofBody (s : Bool) (b : BitVec 24) : FormNI :=
  ⟨s, b.extractLsb' 19 5, b.extractLsb' 14 5, b.extractLsb' 0 14⟩

/-- NL: sd [23:19], imm19 [18:0]. -/
def FormNL.body (o : FormNL) : BitVec 24 := o.sd ++ o.imm
def FormNL.ofBody (s : Bool) (b : BitVec 24) : FormNL := ⟨s, b.extractLsb' 19 5, b.extractLsb' 0 19⟩

/-- NB: sa [23:19], cc [18:16], disp16 [15:0]. -/
def FormNB.body (o : FormNB) : BitVec 24 := o.sa ++ o.c ++ o.x
def FormNB.ofBody (s : Bool) (b : BitVec 24) : FormNB :=
  ⟨s, b.extractLsb' 19 5, b.extractLsb' 16 3, b.extractLsb' 0 16⟩

/-- NJ: one field of 24 bits. -/
def FormNJ.body (o : FormNJ) : BitVec 24 := o.x
def FormNJ.ofBody (s : Bool) (b : BitVec 24) : FormNJ := ⟨s, b⟩

/-- CALL and CALLR: kS [23:20], kV [19:16], sixteen bits. -/
def FormNC.body (o : FormNC) : BitVec 24 := o.kS ++ o.kV ++ o.x
def FormNC.ofBody (s : Bool) (b : BitVec 24) : FormNC :=
  ⟨s, b.extractLsb' 20 4, b.extractLsb' 16 4, b.extractLsb' 0 16⟩

/-- NM: sd [23:19], sa [18:14], size [13:12], sign-extend [11], off11 [10:0]. -/
def FormNM.body (o : FormNM) : BitVec 24 := o.sd ++ o.sa ++ o.size ++ BitVec.ofBool o.sx ++ o.off
def FormNM.ofBody (s : Bool) (b : BitVec 24) : FormNM :=
  ⟨s, b.extractLsb' 19 5, b.extractLsb' 14 5, b.extractLsb' 12 2, b.getLsbD 11, b.extractLsb' 0 11⟩

/-- NX: as NM, with space [10:8] and off8 [7:0]. -/
def FormNX.body (o : FormNX) : BitVec 24 := o.sd ++ o.sa ++ o.size ++ BitVec.ofBool o.sx ++ o.space ++ o.off
def FormNX.ofBody (s : Bool) (b : BitVec 24) : FormNX :=
  ⟨s, b.extractLsb' 19 5, b.extractLsb' 14 5, b.extractLsb' 12 2, b.getLsbD 11, b.extractLsb' 8 3, b.extractLsb' 0 8⟩

/-- NF: sd [23:19], sa [18:14], pos6 [13:8], [7:6], wid6 [5:0]. -/
def FormNF.body (o : FormNF) : BitVec 24 := o.sd ++ o.sa ++ o.pos ++ o.z ++ o.wid
def FormNF.ofBody (s : Bool) (b : BitVec 24) : FormNF :=
  ⟨s, b.extractLsb' 19 5, b.extractLsb' 14 5, b.extractLsb' 8 6, b.extractLsb' 6 2, b.extractLsb' 0 6⟩

/-- BAR: op [23:22], identifier [21:14], count register [13:9], [8:0]. -/
def FormBar.body (op : BitVec 2) (o : FormBar) : BitVec 24 := op ++ o.id ++ o.cnt ++ o.z
def FormBar.ofBody (s : Bool) (b : BitVec 24) : FormBar :=
  ⟨s, b.extractLsb' 14 8, b.extractLsb' 9 5, b.extractLsb' 0 9⟩

/-! ## Opcode maps -/

/-- S, OP6 and the 24 low bits of a narrow word (03 R63 to R65). -/
def Instr.narrow? : Instr → Option (Bool × BitVec 6 × BitVec 24)
  | .nop o => some (o.s, 0x00, o.body 0x00)
  | .yield o => some (o.s, 0x00, o.body 0x01)
  | .fetchb o => some (o.s, 0x00, o.body 0x02)
  | .regang o => some (o.s, 0x00, o.body 0x03)
  | .exit o => some (o.s, 0x00, o.body 0x04)
  | .trap o => some (o.s, 0x00, o.body 0x05)
  | .brk o => some (o.s, 0x00, o.body 0x06)
  | .eret o => some (o.s, 0x00, o.body 0x07)
  | .chkerr o => some (o.s, 0x00, o.body 0x08)
  | .trigger o => some (o.s, 0x00, o.body 0x09)
  | .guard o => some (o.s, 0x00, o.body 0x0A)
  | .resolve o => some (o.s, 0x00, o.body 0x0B)
  | .add o => some (o.s, 0x01, o.body 0x00)
  | .sub o => some (o.s, 0x01, o.body 0x01)
  | .mul o => some (o.s, 0x01, o.body 0x02)
  | .mulh o => some (o.s, 0x01, o.body 0x03)
  | .mulhn o => some (o.s, 0x01, o.body 0x04)
  | .div o => some (o.s, 0x01, o.body 0x05)
  | .divn o => some (o.s, 0x01, o.body 0x06)
  | .rem o => some (o.s, 0x01, o.body 0x07)
  | .remn o => some (o.s, 0x01, o.body 0x08)
  | .and o => some (o.s, 0x01, o.body 0x09)
  | .or o => some (o.s, 0x01, o.body 0x0A)
  | .xor o => some (o.s, 0x01, o.body 0x0B)
  | .andn o => some (o.s, 0x01, o.body 0x0C)
  | .shl o => some (o.s, 0x01, o.body 0x0D)
  | .shr o => some (o.s, 0x01, o.body 0x0E)
  | .sar o => some (o.s, 0x01, o.body 0x0F)
  | .rol o => some (o.s, 0x01, o.body 0x10)
  | .min o => some (o.s, 0x01, o.body 0x11)
  | .minn o => some (o.s, 0x01, o.body 0x12)
  | .max o => some (o.s, 0x01, o.body 0x13)
  | .maxn o => some (o.s, 0x01, o.body 0x14)
  | .slt o => some (o.s, 0x01, o.body 0x15)
  | .sltn o => some (o.s, 0x01, o.body 0x16)
  | .seq o => some (o.s, 0x01, o.body 0x17)
  | .clz o => some (o.s, 0x01, o.body 0x18)
  | .ctz o => some (o.s, 0x01, o.body 0x19)
  | .popc o => some (o.s, 0x01, o.body 0x1A)
  | .brev o => some (o.s, 0x01, o.body 0x1B)
  | .sext o => some (o.s, 0x01, o.body 0x1C)
  | .zext o => some (o.s, 0x01, o.body 0x1D)
  | .lea k o => some (o.s, 0x01, o.body (8#6 ++ k))
  | .addi o => some (o.s, 0x02, o.body)
  | .andi o => some (o.s, 0x03, o.body)
  | .ori o => some (o.s, 0x04, o.body)
  | .xori o => some (o.s, 0x05, o.body)
  | .slti o => some (o.s, 0x06, o.body)
  | .shi o => some (o.s, 0x07, o.body)
  | .li o => some (o.s, 0x08, o.body)
  | .lsh o => some (o.s, 0x09, o.body)
  | .addpc o => some (o.s, 0x0A, o.body)
  | .bext o => some (o.s, 0x0B, o.body)
  | .bins o => some (o.s, 0x0C, o.body)
  | .bextv o => some (o.s, 0x0D, o.body)
  | .binsv o => some (o.s, 0x0E, o.body)
  | .br o => some (o.s, 0x10, o.body)
  | .j o => some (o.s, 0x11, o.body)
  | .call o => some (o.s, 0x12, o.body)
  | .callr o => some (o.s, 0x13, o.body)
  | .ret o => some (o.s, 0x14, o.body)
  | .region o => some (o.s, 0x15, o.body)
  | .ld o => some (o.s, 0x18, o.body)
  | .st o => some (o.s, 0x19, o.body)
  | .amo o => some (o.s, 0x1A, o.body)
  | .ldx o => some (o.s, 0x1B, o.body)
  | .stx o => some (o.s, 0x1C, o.body)
  | .cwb o => some (o.s, 0x1D, o.body)
  | .cinv o => some (o.s, 0x1E, o.body)
  | .icinv o => some (o.s, 0x1F, o.body)
  | .spawn o => some (o.s, 0x20, o.body)
  | .await o => some (o.s, 0x21, o.body)
  | .signal o => some (o.s, 0x22, o.body)
  | .cellinit o => some (o.s, 0x23, o.body)
  | .cellrd o => some (o.s, 0x24, o.body)
  | .emit o => some (o.s, 0x25, o.body)
  | .csrr o => some (o.s, 0x2C, o.body)
  | .csrw o => some (o.s, 0x2D, o.body)
  | .segw o => some (o.s, 0x2E, o.body)
  | .tlbi o => some (o.s, 0x2F, o.body)
  | .barInit o => some (o.s, 0x28, o.body 0)
  | .barArrive o => some (o.s, 0x28, o.body 1)
  | .barWait o => some (o.s, 0x28, o.body 2)
  | .barSync o => some (o.s, 0x28, o.body 3)
  | _ => none

/-- SYS group: fn8 selects the word (03 R64). -/
def sysOf (fn : Nat) (o : FormNS) : Option Instr :=
  match fn with
  | 0x00 => some (.nop o)
  | 0x01 => some (.yield o)
  | 0x02 => some (.fetchb o)
  | 0x03 => some (.regang o)
  | 0x04 => some (.exit o)
  | 0x05 => some (.trap o)
  | 0x06 => some (.brk o)
  | 0x07 => some (.eret o)
  | 0x08 => some (.chkerr o)
  | 0x09 => some (.trigger o)
  | 0x0A => some (.guard o)
  | 0x0B => some (.resolve o)
  | _ => none

/-- ALU group: fn9[7:0] selects the word (03 R65). -/
def aluOf (fn : Nat) (o : FormNA) : Option Instr :=
  match fn with
  | 0x00 => some (.add o)
  | 0x01 => some (.sub o)
  | 0x02 => some (.mul o)
  | 0x03 => some (.mulh o)
  | 0x04 => some (.mulhn o)
  | 0x05 => some (.div o)
  | 0x06 => some (.divn o)
  | 0x07 => some (.rem o)
  | 0x08 => some (.remn o)
  | 0x09 => some (.and o)
  | 0x0A => some (.or o)
  | 0x0B => some (.xor o)
  | 0x0C => some (.andn o)
  | 0x0D => some (.shl o)
  | 0x0E => some (.shr o)
  | 0x0F => some (.sar o)
  | 0x10 => some (.rol o)
  | 0x11 => some (.min o)
  | 0x12 => some (.minn o)
  | 0x13 => some (.max o)
  | 0x14 => some (.maxn o)
  | 0x15 => some (.slt o)
  | 0x16 => some (.sltn o)
  | 0x17 => some (.seq o)
  | 0x18 => some (.clz o)
  | 0x19 => some (.ctz o)
  | 0x1A => some (.popc o)
  | 0x1B => some (.brev o)
  | 0x1C => some (.sext o)
  | 0x1D => some (.zext o)
  | 0x20 => some (.lea 0 o)
  | 0x21 => some (.lea 1 o)
  | 0x22 => some (.lea 2 o)
  | 0x23 => some (.lea 3 o)
  | _ => none

/-- BAR: bits 23:22 select the operation (03 R53). -/
def barOf (op : Nat) (o : FormBar) : Option Instr :=
  match op with
  | 0 => some (.barInit o)
  | 1 => some (.barArrive o)
  | 2 => some (.barWait o)
  | 3 => some (.barSync o)
  | _ => none

/-- The narrow instruction that OP6 selects; every other value is reserved (03 R63). -/
def narrowOf (op : Nat) (s : Bool) (b : BitVec 24) : Option Instr :=
  match op with
  | 0x00 => sysOf (b.extractLsb' 16 8).toNat (.ofBody s b)
  | 0x01 => aluOf (b.extractLsb' 0 8).toNat (.ofBody s b)
  | 0x02 => some (.addi (.ofBody s b))
  | 0x03 => some (.andi (.ofBody s b))
  | 0x04 => some (.ori (.ofBody s b))
  | 0x05 => some (.xori (.ofBody s b))
  | 0x06 => some (.slti (.ofBody s b))
  | 0x07 => some (.shi (.ofBody s b))
  | 0x08 => some (.li (.ofBody s b))
  | 0x09 => some (.lsh (.ofBody s b))
  | 0x0A => some (.addpc (.ofBody s b))
  | 0x0B => some (.bext (.ofBody s b))
  | 0x0C => some (.bins (.ofBody s b))
  | 0x0D => some (.bextv (.ofBody s b))
  | 0x0E => some (.binsv (.ofBody s b))
  | 0x10 => some (.br (.ofBody s b))
  | 0x11 => some (.j (.ofBody s b))
  | 0x12 => some (.call (.ofBody s b))
  | 0x13 => some (.callr (.ofBody s b))
  | 0x14 => some (.ret (.ofBody s b))
  | 0x15 => some (.region (.ofBody s b))
  | 0x18 => some (.ld (.ofBody s b))
  | 0x19 => some (.st (.ofBody s b))
  | 0x1A => some (.amo (.ofBody s b))
  | 0x1B => some (.ldx (.ofBody s b))
  | 0x1C => some (.stx (.ofBody s b))
  | 0x1D => some (.cwb (.ofBody s b))
  | 0x1E => some (.cinv (.ofBody s b))
  | 0x1F => some (.icinv (.ofBody s b))
  | 0x20 => some (.spawn (.ofBody s b))
  | 0x21 => some (.await (.ofBody s b))
  | 0x22 => some (.signal (.ofBody s b))
  | 0x23 => some (.cellinit (.ofBody s b))
  | 0x24 => some (.cellrd (.ofBody s b))
  | 0x25 => some (.emit (.ofBody s b))
  | 0x2C => some (.csrr (.ofBody s b))
  | 0x2D => some (.csrw (.ofBody s b))
  | 0x2E => some (.segw (.ofBody s b))
  | 0x2F => some (.tlbi (.ofBody s b))
  | 0x28 => barOf (b.extractLsb' 22 2).toNat (.ofBody s b)
  | _ => none

/-- OP8 and the fields of a wide word (03 R66). -/
def Instr.wide? : Instr → Option (BitVec 8 × Wide)
  | .vadd o => some (0x00, o)
  | .vsub o => some (0x01, o)
  | .vmul o => some (0x02, o)
  | .vmulh o => some (0x03, o)
  | .vmad o => some (0x04, o)
  | .vand o => some (0x05, o)
  | .vor o => some (0x06, o)
  | .vxor o => some (0x07, o)
  | .vandn o => some (0x08, o)
  | .vshl o => some (0x09, o)
  | .vshr o => some (0x0A, o)
  | .vsar o => some (0x0B, o)
  | .vmin o => some (0x0C, o)
  | .vmax o => some (0x0D, o)
  | .vabsd o => some (0x0E, o)
  | .vclz o => some (0x0F, o)
  | .vpopc o => some (0x10, o)
  | .vbrev o => some (0x11, o)
  | .vbext o => some (0x12, o)
  | .vbins o => some (0x13, o)
  | .vsel o => some (0x14, o)
  | .vcmp o => some (0x15, o)
  | .vsat o => some (0x16, o)
  | .vcvti o => some (0x17, o)
  | .vaddc o => some (0x18, o)
  | .vdot4i o => some (0x19, o)
  | .vmovi o => some (0x1B, o)
  | .vlane o => some (0x1C, o)
  | .smov o => some (0x1D, o)
  | .vfadd o => some (0x30, o)
  | .vfsub o => some (0x31, o)
  | .vfmul o => some (0x32, o)
  | .vfma o => some (0x33, o)
  | .vfmin o => some (0x34, o)
  | .vfmax o => some (0x35, o)
  | .vfcmp o => some (0x36, o)
  | .vfcls o => some (0x37, o)
  | .vfrcp o => some (0x38, o)
  | .vfrsq o => some (0x39, o)
  | .vfsqrt o => some (0x3A, o)
  | .vfexp2 o => some (0x3B, o)
  | .vflog2 o => some (0x3C, o)
  | .vfsin o => some (0x3D, o)
  | .vfcos o => some (0x3E, o)
  | .vftanh o => some (0x3F, o)
  | .vfdiv o => some (0x40, o)
  | .vfrnd o => some (0x41, o)
  | .vcvtf o => some (0x42, o)
  | .vcvtfi o => some (0x43, o)
  | .vcvtif o => some (0x44, o)
  | .vpack2 o => some (0x45, o)
  | .vpack4 o => some (0x46, o)
  | .vunpk o => some (0x47, o)
  | .vfdot2 o => some (0x48, o)
  | .vfdot4 o => some (0x49, o)
  | .vperm o => some (0x60, o)
  | .vshfl o => some (0x61, o)
  | .vbcast o => some (0x62, o)
  | .vreduce o => some (0x63, o)
  | .vscan o => some (0x64, o)
  | .vballot o => some (0x65, o)
  | .vvote o => some (0x66, o)
  | .vld o => some (0x70, o)
  | .vst o => some (0x71, o)
  | .vldb o => some (0x72, o)
  | .vstb o => some (0x73, o)
  | .vatom o => some (0x74, o)
  | .vldc o => some (0x75, o)
  | .vstf o => some (0x76, o)
  | .vpref o => some (0x77, o)
  | .vbr o => some (0x80, o)
  | .vexit o => some (0x81, o)
  | .mset o => some (0x82, o)
  | .mop o => some (0x83, o)
  | .mpopc o => some (0x84, o)
  | .mffs o => some (0x85, o)
  | .emset o => some (0x86, o)
  | .livev o => some (0x87, o)
  | .cpy o => some (0x90, o)
  | .cpy2 o => some (0x91, o)
  | .cpyg o => some (0x92, o)
  | .feset o => some (0x93, o)
  | .mwld o => some (0x98, o)
  | .mtile o => some (0x99, o)
  | .mq o => some (0x9A, o)
  | .mchain o => some (0x9B, o)
  | .mrpr o => some (0x9C, o)
  | .mstat o => some (0x9D, o)
  | .rtrace o => some (0xA0, o)
  | .rcand o => some (0xA1, o)
  | .rverd o => some (0xA2, o)
  | .rhit o => some (0xA3, o)
  | .rmarch o => some (0xA4, o)
  | .rtex o => some (0xA5, o)
  | .gapp o => some (0xA8, o)
  | .gconn o => some (0xA9, o)
  | .gmerge o => some (0xAA, o)
  | .grw o => some (0xAB, o)
  | .gret o => some (0xAC, o)
  | .gseal o => some (0xAD, o)
  | .gopen o => some (0xAE, o)
  | .gread o => some (0xAF, o)
  | .ghold o => some (0xB0, o)
  | .gdrop o => some (0xB1, o)
  | .coll o => some (0xB8, o)
  | .ccancel o => some (0xB9, o)
  | .cseq o => some (0xBA, o)
  | .fput o => some (0xBB, o)
  | .fget o => some (0xBC, o)
  | .spawnv o => some (0xC0, o)
  | _ => none

/-- The wide instruction that OP8 selects; every other value is reserved (03 R66). -/
def wideOf (op : Nat) (o : Wide) : Option Instr :=
  match op with
  | 0x00 => some (.vadd o)
  | 0x01 => some (.vsub o)
  | 0x02 => some (.vmul o)
  | 0x03 => some (.vmulh o)
  | 0x04 => some (.vmad o)
  | 0x05 => some (.vand o)
  | 0x06 => some (.vor o)
  | 0x07 => some (.vxor o)
  | 0x08 => some (.vandn o)
  | 0x09 => some (.vshl o)
  | 0x0A => some (.vshr o)
  | 0x0B => some (.vsar o)
  | 0x0C => some (.vmin o)
  | 0x0D => some (.vmax o)
  | 0x0E => some (.vabsd o)
  | 0x0F => some (.vclz o)
  | 0x10 => some (.vpopc o)
  | 0x11 => some (.vbrev o)
  | 0x12 => some (.vbext o)
  | 0x13 => some (.vbins o)
  | 0x14 => some (.vsel o)
  | 0x15 => some (.vcmp o)
  | 0x16 => some (.vsat o)
  | 0x17 => some (.vcvti o)
  | 0x18 => some (.vaddc o)
  | 0x19 => some (.vdot4i o)
  | 0x1B => some (.vmovi o)
  | 0x1C => some (.vlane o)
  | 0x1D => some (.smov o)
  | 0x30 => some (.vfadd o)
  | 0x31 => some (.vfsub o)
  | 0x32 => some (.vfmul o)
  | 0x33 => some (.vfma o)
  | 0x34 => some (.vfmin o)
  | 0x35 => some (.vfmax o)
  | 0x36 => some (.vfcmp o)
  | 0x37 => some (.vfcls o)
  | 0x38 => some (.vfrcp o)
  | 0x39 => some (.vfrsq o)
  | 0x3A => some (.vfsqrt o)
  | 0x3B => some (.vfexp2 o)
  | 0x3C => some (.vflog2 o)
  | 0x3D => some (.vfsin o)
  | 0x3E => some (.vfcos o)
  | 0x3F => some (.vftanh o)
  | 0x40 => some (.vfdiv o)
  | 0x41 => some (.vfrnd o)
  | 0x42 => some (.vcvtf o)
  | 0x43 => some (.vcvtfi o)
  | 0x44 => some (.vcvtif o)
  | 0x45 => some (.vpack2 o)
  | 0x46 => some (.vpack4 o)
  | 0x47 => some (.vunpk o)
  | 0x48 => some (.vfdot2 o)
  | 0x49 => some (.vfdot4 o)
  | 0x60 => some (.vperm o)
  | 0x61 => some (.vshfl o)
  | 0x62 => some (.vbcast o)
  | 0x63 => some (.vreduce o)
  | 0x64 => some (.vscan o)
  | 0x65 => some (.vballot o)
  | 0x66 => some (.vvote o)
  | 0x70 => some (.vld o)
  | 0x71 => some (.vst o)
  | 0x72 => some (.vldb o)
  | 0x73 => some (.vstb o)
  | 0x74 => some (.vatom o)
  | 0x75 => some (.vldc o)
  | 0x76 => some (.vstf o)
  | 0x77 => some (.vpref o)
  | 0x80 => some (.vbr o)
  | 0x81 => some (.vexit o)
  | 0x82 => some (.mset o)
  | 0x83 => some (.mop o)
  | 0x84 => some (.mpopc o)
  | 0x85 => some (.mffs o)
  | 0x86 => some (.emset o)
  | 0x87 => some (.livev o)
  | 0x90 => some (.cpy o)
  | 0x91 => some (.cpy2 o)
  | 0x92 => some (.cpyg o)
  | 0x93 => some (.feset o)
  | 0x98 => some (.mwld o)
  | 0x99 => some (.mtile o)
  | 0x9A => some (.mq o)
  | 0x9B => some (.mchain o)
  | 0x9C => some (.mrpr o)
  | 0x9D => some (.mstat o)
  | 0xA0 => some (.rtrace o)
  | 0xA1 => some (.rcand o)
  | 0xA2 => some (.rverd o)
  | 0xA3 => some (.rhit o)
  | 0xA4 => some (.rmarch o)
  | 0xA5 => some (.rtex o)
  | 0xA8 => some (.gapp o)
  | 0xA9 => some (.gconn o)
  | 0xAA => some (.gmerge o)
  | 0xAB => some (.grw o)
  | 0xAC => some (.gret o)
  | 0xAD => some (.gseal o)
  | 0xAE => some (.gopen o)
  | 0xAF => some (.gread o)
  | 0xB0 => some (.ghold o)
  | 0xB1 => some (.gdrop o)
  | 0xB8 => some (.coll o)
  | 0xB9 => some (.ccancel o)
  | 0xBA => some (.cseq o)
  | 0xBB => some (.fput o)
  | 0xBC => some (.fget o)
  | 0xC0 => some (.spawnv o)
  | _ => none

/-- A row of the table that is a word, not a step. -/
def Instr.isWord (i : Instr) : Bool := i.wide?.isSome || i.narrow?.isSome

/-! ## Field conditions of narrow words -/

/-- The strand CSRs of 05 R118: whether the number is listed, and whether CSRW may name it. -/
def csrListed (n : Nat) : Bool :=
  n ≤ 5 || (8 ≤ n && n ≤ 11) || (16 ≤ n && n ≤ 28) || (32 ≤ n && n ≤ 37)

/-- CSRs that CSRW may name: those R118 does not mark read-only throughout. -/
def csrWritable (n : Nat) : Bool := n ≤ 4 || (8 ≤ n && n ≤ 11)

/-- SPAWN's and SPAWNV's tier and scratchpad KiB (03 R53, R70): tier 0 to 4; KiB at most 1024, a multiple of 4, and zero
unless the tier is C. -/
def tierKibOk (tier kib : Nat) : Bool :=
  decide (tier < 5) && decide (kib ≤ 1024) && kib % 4 == 0 && (tier == 1 || kib == 0)

/-- SYS words whose imm16 must be zero (03 R64). -/
def FormNS.zero (o : FormNS) : Bool := o.imm == 0

/-- SHI (03 R53): unassigned bits zero, and with W the amount below 32. -/
def shiOk (o : FormNI) : Bool :=
  o.imm.extractLsb' 9 3 == 0 && o.imm.extractLsb' 6 2 == 0 && (!o.imm.getLsbD 8 || !o.imm.getLsbD 5)

/-- LD and LDX of a double, and every ST and STX, have the sign-extend bit zero (06 R130, R132). -/
def sxOk (store : Bool) (size : BitVec 2) (sx : Bool) : Bool := !sx || (!store && size != 3)

/-- BAR (03 R53): the count register only with INIT, bits 8:0 zero. -/
def barOk (init : Bool) (o : FormBar) : Bool := (init || o.cnt == 0) && o.z == 0

/-! ## Wide words -/

/-- What aux holds (03 R55). -/
inductive AuxKind where
  | zero | modifiers | mask | select | carry | guard | dest
  deriving DecidableEq, Repr

/-- The aux bits of each kind: unassigned bits zero (03 R55, R67; 07 R155, R157). -/
def AuxKind.ok (k : AuxKind) (a : BitVec 6) : Bool :=
  match k with
  | .zero => a == 0
  | .modifiers | .select => a.extractLsb' 4 2 == 0
  | .mask => a.extractLsb' 3 3 == 0
  | .carry => a.extractLsb' 3 3 == 0 && a.extractLsb' 0 3 != 0
  | .guard => !a.getLsbD 4
  | .dest => !a.getLsbD 5

/-- How fn8 divides (03 R66): operation bits under a mask with the listed values, or field bits under a mask. -/
inductive FnRule where
  | ops (mask : BitVec 8) (values : List Nat)
  | fields (mask : BitVec 8)
  deriving DecidableEq, Repr

/-- No sub-operation: all eight bits are operation bits and only 0 is assigned. -/
def FnRule.none : FnRule := .ops 0xFF [0]

/-- The operation bits are assigned (order 1 of R70). -/
def FnRule.assigned (r : FnRule) (fn : BitVec 8) : Bool :=
  match r with
  | .ops m vs => vs.contains (fn &&& m).toNat
  | .fields _ => true

/-- The field bits that must be zero are (order 2 of R70). -/
def FnRule.ok (r : FnRule) (fn : BitVec 8) : Bool :=
  match r with
  | .ops _ _ => true
  | .fields m => (fn &&& ~~~m) == 0

/-- Which fields a wide word uses, which T codes it accepts, and which register fields are pairs under i64 and n64. -/
structure WideRule where
  d : Bool := false
  a : Bool := false
  b : Bool := false
  c : Bool := false
  s : Bool := false
  p : Bool := false
  /-- imm32 bits the word may use. -/
  i : BitVec 32 := 0
  /-- Whether the word rounds, so that RM may name a mode (03 R62). -/
  r : Bool := false
  aux : AuxKind := .zero
  fn : FnRule := .none
  t : List Nat := [0]
  pd : Bool := false
  pa : Bool := false
  pb : Bool := false
  pc : Bool := false
  deriving DecidableEq, Repr

/-- Fields a rule leaves unused are zero; pm is not 0b1000; T and RM are codes the word accepts; pairs are even
(03 R58, R62, R70; 07 R150). -/
def WideRule.ok (r : WideRule) (o : Wide) : Bool :=
  (r.d || o.vd == 0) && (r.a || o.va == 0) && (r.b || o.vb == 0) && (r.c || o.vc == 0) && (r.s || o.ss == 0) &&
  (if r.p then o.pm != 8 else o.pm == 0) && (o.imm &&& ~~~r.i) == 0 && r.t.contains o.t.toNat &&
  decide (o.rm.toNat < if r.r then 6 else 1) && r.aux.ok o.aux && r.fn.ok o.fn &&
  (!(o.t == 6 || o.t == 7) ||
    ((!r.pd || !o.vd.getLsbD 0) && (!r.pa || !o.va.getLsbD 0) && (!r.pb || !o.vb.getLsbD 0) &&
      (!r.pc || !o.vc.getLsbD 0)))

/-- Type lists of 07: 32- and 64-bit integers; the cross-lane types; every type but e2m1 and the reserved codes. -/
def tInt : List Nat := [0, 1, 6, 7]
def tMove : List Nat := [0, 6, 7]
def tMem : List Nat := List.range 13
def tBlock : List Nat := [0, 1, 6, 7, 8]

/-- Lane integer word of two sources (07 R153). -/
def ruleInt2 : WideRule :=
  { d := true, a := true, b := true, p := true, t := tInt, pd := true, pa := true, pb := true }

/-- Lane integer word of one source (07 R153). -/
def ruleInt1 : WideRule := { ruleInt2 with b := false, pb := false }

/-- Lane float word of two sources with modifiers (07 R161). -/
def ruleF2 : WideRule := { d := true, a := true, b := true, p := true, r := true, aux := .modifiers, t := [8] }

/-- Special functions (04 R89): f32, RM 0. -/
def ruleSfu : WideRule := { d := true, a := true, p := true, t := [8] }

/-- Slice-level engine commands with a guard (12 R262, 13 R294, 19 R413). -/
def ruleCmd : WideRule := { s := true, aux := .guard }

/-- Larder lane words (16 R357). -/
def ruleLarder : WideRule := { d := true, a := true, p := true }

/-- A word of the mask group (07 R182). -/
def ruleMask : WideRule := {}

/-- The rule of each wide word; narrow words and steps have none. -/
def Instr.rule : Instr → Option WideRule
  | .vadd _ | .vsub _ | .vmul _ | .vmulh _ | .vand _ | .vor _ | .vxor _ | .vandn _ | .vshl _ | .vshr _ | .vsar _
  | .vmin _ | .vmax _ | .vabsd _ => some ruleInt2
  | .vmad _ => some { ruleInt2 with c := true, pc := true }
  | .vclz _ | .vpopc _ | .vbrev _ => some ruleInt1
  | .vbext _ | .vbins _ =>
      some { d := true, a := true, b := true, p := true, i := 0x3F3F, fn := .ops 0xFF [0, 1] }
  | .vsel _ => some { ruleInt2 with aux := .select, t := List.range 14 }
  | .vcmp _ => some { ruleInt2 with d := false, pd := false, aux := .mask, fn := .ops 0xFF (List.range 6) }
  | .vsat _ => some { d := true, a := true, p := true, fn := .fields 1, t := List.range 6 }
  | .vcvti _ => some { d := true, a := true, p := true, fn := .fields 0x1F, t := List.range 8, pd := true }
  | .vaddc _ => some { d := true, a := true, b := true, p := true, aux := .carry, t := [1] }
  | .vdot4i _ => some { d := true, a := true, b := true, c := true, p := true, t := [4, 5] }
  | .vmovi _ => some { d := true, s := true, p := true, i := 0xFFFFFFFF, fn := .ops 0xFF [0, 1], t := tBlock, pd := true }
  | .vlane _ => some { d := true, p := true, i := 0xFFFFFFFF }
  | .smov _ => some { a := true, s := true, p := true, i := 0x1F, t := tInt, pa := true }
  | .vfadd _ | .vfsub _ | .vfmul _ | .vfmin _ | .vfmax _ | .vfdiv _ => some ruleF2
  | .vfma _ => some { ruleF2 with c := true }
  | .vfcmp _ => some { a := true, b := true, p := true, aux := .mask, fn := .ops 0xFF (List.range 8), t := [8] }
  | .vfcls _ | .vfrcp _ | .vfrsq _ | .vfsqrt _ | .vfexp2 _ | .vflog2 _ | .vfsin _ | .vfcos _ | .vftanh _ => some ruleSfu
  | .vfrnd _ => some { ruleSfu with r := true }
  | .vcvtf _ => some { ruleSfu with r := true, fn := .fields 0xFF, t := [8, 9, 10, 11, 12, 13] }
  | .vcvtfi _ => some { ruleSfu with r := true, t := List.range 8, pd := true }
  | .vcvtif _ => some { ruleSfu with r := true, fn := .fields 0x0F, t := [8, 9, 10] }
  | .vpack2 _ => some { ruleSfu with b := true, r := true, t := [9, 10] }
  | .vpack4 _ =>
      some { ruleSfu with b := true, c := true, r := true, i := 0x3F, fn := .fields 0x81, t := [11, 12, 13] }
  | .vunpk _ => some { ruleSfu with t := [9, 10, 11, 12, 13] }
  | .vfdot2 _ => some { ruleSfu with b := true, c := true, r := true, t := [9, 10] }
  | .vfdot4 _ => some { ruleSfu with b := true, c := true, r := true, t := [11, 12] }
  | .vperm _ => some { d := true, a := true, b := true, p := true, t := tMove, pd := true, pa := true, pb := true }
  | .vshfl _ =>
      some { d := true, a := true, p := true, i := 0x1F, fn := .ops 0xFF [0, 1, 2], t := tMove, pd := true, pa := true }
  | .vbcast _ =>
      some { d := true, a := true, s := true, p := true, i := 0x1F, fn := .ops 0xFF [0, 1], t := tMove, pd := true,
             pa := true }
  | .vreduce _ | .vscan _ =>
      some { d := true, a := true, p := true, r := true, fn := .ops 0x7F [0, 1, 2, 3, 4, 5, 8, 9, 10], t := 8 :: tInt,
             pd := true, pa := true }
  | .vballot _ => some { a := true, s := true, p := true }
  | .vvote _ => some { a := true, s := true, p := true, fn := .ops 0xFF [0, 1] }
  | .vld _ | .vst _ =>
      some { d := true, a := true, s := true, p := true, i := 0xFFFFFFFF, fn := .fields 3, t := tMem, pd := true }
  | .vldb _ | .vstb _ => some { d := true, s := true, p := true, i := 0xFFFFFFFF, t := tMem, pd := true }
  | .vatom _ =>
      some { d := true, a := true, b := true, c := true, s := true, p := true, i := 0xFFFFFFFF,
             fn := .ops 0x0F (List.range 10), t := tInt, pd := true, pb := true, pc := true }
  | .vldc _ => some { d := true, s := true, p := true, i := 0xFFFFFFFF, fn := .fields 1, t := tBlock, pd := true }
  | .vstf _ => some { d := true, s := true, p := true, i := 0xFFFFFFFF, t := tBlock, pd := true }
  | .vpref _ => some { a := true, s := true, p := true, i := 0xFFFFFFFF, fn := .fields 7, t := tMem }
  | .vbr _ => some { p := true, i := 0xFFFFFFFF }
  | .vexit _ => some { p := true }
  | .mset _ => some { ruleMask with d := true, s := true, i := 0xFFFFFFFF, fn := .ops 0xFF [0, 1] }
  | .mop _ => some { ruleMask with d := true, a := true, b := true, fn := .ops 0xFF (List.range 6) }
  | .mpopc _ | .mffs _ => some { ruleMask with a := true, s := true }
  | .emset _ => some { ruleMask with a := true, fn := .ops 0xFF [0, 1] }
  | .livev _ => none
  | .spawnv _ => some { a := true, s := true, p := true, i := 0xFFFF, fn := .fields 7 }
  | .cpy _ | .cpy2 _ | .cpyg _ | .feset _ => some { ruleCmd with fn := .fields 1 }
  | .mwld _ => some { ruleCmd with t := [4, 5, 9, 10, 11, 12, 13] }
  | .mtile _ => some ruleCmd
  | .mq _ => some { ruleCmd with fn := .fields 7 }
  | .mchain _ => some { i := 7 }
  | .mrpr _ | .mstat _ => some { s := true }
  | .rtrace _ => some { d := true, a := true, b := true, c := true, s := true, p := true, i := 0x7FFF }
  | .rcand _ => some { d := true, s := true, p := true, i := 0xF }
  | .rverd _ => some { a := true, b := true, c := true, s := true, p := true, i := 0xF }
  | .rhit _ => some { d := true, s := true, p := true }
  | .rmarch _ => some { d := true, a := true, b := true, c := true, s := true, p := true, i := 0xFF, aux := .guard }
  | .rtex _ => some { d := true, a := true, b := true, c := true, s := true, p := true, fn := .fields 1 }
  | .gapp _ => some { ruleLarder with s := true }
  | .gconn _ => some { ruleLarder with b := true, c := true, fn := .fields 1 }
  | .gmerge _ => some { ruleLarder with b := true, c := true, s := true, i := 0xFF }
  | .grw _ => some { ruleLarder with b := true }
  | .gret _ => some { ruleLarder with fn := .fields 1 }
  | .gseal _ => some { s := true, aux := .dest }
  | .gopen _ => some { s := true, aux := .dest, fn := .fields 1 }
  | .gread _ => some { ruleLarder with b := true, s := true, fn := .fields 1 }
  | .ghold _ | .gdrop _ => some ruleLarder
  | .coll _ | .fput _ | .fget _ => some ruleCmd
  | .ccancel _ | .cseq _ => some { s := true }
  | _ => none

/-- A block of `k` lane registers stays within v0 to v63 (03 R58). -/
def laneBlock (v : VReg) (k : Nat) : Bool := decide (v.toNat + k ≤ 64)

/-- A block of `k` scalar registers ends at code 31 or below (03 R58). -/
def scalBlock (r : SReg) (k : Nat) : Bool := decide (r.toNat + k ≤ 32)

/-- A block of `k` scalar registers within s0 to s23 (12 R262). -/
def winBlock (r : SReg) (k : Nat) : Bool := decide (8 ≤ r.toNat) && decide (r.toNat + k ≤ 32)

/-- Elements of a 32-bit register in each float format (04 R73). -/
def elemsOf (t : Nat) : Nat := if t = 8 then 1 else if t = 9 ∨ t = 10 then 2 else if t = 11 ∨ t = 12 then 4 else 8

/-- The field conditions that a single description adds to its row. -/
def Instr.wideExtra : Instr → Bool
  | .vbext o | .vbins o => if o.fn == 0 then o.vb == 0 else o.imm == 0
  | .vcvti o =>
      decide ((o.fn.extractLsb' 0 4).toNat < 8) && (decide ((o.fn.extractLsb' 0 4).toNat < 6) || !o.va.getLsbD 0)
  | .vmovi o => if o.fn == 0 then o.ss == 0 else o.imm == 0
  | .vcvtf o =>
      let src := (o.fn.extractLsb' 0 4).toNat
      decide (8 ≤ src) && decide (src ≤ 13) && decide ((o.fn.extractLsb' 4 3).toNat < elemsOf src) &&
        (!o.fn.getLsbD 7 || o.t == 11 || o.t == 12)
  | .vcvtif o =>
      decide ((o.fn.extractLsb' 0 4).toNat < 8) && (decide ((o.fn.extractLsb' 0 4).toNat < 6) || !o.va.getLsbD 0)
  | .vpack4 o => if o.t == 13 then !o.fn.getLsbD 7 else !o.fn.getLsbD 0
  | .vunpk o => laneBlock o.vd (elemsOf o.t.toNat)
  | .vbcast o => if o.fn == 0 then o.ss == 0 else o.imm == 0
  | .vreduce o => ((o.t == 8) == o.fn.getLsbD 3) && (o.t == 8 || o.rm == 0) && !o.fn.getLsbD 7
  | .vscan o => ((o.t == 8) == o.fn.getLsbD 3) && (o.t == 8 || o.rm == 0)
  | .vatom o => o.fn.extractLsb' 6 2 == 0 && (o.fn.extractLsb' 0 4 == 9 || o.vc == 0)
  | .mset o => o.vd.extractLsb' 3 3 == 0 && (if o.fn == 0 then o.ss == 0 else o.imm == 0)
  | .mop o =>
      o.vd.extractLsb' 3 3 == 0 && o.va.extractLsb' 3 3 == 0 && o.vb.extractLsb' 3 3 == 0 &&
        (decide (o.fn.toNat < 4) || o.vb == 0)
  | .mpopc o | .mffs o | .emset o => o.va.extractLsb' 3 3 == 0
  | .livev o => o.vd == 0 && o.va == 0 && o.vb == 0 && o.pm == 0
  | .spawnv o =>
      tierKibOk o.fn.toNat (o.imm.extractLsb' 0 16).toNat && (decide (o.ss.toNat + 2 ≤ 7) || winBlock o.ss 3)
  | .cpy o => winBlock o.ss 4
  | .cpy2 o | .cpyg o | .mwld o | .coll o | .fput o => winBlock o.ss 6
  | .feset o => winBlock o.ss 3
  | .mtile o => winBlock o.ss 1
  | .mq o => winBlock o.ss 1 && decide (o.fn.toNat < 4)
  | .mchain o => decide (1 ≤ o.imm.toNat) && decide (o.imm.toNat ≤ 4)
  | .rtrace o =>
      laneBlock o.vd 5 && laneBlock o.va 3 && laneBlock o.vb 3 && laneBlock o.vc 2 && scalBlock o.ss 2 &&
        !(o.imm.getLsbD 8 && o.imm.getLsbD 9)
  | .rcand o => laneBlock o.vd 5
  | .rhit o => laneBlock o.vd 3
  | .rmarch o =>
      (if o.aux.getLsbD 5 then o.vd == 0 else laneBlock o.vd 2) && laneBlock o.va 3 && laneBlock o.vb 3 &&
        laneBlock o.vc 2 && scalBlock o.ss 5 && o.imm != 0
  | .rtex o => laneBlock o.vd 4 && laneBlock o.va 2 && laneBlock o.vb 2 && laneBlock o.vc 2
  | .gapp o | .gread o | .ghold o | .gdrop o => laneBlock o.vd 2
  | .gconn o => laneBlock o.vd 3 && laneBlock o.vc (if o.fn.getLsbD 0 then 2 else 6)
  | .gmerge o => laneBlock o.vd 3 && laneBlock o.vb 2 && !o.vb.getLsbD 0
  | .grw o => laneBlock o.vd 4
  | .gopen o => winBlock o.ss 4
  | .ccancel o | .cseq o => winBlock o.ss 2
  | .fget o => winBlock o.ss 5
  | _ => true

/-- The field conditions of each narrow word (order 2 of R70). -/
def Instr.narrowOk : Instr → Bool
  | .nop o | .yield o | .fetchb o | .exit o | .brk o | .eret o | .trigger o => o.zero
  | .chkerr o => o.imm.extractLsb' 5 11 == 0
  | .guard o => o.imm.extractLsb' 4 12 == 0
  | .resolve o => o.imm.extractLsb' 9 7 == 0
  | .clz o | .ctz o | .popc o | .brev o => o.sb == 0
  | .shi o => shiOk o
  | .lsh o => o.imm.extractLsb' 16 3 == 0
  | .bext o | .bins o => o.z == 0
  | .bextv o | .binsv o => o.fn == 0
  | .br o => o.c != 7 && (o.c != 6 || o.sa == 0)
  | .callr o => o.x.extractLsb' 0 11 == 0
  | .ret o => o.x == 0
  | .ld o => sxOk false o.size o.sx
  | .st o => sxOk true o.size o.sx
  | .amo o => o.fn.getLsbD 5 && o.fn.extractLsb' 6 3 == 0
  | .ldx o => sxOk false o.size o.sx && decide (o.space.toNat < 6)
  | .stx o => sxOk true o.size o.sx && decide (o.space.toNat < 6)
  | .cwb o => o.sd == 0 && o.fn.extractLsb' 1 8 == 0
  | .cinv o | .icinv o | .cellinit o | .emit o => o.sd == 0 && o.fn == 0
  | .spawn o => tierKibOk o.c.toNat o.x.toNat && scalBlock o.sa 4
  | .await o => o.c.extractLsb' 0 2 == 0 && o.x == 0
  | .signal o => o.sd == 0 && o.fn.extractLsb' 0 8 == 0
  | .cellrd o => o.sb == 0 && o.fn == 0
  | .barInit o => barOk true o
  | .barArrive o | .barWait o | .barSync o => barOk false o
  | .csrr o => o.sa == 0 && o.imm.extractLsb' 12 2 == 0 && csrListed (o.imm.extractLsb' 0 12).toNat
  | .csrw o => o.imm.extractLsb' 12 2 == 0 && csrWritable (o.imm.extractLsb' 0 12).toNat
  | .segw o => o.sd == 0 && o.sb == 0 && o.fn.extractLsb' 3 6 == 0 && decide (o.fn.toNat < 6)
  | .tlbi o => o.sd == 0 && o.sb == 0 && o.fn.extractLsb' 1 8 == 0 && (!o.fn.getLsbD 0 || o.sa == 0)
  | _ => true

/-! ## The two checks -/

/-- Order 1 of R70: the operation bits name an assigned operation. -/
def Instr.assigned (i : Instr) : Bool :=
  match i with
  | .amo o => decide ((o.fn.extractLsb' 0 4).toNat < 10)
  | i =>
    match i.rule, i.wide? with
    | some r, some (_, o) => r.fn.assigned o.fn
    | _, _ => true

/-- Order 2 of R70: field bits, codes and blocks. -/
def Instr.fieldsOk (i : Instr) : Bool :=
  i.narrowOk && i.wideExtra &&
    match i.rule, i.wide? with
    | some r, some (_, o) => r.ok o
    | _, _ => true

end Sys2Proof
end

