-- ==== Sys2Proof/WellFormed.lean ====
section
/-! DEFINITION. Well-formed instructions: a word whose operation bits are assigned and whose field bits, codes and blocks
are as 03 R70 orders 1 and 2 ask. The conditions themselves stand in Sys2Proof/Machine/Fields.lean. -/

namespace Sys2Proof

/-- A word that passes the first two checks of 03 R70. -/
def Instr.wellFormed (i : Instr) : Bool := i.isWord && i.assigned && i.fieldsOk

end Sys2Proof
end

