-- ==== Sys2Proof/Decode.lean ====
section
/-! DEFINITION. The decoder, total on any parcels and bytes, which rejects by name (03 R70), and the encoder written from
the same layouts. -/

namespace Sys2Proof

/-- Why a fetched word is no instruction (03 R70, orders 1 and 2). -/
inductive DecodeError where
  /-- Reserved OP6 or OP8, or unassigned operation bits. -/
  | illegalOpcode
  /-- A nonzero field bit, a reserved code, or a block outside its class. -/
  | reservedField
  /-- The word's parcels are not all there. -/
  | incomplete
  deriving DecidableEq, Repr

/-- Bit 31 of the first parcel: a wide word (03 R47). -/
def isWide (p : Parcel) : Bool := p.getLsbD 31

/-- Parcels of the word that starts with this parcel. -/
def parcelCount (p : Parcel) : Nat := if isWide p then 3 else 1

/-- The fields of a wide word (03 R54). -/
def wideFields (p0 p1 p2 : Parcel) : Wide :=
  { s := p0.getLsbD 30, vd := p0.extractLsb' 16 6, va := p0.extractLsb' 10 6, vb := p0.extractLsb' 4 6
    pm := p0.extractLsb' 0 4, vc := p1.extractLsb' 26 6, fn := p1.extractLsb' 18 8, t := p1.extractLsb' 14 4
    rm := p1.extractLsb' 11 3, ss := p1.extractLsb' 6 5, aux := p1.extractLsb' 0 6, imm := p2 }

/-- The instruction that a narrow parcel's opcode names, fields unchecked. -/
def rawNarrow (p : Parcel) : Option Instr :=
  narrowOf (p.extractLsb' 24 6).toNat (p.getLsbD 30) (p.extractLsb' 0 24)

/-- The instruction that a wide word's opcode names, fields unchecked. -/
def rawWide (p0 p1 p2 : Parcel) : Option Instr :=
  wideOf (p0.extractLsb' 22 8).toNat (wideFields p0 p1 p2)

/-- The two decode checks in their order (03 R70). -/
def checked : Option Instr → Except DecodeError Instr
  | none => .error .illegalOpcode
  | some i =>
    if !i.assigned then .error .illegalOpcode
    else if !i.fieldsOk then .error .reservedField
    else .ok i

/-- Decode the word at the head of a stream of parcels, with the rest of the stream. -/
def decode : List Parcel → Except DecodeError (Instr × List Parcel)
  | [] => .error .incomplete
  | p0 :: rest =>
    if isWide p0 then
      match rest with
      | p1 :: p2 :: rest' => (checked (rawWide p0 p1 p2)).map (·, rest')
      | _ => .error .incomplete
    else (checked (rawNarrow p0)).map (·, rest)

/-- The parcels of an instruction; a step has none. -/
def encode (i : Instr) : List Parcel :=
  match i.wide? with
  | some (op, o) =>
      [1#1 ++ BitVec.ofBool o.s ++ op ++ o.vd ++ o.va ++ o.vb ++ o.pm, o.parcel1, o.imm]
  | none =>
    match i.narrow? with
    | some (s, op, b) => [0#1 ++ BitVec.ofBool s ++ op ++ b]
    | none => []

/-- Parcels from bytes at increasing addresses, each little-endian (03 R47). -/
def parcelsOf : List Byte → List Parcel
  | b0 :: b1 :: b2 :: b3 :: rest => ofBytes 32 [b0, b1, b2, b3] :: parcelsOf rest
  | _ => []

/-- The bytes of parcels at increasing addresses. -/
def bytesOf (ps : List Parcel) : List Byte := ps.flatMap (toBytes · 4)

/-- Decode from bytes. -/
def decodeBytes (bs : List Byte) : Except DecodeError Instr := (decode (parcelsOf bs)).map (·.1)

/-- The parcels of a table word: `nbits` low bits of `w`, the first parcel lowest, zero above. -/
def tableParcels (nbits w : Nat) : List Parcel :=
  let v := w % 2 ^ nbits
  [BitVec.ofNat 32 v, BitVec.ofNat 32 (v / 2 ^ 32), BitVec.ofNat 32 (v / 2 ^ 64)]

/-- The instruction that the decoder reads from an instruction whose bits are `w` as the opcode table numbers them. -/
def decodeTableWord (nbits w : Nat) : Option Instr :=
  match decodeBytes (bytesOf (tableParcels nbits w)) with
  | .ok i => some i
  | .error _ => none

end Sys2Proof
end

