-- ==== Sys2Proof/Machine/Maps.lean ====
section
/-! DEFINITION. Sparse tables in one canonical form: keys strictly rising, no entry equal to the value that an unlisted
key has. Memory, scratchpads, register files and the tables of cores are such lists, so that equal contents are equal
data. -/

namespace Sys2Proof.Machine

/-- A sparse table. -/
abbrev Map (α : Type) := List (Nat × α)

/-- The value at a key, `d` where none is listed. -/
def Map.get {α : Type} (d : α) : Map α → Nat → α
  | [], _ => d
  | (k', v) :: m, k => if k' = k then v else Map.get d m k

/-- The entry at a key, if one is listed. -/
def Map.find? {α : Type} : Map α → Nat → Option α
  | [], _ => none
  | (k', v) :: m, k => if k' = k then some v else Map.find? m k

/-- Remove the entry at a key. -/
def Map.erase {α : Type} : Map α → Nat → Map α
  | [], _ => []
  | (k', v) :: m, k => if k' = k then Map.erase m k else (k', v) :: Map.erase m k

/-- Insert or replace the entry at a key, keys kept rising. -/
def Map.put {α : Type} : Map α → Nat → α → Map α
  | [], k, v => [(k, v)]
  | (k', v') :: m, k, v =>
    if k' = k then (k, v) :: m else if k < k' then (k, v) :: (k', v') :: m else (k', v') :: Map.put m k v

/-- Write a key: the value an unlisted key has removes the entry. -/
def Map.set {α : Type} [DecidableEq α] (d : α) (m : Map α) (k : Nat) (v : α) : Map α :=
  if v = d then m.erase k else m.put k v

/-- Keys rise strictly and no entry holds the value of an unlisted key. -/
def Map.wf {α : Type} [DecidableEq α] (d : α) : Map α → Bool
  | [] => true
  | [(_, v)] => decide (v ≠ d)
  | (k, v) :: (k', v') :: m => decide (v ≠ d) && decide (k < k') && Map.wf d ((k', v') :: m)

/-- Write consecutive keys. -/
def Map.setMany {α : Type} [DecidableEq α] (d : α) (m : Map α) (k : Nat) : List α → Map α
  | [] => m
  | v :: vs => Map.setMany d (m.set d k v) (k + 1) vs

/-- Read consecutive keys. -/
def Map.getMany {α : Type} (d : α) (m : Map α) (k n : Nat) : List α := (List.range n).map (fun i => m.get d (k + i))

/-- A set of numbers as a strictly rising list. -/
abbrev NatSet := List Nat

/-- Put a number into a set. -/
def NatSet.put : NatSet → Nat → NatSet
  | [], k => [k]
  | k' :: m, k => if k' = k then k' :: m else if k < k' then k :: k' :: m else k' :: NatSet.put m k

/-- Take a number out of a set. -/
def NatSet.drop : NatSet → Nat → NatSet
  | [], _ => []
  | k' :: m, k => if k' = k then NatSet.drop m k else k' :: NatSet.drop m k

/-- The numbers rise strictly. -/
def NatSet.wf : NatSet → Bool
  | [] | [_] => true
  | k :: k' :: m => decide (k < k') && NatSet.wf (k' :: m)

/-- Apply a function to the first element that a test accepts. -/
def updFirst {α : Type} (p : α → Bool) (f : α → α) : List α → List α
  | [] => []
  | x :: xs => if p x then f x :: xs else x :: updFirst p f xs

/-- A left fold that may stop. -/
def foldE {α β ε : Type} (f : β → α → Except ε β) (b : β) : List α → Except ε β
  | [] => .ok b
  | x :: xs =>
    match f b x with
    | .ok b' => foldE f b' xs
    | .error e => .error e

end Sys2Proof.Machine
end

