-- ==== Sys2Proof/Machine/State.lean ====
section
/-! DEFINITION. The state of one device: strands in their gangs, cores and slices of L2, memory, translation and faults,
the engines, the task engine, the fabric agent, reliability, and the host's registers. Plain data throughout. -/

namespace Sys2Proof.Machine

/-! ## Registers and strands (05 R91) -/

/-- A scalar register's value with its poison tag. -/
structure SVal where
  v : Word64 := 0
  tag : Bool := false
  deriving DecidableEq, Repr

/-- One lane's element with its poison tag. -/
structure LVal where
  v : Word32 := 0
  tag : Bool := false
  deriving DecidableEq, Repr

/-- Four values, one for each lane of a slice. -/
structure Four (α : Type) where
  a0 : α
  a1 : α
  a2 : α
  a3 : α
  deriving DecidableEq, Repr

/-- An entry of the reconvergence stack (05 R96). -/
structure Recon where
  rpc : Word64
  pc : Word64
  mask : BitVec 4
  deriving DecidableEq, Repr

/-- A resident link entry (03 R59): return address and the slides to undo. -/
structure Link where
  ret : Word64
  kS : Nat
  kV : Nat
  deriving DecidableEq, Repr

/-- A guard slot's state (03 R68). -/
inductive GuardState where
  | unresolved | true | false
  deriving DecidableEq, Repr

/-- The region-entry snapshot (05 R109). -/
structure Snap where
  em : BitVec 4
  masks : Map (BitVec 4)
  recon : List Recon
  deriving DecidableEq, Repr

/-- The parts of a word that a slice has still to perform (10 R222, R226): its scalar part, and its lanes. -/
structure Parts where
  scalar : Bool
  lanes : BitVec 4
  /-- A part of the word has stored to a HOME page: the word ends its region when its last part is done (05 R110). -/
  home : Bool
  deriving DecidableEq, Repr

/-- The trap save (10 R222), present while TSAVED is 1. -/
structure TrapSave where
  /-- The trapping word's address. -/
  wordAt : Word64
  regionpc : Word64
  lives : BitVec 24
  livev : BitVec 64
  snap : Snap
  replay : Option Parts
  /-- The values noted at the entry of the saved region (21 R439). -/
  noteMark : Nat
  deriving DecidableEq, Repr

/-- What an outstanding result writes (05 R114): a scalar register by physical key, a lane's element by ring entry and
lane, or a bit of a mask register. -/
inductive Target where
  | scalar (key : Nat)
  | lane (ring k : Nat)
  | mask (m k : Nat)
  deriving DecidableEq, Repr

/-- A load that is performed when its result returns: where it reads, and how it extends. -/
structure Deferred where
  space : Nat
  addr : Nat
  size : Nat
  signed : Bool
  half : Nat
  por : Bool
  ro : Bool
  deriving DecidableEq, Repr

/-- An outstanding result (05 R115): the value the register had before it and the value it writes; the cycle from which
the value is read (08 R188), or none for a variable latency; and the load it waits for. -/
structure Pending where
  n : Nat
  targ : Target
  old : SVal
  new : SVal
  due : Option Nat
  /-- The cycle at which the unloaded figures of 08 R189 have a variable result return. -/
  eta : Nat
  load : Option Deferred
  /-- The result comes from an engine: its value is not known before the engine writes it. -/
  engine : Bool
  /-- A later word has written the register: the value is not written when it returns. -/
  passed : Bool
  deriving DecidableEq, Repr

/-- A slice: one strand while it runs alone (01 R10, 05 R91). -/
structure Slice where
  sid : Nat
  pos : Nat
  index : Nat
  slot : Nat
  pc : Word64
  /-- Scalar registers by physical key: 0-7 are g0-g7, 8 and up the ring of 56 (05 R101). -/
  scal : Map SVal
  /-- Lane registers by 4 × ring entry + lane (05 R101). -/
  lane : Map LVal
  /-- m1 to m7 by number (05 R91). -/
  masks : Map (BitVec 4)
  em : BitVec 4
  exited : BitVec 4
  recon : List Recon
  link : List Link
  wb : Nat
  lb : Nat
  spillp : Word64
  spilled : Nat
  guards : Map GuardState
  scrb : Word64
  scrl : Word64
  stkb : Word64
  stkl : Word64
  glbb : Word64
  glbl : Word64
  regangfail : Bool
  ppriv : Bool
  priv : Bool
  ftz : Bool
  nantrap : Bool
  tvec : Word64
  tcause : Word64
  tval : Word64
  tepc : Word64
  lfsr : Four (BitVec 16)
  regionpc : Word64
  lives : BitVec 24
  livev : BitVec 64
  snap : Snap
  /-- Between regions (05 R111). -/
  between : Bool
  /-- The word before was REGION (03 R70 order 4). -/
  justRegion : Bool
  tsave : Option TrapSave
  /-- The parts of the present word still to perform; none means all. -/
  unfin : Option Parts
  chain : Nat
  triggered : Bool
  /-- The last barrier arrival: identifier and phase (06 R141). -/
  arrival : Option (Nat × BitVec 32)
  /-- The depth of the record that a stage strand runs, and its ring slot (18 R389, R393). -/
  depth : Nat
  ring : Option Nat
  holdoff : Bool
  /-- The signature of a twin-strand member's stores (21 R440). -/
  sig : BitVec 64
  /-- Bytes this twin slice has stored that are still held, by physical address (21 R441). -/
  heldAt : NatSet
  pending : List Pending
  /-- What a twin primary's slice has read in the crew's interval, as its shadow's slice reads it: values of CYCLE and COREID (21 R439),
  old values of ISSUEPOL and results of atomics at home (21 R442), oldest first. -/
  noted : List SVal
  /-- How many such values the slice has read, and had read at its region's entry. -/
  notePos : Nat
  noteMark : Nat
  /-- Results of engine words that a twin primary has performed before this shadow's slice has issued the word (21 R442). -/
  mail : List (Target × SVal)
  /-- The Attic range the task engine allocated, to release at exit (06 R146): base and length. -/
  attic : Nat × Nat
  /-- The live-in masks of the region at which a frame resumes, as the frame holds them (01 R25); none while there is no frame, or while
  the region's first words could not be read. -/
  keep : Option (BitVec 24 × BitVec 64)
  deriving DecidableEq, Repr

/-- What a word that has issued waits for before it acts. -/
inductive Hold where
  /-- The core's fabric acknowledgement counter is to reach 0: the word is the source of an edge of span P (01 R21, 11 R242). -/
  | ack
  /-- Values that a twin primary's slices are still to read, by the shadow's strand and their count (21 R439, R442). -/
  | notes (need : List (Nat × Nat))
  /-- Room in the L1 for lines that a twin crew's store will hold (21 R441). -/
  | room (ks : NatSet)
  deriving DecidableEq, Repr

/-- Why a gang is parked (08 R187). -/
inductive Park where
  | none
  /-- Behind a settle marker or a wait of R117. -/
  | settle
  /-- A trap waits for outstanding results (10 R222): cause and value. -/
  | trap (cause : BitVec 8) (val : Word64)
  /-- On a translation fault, by token, with the virtual address of its lowest unfinished part (10 R226), or the entry whose header a spawn
  reads (05 R107). -/
  | fault (token : Nat) (va : Nat) (entry : Option Word64)
  /-- A range walk (06 R134). -/
  | walk
  /-- CELLINIT awaiting its home slice (06 R138): each slice's cell by physical address, count and generic address. -/
  | cellinit (cells : List (Nat × BitVec 32 × Word64))
  /-- TLBI awaiting every unit (11 R249). -/
  | tlbi
  /-- VLDC on empty granules (07 R176): scratchpad granule numbers. -/
  | granules (gs : NatSet)
  /-- EMIT into a full queue (18 R393): launch and stage. -/
  | emit (launch node : Nat)
  /-- AWAIT on cells by physical address; lean (06 R136). -/
  | await (cells : NatSet) (lean : Bool)
  /-- BAR WAIT or SYNC on a barrier's phase (06 R141). -/
  | bar (id : Nat) (phase : BitVec 32)
  /-- REGANG at an identifier (05 R95). -/
  | regang (id : BitVec 16)
  /-- At a check point of a twin crew (21 R442): before an irrevocable word, or before a store that R441 forces to one. -/
  | twin (forced : Bool)
  /-- Its word has issued and waits to act. -/
  | held (h : Hold)
  /-- Stopped by a context fault that is still to be performed (10 R225). -/
  | dead
  deriving DecidableEq, Repr

/-- A parcel in a fetch buffer: its address, its bits, and whether it was read with an error (10 R217). -/
structure Fetched where
  addr : Word64
  parcel : Parcel
  bad : Bool
  deriving DecidableEq, Repr

/-- Where a source of an edge runs (01 R20). -/
inductive Src where
  | quad (q : Nat)
  | core (c : Nat)
  | group (g : Nat)
  | pod
  deriving DecidableEq, Repr

/-- A gang (01 R10, 05 R92): slices that issue together, in increasing position. -/
structure Gang where
  gid : Nat
  og : Nat
  brood : Nat
  part : Nat
  ctx : Nat
  core : Nat
  quad : Nat
  tier : Nat
  crew : Option Nat
  prio : Nat
  /-- The launch and node whose member this is, if any (18 R387). -/
  node : Option (Nat × Nat)
  /-- The launch that the strands belong to, and the stage whose records they run (18 R389, R393). -/
  launch : Option Nat
  stage : Option Nat
  lregs : Nat
  /-- Attic bytes of each strand of the context's task graph (18 R376). -/
  attic : Nat
  age : Nat
  wait : Nat
  /-- The cycle in which its last word issued (08 R195). -/
  issued : Nat
  /-- The fetch floor (10 R218), as a number of the machine's: the start or resumption of the strand; ranges of ICINVs completed, with their
  numbers; and those that a FETCHB has followed. -/
  floor : Nat
  icinvs : List (Nat × Nat × Nat)
  floors : List (Nat × Nat × Nat)
  park : Park
  bubble : Nat
  buf : List Fetched
  stopped : Bool
  stepOne : Bool
  /-- The debugger has resumed or stepped the gang at its present word, so that no breakpoint stops it there (10 R233). -/
  passStop : Bool
  /-- Held as frames, not resident (01 R25). -/
  framed : Bool
  /-- Released and waiting for a place (01 R28). -/
  ready : Bool
  /-- It resumes on the core where it parked (01 R23, R24, R29). -/
  pinned : Bool
  /-- The sources of the edge that releases it; its resumption reconciles at the span that joins them (01 R28). -/
  srcs : List Src
  /-- A pre-emption waits for a state in which it can be taken (10 R228). -/
  preempt : Bool
  /-- When it was pre-empted, by the machine's number: a frame at the front of its spawn queue (18 R388). -/
  queued : Option Nat
  /-- The gang's word has issued and waits for outstanding results before it acts (05 R117, 08 R193). -/
  waiting : Bool
  /-- The settle marker of the word at hand (03 R47). -/
  sbit : Bool
  /-- A twin check point has matched: the word at hand may be performed (21 R442). -/
  cleared : Bool
  /-- Its frame lies on a poisoned unit of a frame-store buffer (21 R427, R428). -/
  frameBad : Bool
  slices : List Slice
  deriving DecidableEq, Repr

/-- A store to a home slice that its gang has issued and that is not yet performed (09 R205). -/
structure Posted where
  gid : Nat
  addr : Nat
  data : List Byte
  deriving DecidableEq, Repr

/-! ## Cores and caches -/

/-- A quadrant's slot (08 R186, R191). -/
structure Quad where
  rr : Bool
  hold : Option Nat
  last : Nat
  /-- A starved gang that FAIRNESS_STARVATION has found. -/
  due : Option Nat
  busyUntil : Nat
  deriving DecidableEq, Repr

/-- A line of the L1 (11 R236), with the bytes of twin-strand and rollback holding (21 R441) and poisoned 8-byte units
(21 R427). -/
structure Line where
  gen : BitVec 8
  ro : Bool
  wvalid : BitVec 32
  dirty : BitVec 128
  data : Map Byte
  held : BitVec 128
  bad : NatSet
  /-- The moment at which home held each word, as `State.writes` counts it (09 R198). -/
  moment : Map Nat
  deriving DecidableEq, Repr

/-- An untracked remote line of an L2 slice (11 R240), with the number since which the machine has filled it (10 R218). -/
structure Remote where
  valid : BitVec 32
  stamp : BitVec 8
  data : Map Byte
  since : Nat
  /-- The moment at which home held each word (09 R198). -/
  moment : Map Nat
  deriving DecidableEq, Repr

/-- A line of an instruction cache (10 R216): its bytes, the words read with an error, and a number no later than the moment at which
home held each byte (10 R218). -/
structure CodeLine where
  data : Map Byte
  bad : NatSet
  since : Nat
  deriving DecidableEq, Repr

/-- A named barrier (06 R141): arrived lanes are strand identifier × 4 + lane. -/
structure Barrier where
  expect : Nat
  arrived : Nat
  phase : BitVec 32
  owner : Option Nat
  marks : NatSet
  deriving DecidableEq, Repr

/-- A core: caches, scratchpad, full-empty bits, barriers, the acknowledgement counter. -/
structure Core where
  cgen : BitVec 8
  l1 : Map Line
  code : Map CodeLine
  scratch : Map Byte
  scratchBad : NatSet
  /-- The granules that are empty; an unlisted granule is full (11 R235). -/
  empty : NatSet
  bars : Map Barrier
  ack : BitVec 32
  deriving DecidableEq, Repr

/-- A slice of L2 (11 R240, R242): its remote lines, the home lines that it holds, which are always current, and the records that its
Larder unit's vertex cache holds (00 R2), with the 8-byte units of them that have an uncorrectable error (21 R427). -/
structure L2 where
  sgen : BitVec 8
  remote : Map Remote
  home : NatSet
  vertices : NatSet
  vertexBad : NatSet
  deriving DecidableEq, Repr

/-- A cached leaf translation of one core (11 R248): the unit's core, the context, the virtual base and size, the leaf. -/
structure Tlb where
  core : Nat
  ctx : Nat
  base : Nat
  size : Nat
  entry : BitVec 64
  entryAt : Nat
  level : Nat
  deriving DecidableEq, Repr

/-! ## Contexts, pools, faults -/

/-- A context (11 R244, 22 R458): its root table, its Attic pool and the free ranges of it, its check-interval register
and modes. -/
structure Ctx where
  root : Nat
  pool : Nat × Nat
  free : List (Nat × Nat)
  chkiv : BitVec 64
  /-- A context save is under way, and has been completed (10 R230). -/
  saving : Bool
  saved : Bool
  stopAll : Bool
  deriving DecidableEq, Repr

/-- Who waits on a translation fault (11 R251). -/
inductive FaultUnit where
  | strand (gid : Nat)
  | copy (c : Nat)
  | matrix (c : Nat)
  | ray (r : Nat)
  | larder (r : Nat)
  | fabric (c : Nat)
  /-- A packet or a read request of operation `op` at its target, by its address (19 R423). -/
  | packet (op va : Nat)
  | task (k : Nat)
  deriving DecidableEq, Repr

/-- Where a fault is in its service (11 R251 to R254). -/
inductive FaultStage where
  | new | waiting | logged
  deriving DecidableEq, Repr

/-- A translation fault in service (11 R251, R253). -/
structure FaultRec where
  token : Nat
  part : Nat
  ctx : Nat
  va : Nat
  acc : Nat
  why : Nat
  level : Nat
  entryAt : Nat
  pool : Bool
  units : List FaultUnit
  unitno : Nat
  stage : FaultStage
  since : Nat
  deriving DecidableEq, Repr

/-- A context fault that has been raised and is still to be performed (10 R225). -/
structure CtxFault where
  part : Nat
  ctx : Nat
  cause : BitVec 8
  tepc : Word64
  tval : Word64
  core : Nat
  /-- OP8 of the word, or 0 when it has none. -/
  op8 : Nat
  deriving DecidableEq, Repr

/-- The segment registers that limit a strand's accesses, with its mode, as an operation carries them (R247). -/
structure Segs where
  scrb : Word64
  scrl : Word64
  stkb : Word64
  stkl : Word64
  glbb : Word64
  glbl : Word64
  user : Bool
  deriving DecidableEq, Repr

/-! ## Engine commands (03 R67 to R69) -/

/-- The operations that engines perform: those that wait in queues, and those of single lanes. -/
inductive CmdOp where
  | cpy | cpy2 | cpyg | feset | mwld | mtile | mq | trace | march | tex | larder | coll | fput | fget
  deriving DecidableEq, Repr

/-- A command: who issued it and with which rights, its guard, its operands. -/
structure Cmd where
  id : Nat
  op : CmdOp
  flag : Bool
  sid : Nat
  part : Nat
  ctx : Nat
  core : Nat
  quad : Nat
  crew : Option Nat
  segs : Segs
  guard : Option Nat
  gstate : GuardState
  regs : List Word64
  deriving DecidableEq, Repr

/-- A copy command that has left its queue (12 R261, R265, R279): whether it is active, which a context save ends; the granules done; the
indices of the rows started; whether poison was read; the address at which it has ended under R277; and whether its cell cannot be
signalled. -/
structure CopyRun where
  cmd : Cmd
  active : Bool
  done : NatSet
  rowIx : Map Nat
  poison : Bool
  ended : Option Nat
  deadCell : Bool
  deriving DecidableEq, Repr

/-! ## Matrix engines (13) -/

/-- A weight bank (13 R283): codes by 64 × column + row, block scales by 8 × column + block, and the weights with an uncorrectable error
(14 R313). -/
structure Bank where
  w : Map Nat
  sc : Map Nat
  bad : NatSet
  deriving DecidableEq, Repr

/-- A matrix engine (13 R283, R291, R300): the accumulator by 64 × row + column, the two banks, the latch tag, RPR, and the
tiles completed as head. -/
structure Matrix where
  acc : Map Word32
  /-- Accumulator entries with an uncorrectable error (14 R313). -/
  accBad : NatSet
  active : Bank
  shadow : Bank
  fmt : Nat
  kb : Nat
  nb : Nat
  band : BitVec 16
  owner : Option (Nat × Nat)
  rpr : Word64
  tiles : BitVec 32
  deriving DecidableEq, Repr

/-- Where a command of a matrix engine is. -/
inductive TileStage where
  /-- It takes the engines of its chain (13 R301). -/
  | acquire
  /-- Its record is still to be read and checked. -/
  | start
  | run
  /-- RPRS and the cell. -/
  | finish
  /-- The successors (13 R298). -/
  | retire
  deriving DecidableEq, Repr

/-- A command that holds or takes engines: its chain, how many of it are taken and since when it waits for the next, the record
as it was read, the status so far, what RPRS takes, the cell as it was reached, the successors dealt with, and the TILE node that
it belongs to. -/
structure TileRun where
  cmd : Cmd
  head : Nat
  len : Nat
  got : Nat
  reach : Nat
  stage : TileStage
  record : List Byte
  poison : Bool
  status : Nat
  rprs : Option Word64
  cellAt : Option Nat
  next : Nat
  node : Option (Nat × Nat)
  deriving DecidableEq, Repr

/-- A record that MQ has registered (13 R297): its physical address, none for a restored tile's that lies in its crew's scratchpad; its place among
the ready records once it is ready, the chain length of a restored tile, and its TILE node. -/
structure MqRec where
  cmd : Cmd
  pa : Option Nat
  ready : Option Nat
  len : Option Nat
  node : Option (Nat × Nat)
  deriving DecidableEq, Repr

/-- A saved tile of a context's frame store (13 R304, R307): the engines' accumulators and latches, by chain member, none for a tile of which
no step had committed (13 R291); how it starts again: its command, its chain length and its TILE node; whether it has read poison; and
whether an operand or the record lies in scratchpad; and whether it waits to start again. -/
structure SavedTile where
  ctx : Nat
  at_ : Word64
  engines : List Matrix
  cmd : Cmd
  len : Nat
  node : Option (Nat × Nat)
  poison : Bool
  near : Bool
  queued : Bool
  deriving DecidableEq, Repr

/-! ## Rays (15) -/

/-- A hit, or a candidate (15 R322, R324, R325): t, the key (instance id, primitive id), u and v, and what RHIT reports. -/
structure Hit where
  t : Word32
  key : Nat × Nat
  u : BitVec 16
  v : BitVec 16
  front : Bool
  proc : Bool
  geom : Word32
  user : Word32
  second : Bool
  deriving DecidableEq, Repr

/-- An instance that a ray has entered (15 R320): the object ray and the flags. -/
structure Inst where
  id : Nat
  user : Word32
  flags : Nat
  o : List Word32
  d : List Word32
  deriving DecidableEq, Repr

/-- An entry of a traversal stack (15 R323): a node, or pairs of a leaf from one of its triangles on, with the distance at which
its box begins, as a fraction. -/
structure Pend where
  kind : Nat
  at_ : Word64
  left : Nat
  tri : Nat
  inst : Option Inst
  near : Int × Nat
  deriving DecidableEq, Repr

/-- Where a ray is. -/
inductive RayPhase where
  /-- Its slot and its operands are still to be looked at. -/
  | fresh
  /-- It traverses. -/
  | trace
  /-- Its hit record is due. -/
  | due
  /-- It waits for verdicts. -/
  | pending
  /-- It has ended; its last hit is kept for RHIT. -/
  | final
  /-- Its slot was not free or not sound: its record is due, and the slot is left alone. -/
  | refused
  deriving DecidableEq, Repr

/-- A ray of one lane (15 R316, R330). `word` and `rings` name the registers that its result writes; `slotAt` is the virtual
address of its save slot. -/
structure Ray where
  id : Nat
  cmd : Cmd
  gid : Nat
  lix : Nat
  k : Nat
  word : Nat
  rings : List Nat
  slotAt : Nat
  phase : RayPhase
  /-- Its state lies in the slot alone: it waits on verdicts, or it was stopped with its strand (R336). -/
  spilled : Bool
  o : List Word32
  d : List Word32
  tmin : Word32
  tmax : Word32
  tagged : Bool
  flags : BitVec 32
  limit : Word32
  best : Option Hit
  cands : List Hit
  verdicts : Map (Nat × Word32 × Word32)
  stack : List Pend
  /-- How many of the stack's oldest entries lie in the slot's overflow area (R323). -/
  inSlot : Nat
  code : Nat
  reason : Nat
  deriving DecidableEq, Repr

/-- A lane of a march (15 R342): its ray, its next step and count, and how it has ended. -/
structure MarchLane where
  k : Nat
  lix : Nat
  slotAt : Nat
  /-- It has looked at its slot. -/
  begun : Bool
  /-- The slot is its own. -/
  mine : Bool
  o : List Word32
  d : List Word32
  tmin : Word32
  tmax : Word32
  tagged : Bool
  step : Nat
  count : Nat
  over_ : Option Nat
  reason : Nat
  /-- Padding records and step words written so far, once it has ended. -/
  filled : Nat
  deriving DecidableEq, Repr

/-- A march of one slice (15 R342). -/
structure March where
  cmd : Cmd
  word : Nat
  rings : List Nat
  lanes : List MarchLane
  poison : Bool
  /-- Its state lies in the slots alone (R336). -/
  spilled : Bool
  /-- Its registers have been written; its cell is still to be signalled. -/
  wrote : Bool
  deriving DecidableEq, Repr

/-- A footprint of one lane (15 R344): u and v, and its four operands after them. -/
structure Footprint where
  id : Nat
  cmd : Cmd
  k : Nat
  word : Nat
  rings : List Nat
  diff : Bool
  uv : List Word32
  xs : List Word32
  /-- A source register's tag is set. -/
  tagged : Bool
  /-- A translation fault of it cannot be resolved. -/
  dead : Bool
  /-- Its work has begun, and stands at a fault. -/
  begun : Bool
  deriving DecidableEq, Repr

/-! ## Larder words in flight (16) -/

/-- The Larder words (16 R357), with their form bits. -/
inductive LarderKind where
  | append
  | connect (merge : Bool)
  | merge (base : Nat)
  | reweight
  | retire (pass : Bool)
  | seal
  | opening (eta : Bool)
  | read (desc : Bool)
  | hold
  | drop
  deriving DecidableEq, Repr

/-- An operation of a Larder word in its core's request entries (16 R358): its operands, the registers that it writes (ring entries
of its lane, or a scalar key), and how far it is: its stage, a vertex or cursor, a record, the vertices found or the chain still
to be rewritten, and the stack groups of the units that it has touched. -/
structure LarderOp where
  cmd : Cmd
  kind : LarderKind
  k : Nat
  word : Nat
  rings : List Nat
  key : Option Nat
  stage : Nat
  vertex : Nat
  record : List Byte
  found : List (Nat × Word32)
  chain : List Nat
  units : List Nat
  /-- Address of the word. -/
  pc : Word64
  /-- The address at which a translation fault of it cannot be resolved. -/
  dead : Option Word64
  deriving DecidableEq, Repr

/-! ## Task graphs in flight (18) -/

/-- A node of a launch (18 R379, R383, R384): its remaining count; its TCB with the slots put in and its successors, read when it
starts; the members that it has; the records of a TILE node that are to retire, with the largest status among them; and the
largest status among the nodes whose release it waits for. -/
structure Node where
  remaining : Nat
  started : Bool
  done : Bool
  retired : Bool
  /-- Its trigger successors have been released. -/
  released : Bool
  tcb : List Byte
  /-- Node indices with their TRIG bits. -/
  succ : List (Nat × Bool)
  left : Nat
  status : Nat
  /-- The nodes that have released it, and where their members ran. -/
  preds : List Nat
  srcs : List Src
  /-- The reason for which it is to fail at start, once a translation fault of it cannot be resolved; 0 for none. -/
  dead : Nat
  deriving DecidableEq, Repr

/-- A record in a stage's ring (18 R389, R393): its slot, its depth and the quadrant that emitted it. -/
structure Entry where
  slot : Nat
  depth : Nat
  quad : Nat
  deriving DecidableEq, Repr

/-- A stage of a launch (18 R389, R390): the queue identifier, CAP, RLIM, the share limits, the ring, the output QIDs, the cores
on which it holds shares, its next slot, and the records queued. -/
structure Stage where
  node : Nat
  qid : Nat
  cap : Nat
  rlim : Nat
  minsh : Nat
  maxsh : Nat
  initsh : Nat
  unit : Nat
  tier : Nat
  ring : Word64
  outs : List Nat
  /-- The entry of its strands, and the lane registers that its header names. -/
  pc : Word64
  lregs : Nat
  shares : NatSet
  next : Nat
  queue : List Entry
  started : Bool
  ended : Bool
  deriving DecidableEq, Repr

/-- A launch in flight (18 R377, R382). -/
structure Launch where
  id : Nat
  part : Nat
  ctx : Nat
  graph : Nat
  prio : Nat
  tag : BitVec 32
  /-- The instance's number and global virtual address. -/
  inst : Nat
  base : Nat
  /-- TVEC of its root strands, and the Attic bytes of each of its strands (18 R376). -/
  tvec : Word64
  attic : Nat
  /-- Loft offsets of node 0 and of the parameter table, and the count of nodes. -/
  nodeOff : Nat
  count : Nat
  nodes : Map Node
  stages : List Stage
  deriving DecidableEq, Repr

/-- A signal of a node cell that waits on a translation fault (01 R17). -/
structure NodeSignal where
  id : Nat
  launch : Nat
  node : Nat
  status : Nat
  deriving DecidableEq, Repr

/-- An entry of the graph directory (18 R376). -/
structure Directory where
  nodeOff : Nat
  count : Nat
  valid : Bool
  ctx : Nat
  attic : Nat
  ptab : Nat
  inst : Nat
  ninst : Nat
  tvec : Word64
  deriving DecidableEq, Repr

/-- A launch write that waits (18 R381): its eight words. -/
structure Waiting where
  id : Nat
  part : Nat
  words : List Word64
  /-- Once its checks are passed (step 1): its directory entry and its patches. -/
  checked : Option (Directory × List Word64)
  /-- The instance that it has taken, with a launch slot (step 2). -/
  inst : Option Nat
  /-- The reason for which it is to be refused, once a translation fault of it cannot be resolved; 0 for none. -/
  dead : Nat
  deriving DecidableEq, Repr

/-! ## The fabric (19) -/

/-- A device's role for a communicator (19 R410). -/
inductive Role where
  | none | primary | standby | fenced
  deriving DecidableEq, Repr

/-- What a member asks of the primary (19 R406). -/
inductive Ask where
  | register | start | cancel | done | look
  deriving DecidableEq, Repr

/-- A key at a sequencer, from its first registration until its number retires (19 R404 to R406): its number and state, and the
members that have registered it, started it, and reported DONE or SKIPPED. -/
structure SeqKey where
  key : BitVec 64
  number : BitVec 32
  state : KeyState
  regs : NatSet
  started : NatSet
  done : NatSet
  deriving DecidableEq, Repr

/-- What the primary grants once the standby holds it (19 R405): the request, and the key as it then stands (`none` once it has
retired). -/
structure Grant where
  ask : Ask
  m : Nat
  key : BitVec 64
  number : BitVec 32
  state : KeyState
  /-- The notice that every member is sent. -/
  notice : Option Notice
  deriving DecidableEq, Repr

/-- A sequencer of one communicator (19 R405 to R410): a grant that waits for the standby since a cycle, and when the other
sequencer was last heard. -/
structure Sequencer where
  role : Role
  epoch : BitVec 32
  next : BitVec 32
  keys : List SeqKey
  busy : Option Grant
  since : Nat
  heard : Nat
  degraded : Bool
  deriving DecidableEq, Repr

/-- A start number that a member knows (19 R407): its key, whether it is void, whether this member has sent START for it, and
whether it has taken part in it. -/
structure Known where
  number : BitVec 32
  key : BitVec 64
  void : Bool
  asking : Bool
  mine : Bool
  deriving DecidableEq, Repr

/-- A request of the member agent without a reply (19 R411): since when, when it was last sent, and the device that it goes to. -/
structure Asked where
  ask : Ask
  key : BitVec 64
  since : Nat
  sent : Nat
  toward : Nat
  deriving DecidableEq, Repr

/-- A communicator as this device holds it (19 R403 to R411): the table entry for which it holds it; its sequencer; as a member,
LOW, the numbers it knows, the device it sends requests to and its epoch; notices and replies on their way from its own sequencer;
and what it has still to tell the primary: keys that it has done or skipped, and keys that it cancels. -/
structure Comm where
  image : List Byte
  seq : Sequencer
  low : BitVec 32
  known : List Known
  toward : Nat
  epoch : BitVec 32
  inbox : List (BitVec 32 × BitVec 64 × Notice)
  reports : List (BitVec 64)
  cancels : List (BitVec 64)
  /-- Requests without a reply (19 R411). -/
  asked : List Asked
  deriving DecidableEq, Repr

/-- Where a COLL is (19 R407, R416). -/
inductive CollStage where
  /-- It waits for its number. -/
  | waiting
  /-- GO: its members exchange CTL and COUNT. -/
  | started
  /-- Its SRC has been read and its DST reached. -/
  | running
  /-- Its cell is to be signalled. -/
  | finish
  deriving DecidableEq, Repr

/-- A COLL of this device (19 R415 to R417): what it has read, and where its DST lies; the members' comparison or an access has
failed; the status of its cell, and whether DONE is due. -/
structure CollRun where
  cmd : Cmd
  stage : CollStage
  since : Nat
  src : List Byte
  dst : List (Nat × Nat × Nat)
  failed : Bool
  status : Nat
  report : Bool
  deadCell : Bool
  deriving DecidableEq, Repr

/-- A packet on its way (19 R399, R400): when it was sent, whether over its second path, and whether it has been performed at a
partition of this device, or could not be. -/
structure Flight where
  p : Packet
  sent : Nat
  again : Bool
  held : Bool
  failed : Bool
  deriving DecidableEq, Repr

/-- An FPUT (19 R420): packets read and sent, those on their way, what it still owes its core's acknowledgement counter, whether
its remote signal has been sent, and whether it has ended. -/
structure PutRun where
  cmd : Cmd
  sent : Nat
  flight : List Flight
  owed : Nat
  signalled : Bool
  status : Nat
  ended : Bool
  deadCell : Bool
  deriving DecidableEq, Repr

/-- A packet of an FGET (19 R399, R421): its request's path, what a partition of this device has read for it (the bytes, which of them with an
uncorrectable error, and whether it could not be read), and whether it is over. -/
structure GetPart where
  sent : Nat
  again : Bool
  reply : Option (List Byte × NatSet × Bool)
  done : Bool
  deriving DecidableEq, Repr

/-- An FGET (19 R421): its packets, the one whose write waits on a translation fault, and the status of its cell. -/
structure GetRun where
  cmd : Cmd
  parts : List GetPart
  stuck : Nat
  status : Nat
  ended : Bool
  deadCell : Bool
  deriving DecidableEq, Repr

/-- A CCANCEL or a CSEQ that waits for its reply (19 R418, R419): the register it writes, by its physical key, and whether it has gone to the
sequencer, no waiting command of its strand being ahead (03 R69). -/
structure Query where
  cmd : Cmd
  cancel : Bool
  key : BitVec 64
  word : Nat
  reg : Nat
  since : Nat
  sent : Bool
  deriving DecidableEq, Repr

/-! ## Spawn queues (06 R135, 18 R386) -/

/-- A queued spawn: children `next` to `count` − 1 still to be placed, and the state they start with (05 R108). -/
structure Spawn where
  id : Nat
  brood : Nat
  part : Nat
  ctx : Nat
  tier : Nat
  /-- The quadrant of the spawning strand, or the first quadrant of the unit a node is pinned to. -/
  quad : Nat
  prio : Nat
  node : Option (Nat × Nat)
  launch : Option Nat
  stage : Option Nat
  pc : Word64
  cell : Word64
  arg : Word64
  args : List Word64
  count : Nat
  next : Nat
  kib : Nat
  lregs : Nat
  ftz : Bool
  nantrap : Bool
  priv : Bool
  tvec : Word64
  glbb : Word64
  glbl : Word64
  /-- Attic bytes per strand (18 R376). -/
  attic : Nat
  depth : Nat
  srcs : List Src
  deriving DecidableEq, Repr

/-! ## Crews (11 R235, 21 R434 to R442) -/

/-- An entry of a crew's undo log (21 R437): the granule as it stood, its poisoned units too. -/
structure LogEntry where
  granule : Nat
  empty : Bool
  bytes : List Byte
  bad : NatSet
  deriving DecidableEq, Repr

/-- What a context save keeps of a crew beside its frames (10 R230): scratchpad, poisoned units and empty granules by their place in
the crew's own scratchpad, and the barriers that it owns. -/
structure CrewImage where
  scratch : Map Byte
  bad : NatSet
  empty : NatSet
  bars : Map Barrier
  deriving DecidableEq, Repr

/-- A crew: its core and scratchpad, its reliability modes, its interval, and what a context save has kept of it. -/
structure Crew where
  part : Nat
  ctx : Nat
  core : Nat
  base : Nat
  bytes : Nat
  rb : Bool
  twin : Bool
  /-- The other crew of a twin pair. -/
  partner : Option Nat
  /-- The shadow of a twin pair: its effects do not leave the crew (21 R439). -/
  shadow : Bool
  recoverable : Bool
  rolled : Bool
  log : List LogEntry
  barCopy : Map Barrier
  /-- The gangs as they stood at the last crew sync (21 R435). -/
  shadows : List Gang
  /-- The commands of the interval have this number or a later one. -/
  since : Nat
  /-- A twin crew has come to a crew sync, and waits for its check point (21 R442). -/
  syncDue : Bool
  image : Option CrewImage
  deriving DecidableEq, Repr

/-! ## Partitions -/

/-- The state of a slot of a Larder pass (16 R351). -/
inductive SlotState where
  | empty | appending | ready | retired
  deriving DecidableEq, Repr

/-- A slot's hardware state, kept outside its record (16 R351). -/
structure Slot where
  state : SlotState := .empty
  mark : Bool := false
  hold : Nat := 0
  child : Nat := 0
  deriving DecidableEq, Repr

/-- A record area or a hash grid that a unit has handed out (16 R348): its pass, stack group, and space-4 range. -/
structure Share where
  pass : Nat
  group : Nat
  off : Nat
  len : Nat
  deriving DecidableEq, Repr

/-- A range of frames in a reserved pool (11 R252, 22 R458): 4 KiB × 2^t each. -/
structure Pool where
  t : Nat
  base : Nat
  count : Nat
  deriving DecidableEq, Repr

/-- A CELLAR page in HBM (11 R257): where it lies in its address space, its leaf, and its frames in the Cellar and in HBM. -/
structure Migrated where
  ctx : Nat
  va : Nat
  t : Nat
  entryAt : Nat
  level : Nat
  home : Nat
  frame : Nat
  deriving DecidableEq, Repr

/-- How often a CELLAR page is used (11 R256, R257): accesses in the present window of 10 ms and in the one before, and the cycle of the
last. -/
structure PageUse where
  ctx : Nat
  va : Nat
  window : Nat
  count : Nat
  prev : Nat
  last : Nat
  deriving DecidableEq, Repr

/-- A display or encode job (22 R463): the register that it was written to, and its record. -/
structure Job where
  id : Nat
  part : Nat
  reg : Nat
  at_ : Nat
  started : Bool
  /-- A translation fault of it cannot be resolved. -/
  dead : Bool
  /-- Its output is written, and its DONE cell is still to be signalled with this status. -/
  status : Option Nat
  deriving DecidableEq, Repr

/-- What belongs to the package (22 R454 to R456, R460): lifecycle 0 DEVELOPMENT, 1 PRODUCTION, 2 RETURNED; the strap; the measurement
registers; the leaf counter of the identity key, and whether the key is there; a boot that has halted; the fabric ports. -/
structure Device where
  lifecycle : Nat
  strap : Bool
  meas : List (List Byte)
  leaf : Nat
  key : Bool
  halted : Bool
  ports : Bool
  deriving DecidableEq, Repr

/-- A partition (22 R460): its device identifier and its dies, and its registers in BAR0. -/
structure Part where
  devid : BitVec 12
  dies : List Nat
  /-- LARDERSZ: bytes of each unit's share (16 R348, 22 R458). -/
  larderSize : Nat
  /-- Slot states by vertex identifier (16 R351). -/
  slots : Map Slot
  shares : List Share
  /-- Debug state: 0 CLOSED, 1 AUTHORISED, 2 OPEN (22 R456). -/
  debug : Nat
  /-- The registers of BAR0 that hold what is written to them or what the device puts there, by offset (22 R451). -/
  regs : Map Word64
  /-- Fenced units: kind × 65536 + unit number (21 R445). -/
  fenced : NatSet
  /-- Fault records were dropped since the last one was written (22 R453). -/
  dropped : Bool
  /-- Power state: 0 RUN, 1 IDLE, 2 PARTITION-OFF, 3 SLEEP (22 R459). -/
  power : Nat
  /-- Communicators, by number (19 R403). -/
  comms : Map Comm
  /-- The rebalancing period in which the task engine last moved shares (18 R391). -/
  period : Nat
  /-- Units that have failed a test since the reset (21 R445). -/
  failed : NatSet
  /-- The reserved pools, and the CELLAR pages in HBM (11 R252, R257). -/
  pools : List Pool
  migrated : List Migrated
  /-- The last cycle in which the partition had work (22 R459). -/
  busyAt : Nat
  /-- The nonce of the request in service, and the last report (22 R455). -/
  latched : List Byte
  report : List Byte
  /-- BAR4's size in bytes (22 R450). -/
  window : Nat
  /-- The cycle of the last round of field tests (21 R445). -/
  testedAt : Nat
  /-- The MSI-X vectors whose mask bit in the table is 0, and the pending-bit array (22 R451). -/
  unmasked : NatSet
  pending : NatSet
  deriving DecidableEq, Repr

/-! ## The whole -/

/-- What the debugger reads and writes of a slice (10 R232): a scalar register of the present window, a lane of a lane register, a mask's
segment, EM, a CSR. Tags come with the values. -/
inductive DebugReg where
  | scalar (r : SReg)
  | lane (v : VReg) (k : Nat)
  | mask (m : Nat)
  | em
  | csr (n : Nat)
  deriving DecidableEq, Repr

/-- What moves next: the interleaving of the agents, as plain data. -/
inductive Act where
  /-- A quadrant's slot issues; `late` has the word's loads performed when they return and its home stores later. -/
  | issue (quad : Nat) (late : Bool)
  /-- A step of an engine, of firmware, of the host or of the fabric. -/
  | event (i : Instr)
  /-- A cycle passes. -/
  | tick
  /-- The fetch unit fills a gang's buffer (10 R217). -/
  | prefetch (gid : Nat)
  /-- A word that has issued and waited under 05 R117 acts. -/
  | resume (gid : Nat)
  /-- The L1 of a core evicts a line (11 R239). -/
  | evict (core line : Nat)
  /-- A slice of L2 drops a remote line. -/
  | evictRemote (slice line : Nat)
  /-- An instruction cache drops a line. -/
  | evictCode (core line : Nat)
  /-- A translation buffer drops an entry. -/
  | dropTlb (k : Nat)
  /-- A ray engine moves one of its rays, marches or footprints on, by one node or sample. -/
  | ray (id : Nat)
  /-- A Larder unit performs an operation, or the next part of it. -/
  | larder (id : Nat)
  /-- The fabric agent moves a command on: it takes one up, reads and sends a packet, or signals a cell. -/
  | fabric (id : Nat)
  /-- The posted store at this place of the list is performed. -/
  | perform (n : Nat)
  /-- The debugger writes a register of a stopped gang's slice. -/
  | debugWrite (gid sid : Nat) (r : DebugReg) (x : SVal)
  /-- The debugger asks for the pre-emption of a stopped gang (10 R232). -/
  | debugPreempt (gid : Nat)
  /-- The fuse for PRODUCTION is blown (22 R456). -/
  | production
  /-- The host resizes BAR4 of a partition. -/
  | resize (part bytes : Nat)
  deriving DecidableEq, Repr

/-- The machine. -/
structure State where
  cycle : Nat
  agenda : List Act
  free : Nat
  late : Bool
  turn : Nat
  nextId : Nat
  cur : Option Gang
  performed : Bool
  gangs : List Gang
  quads : Map Quad
  cores : Map Core
  l2 : Map L2
  mem : List Host.Cell
  /-- How many writes home memory has performed: the moments of 09 R198. -/
  writes : Nat
  bad : NatSet
  bad8 : NatSet
  cxl : Map Nat
  posted : List Posted
  tlb : List Tlb
  parts : Map Part
  ctxs : Map Ctx
  faults : List FaultRec
  ctxFaults : List CtxFault
  crews : Map Crew
  /-- Crews that wait for their rollback (21 R438), and whether a twin mismatch is its cause (R442). -/
  rollbacks : List (Nat × Bool)
  /-- The sources that have signalled each cell since its last CELLINIT, by physical address (01 R16, R28). -/
  cellSrc : Map (List Src)
  cmds : List Cmd
  spawns : List Spawn
  copies : List CopyRun
  matrix : Map Matrix
  tiles : List TileRun
  mqs : List MqRec
  savedTiles : List SavedTile
  rays : List Ray
  marches : List March
  footprints : List Footprint
  larder : List LarderOp
  colls : List CollRun
  puts : List PutRun
  gets : List GetRun
  queries : List Query
  launches : List Launch
  waiting : List Waiting
  signals : List NodeSignal
  /-- Host memory as the device has written it, and the MSI-X vectors raised: partition, vector. -/
  host : Map Byte
  msix : List (Nat × Nat)
  /-- The quadrants of the triggered members of a node, by launch and node (18 R395). -/
  trig : Map (List Src)
  pageUse : List PageUse
  jobs : List Job
  device : Device
  /-- The header of the state dump (21 R447), once there is one. -/
  dump : List Byte
  deriving DecidableEq, Repr

/-- Larder storage per unit at reset: 256 MiB (16 R348). -/
def larderReset : Nat := 0x10000000

/-- The partition of the configuration that the model takes at reset: one partition of four dies, device identifier 0, debug
state CLOSED. DESIGN CHOICE (log 4), unsafe: the signed configuration is the operator's. BAR4 has its largest size until the host resizes it
(log 64, DESIGN CHOICE, unsafe). Every MSI-X vector is masked, as PCIe has it at reset (log 78, PRESUMED, unsafe). -/
def Part.reset : Part :=
  { devid := 0, dies := [0, 1, 2, 3], larderSize := larderReset, slots := [], shares := [], debug := 0, regs := [(0x40020, 100)], fenced := []
    dropped := false, power := 0, comms := [], period := 0, failed := [], pools := [], migrated := [], busyAt := 0, latched := [], report := [], window := 2 ^ 40
    testedAt := 0, unmasked := [], pending := [] }

/-- The package at reset. DESIGN CHOICE (log 4), unsafe: the lifecycle PRODUCTION, a working key and ports, no measurement. -/
def Device.reset : Device :=
  { lifecycle := 1, strap := false, meas := List.replicate 8 (List.replicate 32 0), leaf := 0, key := true, halted := false, ports := true }

/-- The machine right after reset and boot: nothing runs, no context exists, memory lists nothing. -/
def State.reset : State :=
  { cycle := 0, agenda := [], free := 0, late := false, turn := 0, nextId := 0, cur := none, performed := false, gangs := []
    quads := [], cores := [], l2 := [], mem := [], writes := 0, bad := [], bad8 := [], cxl := [], posted := [], tlb := []
    parts := [(0, Part.reset)], ctxs := [], faults := [], ctxFaults := [], crews := [], rollbacks := [], cellSrc := []
    cmds := [], spawns := [], copies := [], matrix := [], tiles := [], mqs := [], savedTiles := [], rays := [], marches := [], footprints := []
    larder := [], colls := [], puts := [], gets := [], queries := [], launches := [], waiting := [], signals := [], host := [], msix := [], trig := []
    pageUse := [], jobs := [], device := Device.reset, dump := [] }

/-- Why the machine stops: it never does. The spec gives every instruction an effect on every path. -/
inductive Fault
  deriving DecidableEq, Repr

/-- Why a word has no meaning. -/
inductive Refusal where
  /-- An instruction that the model does not give a meaning: raised by the dispatcher alone. Safe: nothing is proved of
  it. -/
  | notModelled (mnemonic : String)
  deriving DecidableEq, Repr

end Sys2Proof.Machine
end

