-- ==== Sys2Proof/Machine/Mem.lean ====
section
/-! DEFINITION. Memory as the levels of 11 R235 to R243 hold it: bytes at home, lines of L1, remote lines of the L2
slices, instruction caches, scratchpads; poison units (21 R427); write-back, fill and reconciliation. -/

namespace Sys2Proof.Machine

/-! ## Accessors -/

/-- What a byte of physical memory that nothing has written reads as. DESIGN CHOICE (log 1), unsafe: the spec gives
fresh HBM and CXL memory no contents. -/
def unlisted : Byte := 0

/-- The canonical form of memory: addresses strictly rising, no entry equal to what an unlisted address reads as. -/
abbrev Memory.wf (m : List Host.Cell) : Bool := Map.wf unlisted m

def Quad.init : Quad := { rr := false, hold := none, last := 0, due := none, busyUntil := 0 }

def Core.init : Core :=
  { cgen := 0, l1 := [], code := [], scratch := [], scratchBad := [], empty := [], bars := [], ack := 0 }

def L2.init : L2 := { sgen := 0, remote := [], home := [], vertices := [], vertexBad := [] }

def State.quad (s : State) (q : Nat) : Quad := Map.get Quad.init s.quads q
def State.core (s : State) (c : Nat) : Core := Map.get Core.init s.cores c
def State.slice (s : State) (g : Nat) : L2 := Map.get L2.init s.l2 g

def State.setQuad (s : State) (q : Nat) (x : Quad) : State := { s with quads := Map.set Quad.init s.quads q x }
def State.setCore (s : State) (c : Nat) (x : Core) : State := { s with cores := Map.set Core.init s.cores c x }
def State.setSlice (s : State) (g : Nat) (x : L2) : State := { s with l2 := Map.set L2.init s.l2 g x }

/-- The stack group of a core (00 R1). -/
def groupOf (core : Nat) : Nat := core / 12

/-- The die of a core (00 R1). -/
def dieOf (core : Nat) : Nat := core / 48

/-! ## The physical map (11 R243) -/

/-- Bytes of one HBM stack: 64 × 10^9. -/
def stackBytes : Nat := 64000000000

/-- One stack's window. -/
def stackWindow : Nat := 0x1000000000

/-- Where the Cellar ports begin, and one port's window. -/
def cellarBase : Nat := 0x8000000000000
def portWindow : Nat := 0x20000000000

/-- The Cellar port of an address, if it lies in a port's window. -/
def portOf (pa : Nat) : Option Nat :=
  if cellarBase ≤ pa ∧ pa < cellarBase + 8 * portWindow then some ((pa - cellarBase) / portWindow) else none

/-- A physical byte that holds memory. -/
def State.populated (s : State) (pa : Nat) : Bool :=
  match portOf pa with
  | some p => decide ((pa - cellarBase) % portWindow < Map.get 0 s.cxl p)
  | none => decide (pa < 16 * stackWindow) && decide (pa % stackWindow < stackBytes)

/-- The slice that is home for a physical address. -/
def homeOf (pa : Nat) : Nat :=
  match portOf pa with
  | some p => 2 * p + pa / 65536 % 2
  | none => pa / stackWindow % 16

/-- The die that owns a physical address: its stack's, or its port's (11 R243). -/
def dieOfAddr (pa : Nat) : Nat :=
  match portOf pa with
  | some p => p / 2
  | none => pa / stackWindow % 16 / 4

/-- A frame in the Cellar. -/
def inCellar (pa : Nat) : Bool := (portOf pa).isSome

/-! ## Bytes at home -/

def State.byteAt (s : State) (pa : Nat) : Byte := Map.get unlisted s.mem pa

def State.bytesAt (s : State) (pa n : Nat) : List Byte := Map.getMany unlisted s.mem pa n

/-- A little-endian field of a byte string. -/
def fieldOf (bs : List Byte) (off n : Nat) : Nat := natOfBytes ((bs.drop off).take n)

/-- The value of little-endian bytes at home. -/
def State.wordAt (s : State) (pa n : Nat) : Nat := natOfBytes (s.bytesAt pa n)

/-- Poison units touched by `n` bytes at `a`, units of `u` bytes. -/
def unitsOf (u a n : Nat) : List Nat := if n = 0 then [] else (List.range ((a + n - 1) / u - a / u + 1)).map (a / u + ·)

/-- Some byte of the range lies in a poisoned unit at home (21 R427): 32 bytes in HBM, 8 in an L2 line. -/
def State.poisonedAt (s : State) (pa n : Nat) : Bool :=
  (unitsOf 32 pa n).any s.bad.contains || (unitsOf 8 pa n).any s.bad8.contains

/-- A unit of `u` bytes that `n` bytes at `a` cover whole. -/
def covers (u a n k : Nat) : Bool := decide (a ≤ u * k) && decide (u * k + u ≤ a + n)

/-- Drop the marks of units that a write covers whole. -/
def clearCovered (u a n : Nat) (m : NatSet) : NatSet :=
  ((unitsOf u a n).filter (covers u a n)).foldl NatSet.drop m

/-- Write bytes at home: the order in which writes reach the home slice is the order of calls. A write that covers a
whole poison unit clears its mark (21 R427). -/
def State.writeHome (s : State) (pa : Nat) (bs : List Byte) : State :=
  { s with
    mem := Map.setMany unlisted s.mem pa bs
    writes := s.writes + 1
    bad := clearCovered 32 pa bs.length s.bad
    bad8 := clearCovered 8 pa bs.length s.bad8 }

/-- Bytes by rising address, as the runs of consecutive addresses that they form. -/
def runsOf : List (Nat × Byte) → List (Nat × List Byte)
  | [] => []
  | (a, b) :: rest =>
    match runsOf rest with
    | (a', bs) :: rs => if a' = a + 1 then (a, b :: bs) :: rs else (a, [b]) :: (a', bs) :: rs
    | [] => [(a, [b])]

/-- Write bytes at home by their addresses, those of a run together: a unit that one run covers whole is sound again (21 R427). -/
def State.writeRuns (s : State) (bs : List (Nat × Byte)) : State := (runsOf bs).foldl (fun s r => s.writeHome r.1 r.2) s

/-! ## Remote lines of an L2 slice (11 R240) -/

/-- A remote word that a slice can serve: valid and stamped with the slice's SGEN. -/
def L2.hit (l : L2) (pa : Nat) : Bool :=
  match Map.find? l.remote (pa / 128) with
  | some r => r.stamp == l.sgen && r.valid.getLsbD (pa % 128 / 4)
  | none => false

/-- The moment at which home held the word that a remote line holds. -/
def L2.momentOf (l : L2) (pa : Nat) : Nat :=
  match Map.find? l.remote (pa / 128) with
  | some r => Map.get 0 r.moment (pa % 128 / 4)
  | none => 0

/-- The byte a remote line holds. -/
def L2.byte (l : L2) (pa : Nat) : Byte :=
  match Map.find? l.remote (pa / 128) with
  | some r => Map.get 0 r.data (pa % 128)
  | none => 0

/-- Lines of 128 bytes that a slice's 48 MiB hold (00 R2). -/
def l2Lines : Nat := 0x3000000 / 128

/-- Lines that a slice holds. -/
def L2.count (l : L2) : Nat := l.remote.length + l.home.length

/-- Records that a unit's vertex cache of 4 MiB holds (00 R2). -/
def vertexLines : Nat := 0x400000 / 128

/-- Put one word of a remote line, stamped with the present SGEN; words of another stamp lose their valid bits. In a slice that is full
the line that comes in is the one that goes (log 56). `now` is a number of the machine's (10 R218), `at_` the moment of the word (09 R198). -/
def L2.fill (l : L2) (pa : Nat) (bs : List Byte) (now at_ : Nat) : L2 :=
  let k := pa / 128
  let w := pa % 128 / 4
  let fresh : Remote := { valid := 0, stamp := l.sgen, data := [], since := now, moment := [] }
  let r := (Map.find? l.remote k).getD fresh
  let r0 := if r.stamp == l.sgen && r.valid != 0 then r else { r with valid := 0, since := now }
  let r' : Remote := { r0 with valid := r0.valid ||| (1#32 <<< w), stamp := l.sgen, data := Map.setMany 0 r0.data (4 * w) bs,
                               moment := Map.set 0 r0.moment w at_ }
  if (Map.find? l.remote k).isSome || decide (l.count < l2Lines) then { l with remote := l.remote.put k r' } else l

/-- A slice is fenced (21 R445): it takes no line that it does not hold. What it is home to passes through it all the same, since no other
slice leads to that memory (log 77). -/
def State.sliceFenced (s : State) (g : Nat) : Bool := s.parts.any fun e => e.2.dies.contains (g / 4) && e.2.fenced.contains (65536 * 5 + g)

/-- A slice holds a home line of its own, while it has room. -/
def State.touchHome (s : State) (pa : Nat) : State :=
  let l := s.slice (homeOf pa)
  if l.home.contains (pa / 128) || decide (l2Lines ≤ l.count) || s.sliceFenced (homeOf pa) then s
  else s.setSlice (homeOf pa) { l with home := l.home.put (pa / 128) }

/-- A unit's vertex cache holds a record, while it has room; else a record goes, by a free choice. -/
def State.touchVertex (s : State) (group pa : Nat) : State :=
  let l := s.slice group
  if l.vertices.contains (pa / 128) then s
  else
    let vs := if l.vertices.length < vertexLines then l.vertices else l.vertices.eraseIdx (Config.victim s.free % vertexLines)
    let kept := vs.put (pa / 128)
    s.setSlice group { l with vertices := kept, vertexBad := l.vertexBad.filter fun u => kept.contains (u / 16) }

/-- A range touches a unit of the vertex cache that has an uncorrectable error. -/
def State.vertexPoison (s : State) (pa n : Nat) : Bool := (unitsOf 8 pa n).any (s.slice (homeOf pa)).vertexBad.contains

/-- Write bytes of Larder storage at home, and with them the vertex cache: a unit that is covered whole is sound again (21 R427). -/
def State.writeVertices (s : State) (pa : Nat) (bs : List Byte) : State :=
  let l := s.slice (homeOf pa)
  (s.writeHome pa bs).setSlice (homeOf pa) { l with vertexBad := clearCovered 8 pa bs.length l.vertexBad }

/-- Drop the remote copies of the words that hold bytes of a range. -/
def L2.dropRange (l : L2) (pa n : Nat) : L2 :=
  let drop := fun (m : Map Remote) (w : Nat) =>
    match Map.find? m (w / 32) with
    | some r => m.put (w / 32) { r with valid := r.valid &&& ~~~(1#32 <<< (w % 32)) }
    | none => m
  { l with remote := (unitsOf 4 pa n).foldl drop l.remote }

/-- A word as a slice serves it: its bytes, whether home served it from a poisoned unit, and the moment at which home held it. -/
structure Served where
  data : List Byte
  bad : Bool
  moment : Nat
  deriving DecidableEq, Repr

/-- One word as the slice of a stack group serves it: its home copy, its remote copy, or the home slice, whose word it
then holds unless the home unit is poisoned or the slice is fenced (11 R237; 21 R427, R445). -/
def State.sliceWord (s : State) (g pa : Nat) : Served × State :=
  let a := pa / 4 * 4
  let l := s.slice g
  let home : Served := ⟨s.bytesAt a 4, s.poisonedAt a 4, s.writes⟩
  if homeOf a = g then (home, s.touchHome a)
  else if l.hit a then (⟨(List.range 4).map (fun i => l.byte (a + i)), false, l.momentOf a⟩, s)
  else
    let s1 := if home.bad || s.sliceFenced g then s else s.setSlice g (l.fill a home.data s.nextId s.writes)
    (home, s1.touchHome a)

/-! ## L1 lines (11 R236 to R239) -/

def Line.init (gen : BitVec 8) (ro : Bool) : Line :=
  { gen := gen, ro := ro, wvalid := 0, dirty := 0, data := [], held := 0, bad := [], moment := [] }

/-- The four bytes of a word are dirty. -/
def Line.wordDirty (l : Line) (w : Nat) : Bool := (List.range 4).all (fun i => l.dirty.getLsbD (4 * w + i))

/-- A byte is readable when its word is valid or the byte is dirty (R236). -/
def Line.readable (l : Line) (b : Nat) : Bool := l.wvalid.getLsbD (b / 4) || l.dirty.getLsbD b

/-- A word of a clean copy of a poisoned unit: the copy is dropped and fetched once more (21 R427). -/
def Line.stale (l : Line) (w : Nat) : Bool :=
  l.bad.contains (w / 2) && !(List.range 8).any (fun i => l.dirty.getLsbD (8 * (w / 2) + i))

/-- A word of the span `[b, b + n)` misses (R237): it has a byte that is not readable, or it is not fully dirty and the line's generation is
old, or it lies in a clean copy of a poisoned unit. -/
def Line.misses (l : Line) (cgen : BitVec 8) (b n w : Nat) : Bool :=
  l.stale w || !((List.range 4).all fun i => decide (4 * w + i < b) || decide (b + n ≤ 4 * w + i) || l.readable (4 * w + i)) ||
    (!l.ro && l.gen != cgen && !l.wordDirty w)

/-- The words of the span that must be requested: those that miss (R237). -/
def Line.missing (l : Line) (cgen : BitVec 8) (b n : Nat) : List Nat := (unitsOf 4 b n).filter (l.misses cgen b n)

/-- The two words of a unit of 8 bytes are not from one moment at home. A word that this core has stored whole is the newest of its bytes, and
READONLY data do not change. -/
def Line.torn (l : Line) (w : Nat) : Bool :=
  !l.ro && !l.wordDirty w && !l.wordDirty (w ^^^ 1) && Map.get 0 l.moment w != Map.get 0 l.moment (w ^^^ 1)

/-- The words that an access of one atomic unit of 8 bytes requests: those that miss, and both words where they would not be from one moment
(09 R198; log 74, DEDUCED). -/
def Line.missingUnit (l : Line) (cgen : BitVec 8) (b : Nat) : List Nat :=
  (unitsOf 4 b 8).filter fun w =>
    l.misses cgen b 8 w || (!l.ro && !l.wordDirty w && !l.wordDirty (w ^^^ 1) && (l.misses cgen b 8 (w ^^^ 1) || l.torn w))

/-- A line as a page of a kind uses it: RO follows the page (R236). Words of a line that a READONLY page takes over stay valid under the present
generation alone; a line that a READONLY page gives up keeps no clean word, since the wrap of CGEN has spared it (R242): such a word may go at
any time (log 19). -/
def Line.retag (l : Line) (cgen : BitVec 8) (ro : Bool) : Line :=
  if ro != l.ro && (l.ro || l.gen != cgen) then { l with ro := ro, wvalid := 0, gen := cgen } else { l with ro := ro }

/-- A filled word replaces the bytes that are not dirty; a unit that home served with an error is marked. -/
def Line.putWord (l : Line) (w : Nat) (x : Served) : Line :=
  let put := fun (d : Map Byte) (i : Nat) =>
    if l.dirty.getLsbD (4 * w + i) then d else Map.set 0 d (4 * w + i) (x.data.getD i 0)
  { l with data := (List.range 4).foldl put l.data, moment := Map.set 0 l.moment w x.moment
           bad := if x.bad then l.bad.put (w / 2) else l.bad }

/-- Drop the clean copies of poisoned units in which a request has words (21 R427). -/
def Line.dropStale (l : Line) (ws : List Nat) : Line :=
  (ws.filter l.stale).foldl (fun l w => { l with wvalid := l.wvalid &&& ~~~(3#32 <<< (w / 2 * 2)), bad := l.bad.drop (w / 2) }) l

/-- The valid mask with the words filled: words valid under an older generation and not refilled become invalid, but on
a line of a READONLY page (R237). -/
def Line.validate (l : Line) (cgen : BitVec 8) (ws : List Nat) : Line :=
  let keep := if l.ro || l.gen == cgen then l.wvalid else 0
  { l with wvalid := ws.foldl (fun v w => v ||| (1#32 <<< w)) keep, gen := cgen }

/-- Units of 4 KiB that a crew takes from the L1 of its core: its scratchpad and, with rollback, its undo reserve (11 R235). -/
def crewUnits (bytes : Nat) (rb : Bool) : Nat := (bytes + 4095) / 4096 + if rb then 64 else 0

/-- Lines of the L1 portion of a core's SRAM array (00 R3, 11 R235): 768 units of 4 KiB without the scratchpads and the undo reserves,
of 256 KiB each, of the crews that the core holds. A crew that a context switch has taken away holds none. -/
def State.l1Lines (s : State) (core : Nat) : Nat :=
  let cs := (s.crews.map Prod.snd).filter fun c => c.core == core && c.image.isNone
  32 * (768 - (cs.map fun c => crewUnits c.bytes c.rb).sum)

/-- The L1 has the line, or room for it. -/
def State.l1Room (s : State) (core key : Nat) : Bool :=
  (Map.find? (s.core core).l1 key).isSome || decide ((s.core core).l1.length < s.l1Lines core)

/-- A remote line whose two words of a unit of 8 bytes are not from one moment gives them up (09 R198; log 74). -/
def State.wholeUnit (s : State) (g pa : Nat) : State :=
  let l := s.slice g
  let (a, b) := (pa / 8 * 8, pa / 8 * 8 + 4)
  if homeOf pa ≠ g && (l.hit a || l.hit b) && !(l.hit a && l.hit b && l.momentOf a == l.momentOf b) then s.setSlice g (l.dropRange a 8) else s

/-- Fetch the missing words of a line from the core's slice. -/
def State.fillLine (s : State) (core key : Nat) (l : Line) (ws : List Nat) : Line × State :=
  let r := ws.foldl
    (fun (p : Line × State) w =>
      let (x, s') := p.2.sliceWord (groupOf core) (128 * key + 4 * w)
      (p.1.putWord w x, s')) (l.dropStale ws, s)
  (if ws.isEmpty then r.1 else r.1.validate (s.core core).cgen ws, r.2)

/-- Read bytes of one line through a core's L1: the bytes, and whether some byte lies in a poisoned unit (R237); as one atomic unit of 8 bytes,
or with no unit (09 R198). -/
def State.readL1Line (s : State) (core pa n : Nat) (ro unit : Bool) : List Byte × Bool × State :=
  let c := s.core core
  let key := pa / 128
  let l := ((Map.find? c.l1 key).getD (Line.init c.cgen ro)).retag c.cgen ro
  let b := pa % 128
  let ws := if unit then l.missingUnit c.cgen b else l.missing c.cgen b n
  let (l', s') := (if unit && ws.length == 2 && !ro then s.wholeUnit (groupOf core) pa else s).fillLine core key l ws
  let c' := s'.core core
  (Map.getMany 0 l'.data b n, (unitsOf 8 b n).any l'.bad.contains,
    if s'.l1Room core key then s'.setCore core { c' with l1 := c'.l1.put key l' } else s')

/-- The pieces of a byte range that lie in one block of `u` bytes each: address, length. -/
def pieces (u : Nat) : Nat → Nat → Nat → List (Nat × Nat)
  | 0, _, _ => []
  | fuel + 1, a, n =>
    if n = 0 then []
    else
      let k := min n (u - a % u)
      (a, k) :: pieces u fuel (a + k) (n - k)

/-- The lines of a range. -/
def linesOf (a n : Nat) : List (Nat × Nat) := pieces 128 (n / 128 + 2) a n

/-- An access of a strand that is one atomic unit of two words (09 R198). -/
def unit8 (pa n : Nat) : Bool := n == 8 && pa % 8 == 0

/-- Read a range through a core's L1, as one atomic unit or not. -/
def State.readL1 (s : State) (core pa n : Nat) (ro unit : Bool) : List Byte × Bool × State :=
  (linesOf pa n).foldl
    (fun p q =>
      let (bs, bad, s') := p.2.2.readL1Line core q.1 q.2 ro (unit && unit8 pa n)
      (p.1 ++ bs, p.2.1 || bad, s')) ([], false, s)

/-- Write bytes into a line without filling it (R238). -/
def Line.write (l : Line) (b : Nat) (bs : List Byte) (held : Bool) : Line :=
  let n := bs.length
  let mask : BitVec 128 := ((1#128 <<< n) - 1) <<< b
  let mask := if n = 128 then ~~~0#128 else mask
  let dirty := l.dirty ||| mask
  let l' := { l with dirty := dirty, data := Map.setMany 0 l.data b bs, bad := clearCovered 8 b n l.bad,
                     held := if held then l.held ||| mask else l.held }
  { l' with wvalid := (unitsOf 4 b n).foldl (fun v w => if l'.wordDirty w then v ||| (1#32 <<< w) else v) l.wvalid }

/-- The dirty, releasable bytes of a line within `[b, b + n)`. -/
def Line.dirtyIn (l : Line) (b n : Nat) : List Nat :=
  (List.range n).map (b + ·) |>.filter fun i => l.dirty.getLsbD i && !l.held.getLsbD i

/-- Write back the dirty bytes of a line within a range of it: exactly those bytes at home; poisoned dirty units mark the
home unit; the slice's remote copy of the words is dropped, so that the core reads its own stores (R239, 01 R9). -/
def State.writeBackLine (s : State) (core key b n : Nat) : State :=
  let c := s.core core
  match Map.find? c.l1 key with
  | none => s
  | some l =>
    let ds := l.dirtyIn b n
    if ds.isEmpty then s
    else
      let s1 := s.writeRuns (ds.map fun i => (128 * key + i, Map.get 0 l.data i))
      let marks := l.bad.filter fun u => ds.any fun i => i / 8 == u
      let s2 := { s1 with bad8 := marks.foldl (fun m u => m.put (16 * key + u)) s1.bad8 }
      let g := groupOf core
      let s3 := ds.foldl (fun s i => s.setSlice g ((s.slice g).dropRange (128 * key + i) 1)) s2
      let l' := { l with dirty := ds.foldl (fun d i => d &&& ~~~(1#128 <<< i)) l.dirty
                         moment := ds.foldl (fun m i => Map.set 0 m (i / 4) s1.writes) l.moment }
      s3.setCore core { c with l1 := c.l1.put key l' }

/-- Write back a core's whole L1 (R242). -/
def State.writeBackAll (s : State) (core : Nat) : State :=
  (s.core core).l1.foldl (fun s e => s.writeBackLine core e.1 0 128) s

/-- Write back the dirty bytes of a range. -/
def State.writeBackRange (s : State) (core pa n : Nat) : State :=
  (linesOf pa n).foldl (fun s q => s.writeBackLine core (q.1 / 128) (q.1 % 128) q.2) s

/-- Evict a line: write back, then drop it; a held line is never evicted (R239, 21 R441). -/
def State.evictLine (s : State) (core key : Nat) : State :=
  match Map.find? (s.core core).l1 key with
  | some l =>
    if l.held ≠ 0 then s
    else
      let s' := s.writeBackLine core key 0 128
      let c := s'.core core
      s'.setCore core { c with l1 := c.l1.erase key }
  | none => s

/-- A line of the L1 other than `key` that may go to make room, by a free choice among those that hold no held byte. -/
def State.l1Victim (s : State) (core key : Nat) : Option Nat :=
  let ks := ((s.core core).l1.filter fun e => e.2.held == 0 && e.1 != key).map Prod.fst
  ks[Config.victim s.free % ks.length]?

/-- Write bytes of one line, which the L1 then holds. In an L1 that is full the bytes go home at once, and the line goes; bytes that are held make
another line go (log 56). -/
def State.writeL1Line (s : State) (core key b : Nat) (bs : List Byte) (held : Bool) : State :=
  let room := s.l1Room core key
  let s0 := if room || !held then s else
    match s.l1Victim core key with
    | some k => s.evictLine core k
    | none => s
  let c := s0.core core
  let l := ((Map.find? c.l1 key).getD (Line.init c.cgen false)).retag c.cgen false
  let s1 := s0.setCore core { c with l1 := c.l1.put key (l.write b bs held) }
  if room || held then s1 else s1.evictLine core key

/-- Store a range through a core's L1 (R238). -/
def State.writeL1 (s : State) (core pa : Nat) (bs : List Byte) (held : Bool) : State :=
  (linesOf pa bs.length).foldl
    (fun s q => s.writeL1Line core (q.1 / 128) (q.1 % 128) ((bs.drop (q.1 - pa)).take q.2) held) s

/-- Lines go until the L1 portion of a core holds no more than it has room for (11 R235). Which lines the units that go hold is a
free choice. -/
def State.shrinkL1 (s : State) (core : Nat) : Nat → State
  | 0 => s
  | n + 1 =>
    if (s.core core).l1.length ≤ s.l1Lines core then s
    else
      let ks := ((s.core core).l1.filter fun e => e.2.held == 0).map Prod.fst
      match ks[Config.victim (s.free + n) % ks.length]? with
      | some k => (s.evictLine core k).shrinkL1 core n
      | none => s

/-- Clear the word-valid bits of a range: of every word, or of the words that hold no dirty byte (06 R133). -/
def State.invalidateRange (s : State) (core pa n : Nat) (keepDirty : Bool) : State :=
  (linesOf pa n).foldl
    (fun s q =>
      let c := s.core core
      let key := q.1 / 128
      match Map.find? c.l1 key with
      | none => s
      | some l =>
        let ws := (unitsOf 4 (q.1 % 128) q.2).filter fun w =>
          !keepDirty || !(List.range 4).any fun i => l.dirty.getLsbD (4 * w + i)
        let l' := { l with wvalid := ws.foldl (fun v w => v &&& ~~~(1#32 <<< w)) l.wvalid }
        s.setCore core { c with l1 := c.l1.put key l' }) s

/-- Drop the local slice's remote copies of a range. -/
def State.dropRemote (s : State) (core pa n : Nat) : State :=
  let g := groupOf core
  s.setSlice g ((s.slice g).dropRange pa n)

/-- Invalidate a core's instruction-cache lines of a range (06 R133). -/
def State.dropCode (s : State) (core pa n : Nat) : State :=
  let c := s.core core
  s.setCore core { c with code := (linesOf pa n).foldl (fun m q => m.erase (q.1 / 128)) c.code }

/-! ## Instruction fetch (10 R216) -/

/-- Lines of an instruction cache of 256 KiB (00 R3). -/
def codeLines : Nat := 0x40000 / 128

/-- A word of code as a slice serves it to a fetch whose floor is a number: a remote copy filled before the floor is filled anew (R218). With a
number no later than the moment at which home held the word. -/
def State.codeWord (s : State) (g pa floor : Nat) : Served × Nat × State :=
  let old := (Map.find? (s.slice g).remote (pa / 128)).getD { valid := 0, stamp := 0, data := [], since := s.nextId, moment := [] }
  let s0 := if homeOf pa ≠ g && decide (old.since < floor) then s.setSlice g ((s.slice g).dropRange (pa / 128 * 128) 128) else s
  let since := if homeOf pa ≠ g && (s0.slice g).hit pa then old.since else s.nextId
  let (x, s') := s0.sliceWord g pa
  (x, since, s')

/-- The 32 words of one code line in rising order: their bytes and errors, and the counter value no word of the line is older than. -/
def State.codeLine (s : State) (group key floor : Nat) : CodeLine × State :=
  (List.range 32).foldl
    (fun (p : CodeLine × State) w =>
      let (x, since, s') := p.2.codeWord group (128 * key + 4 * w) floor
      ({ data := Map.setMany 0 p.1.data (4 * w) x.data, bad := if x.bad then p.1.bad.put w else p.1.bad, since := min p.1.since since }, s'))
    ({ data := [], bad := [], since := s.nextId }, s)

/-- Bring a line into a core's instruction cache from its slice; never from L1. A line older than the floor is filled anew (R218); one that was
read with an error is not kept (21 R427). -/
def State.fillCode (s : State) (core key floor : Nat) : CodeLine × State :=
  let c := s.core core
  match (Map.find? c.code key).filter fun l => decide (floor ≤ l.since) with
  | some l => (l, s)
  | none =>
    let (l, s1) := s.codeLine (groupOf core) key floor
    let c' := s1.core core
    let room := (Map.find? c'.code key).isSome || decide (c'.code.length < codeLines)
    (l, if l.bad.isEmpty && room then s1.setCore core { c' with code := c'.code.put key l } else s1)

/-- One parcel through the instruction cache, and whether it holds an uncorrectable error. -/
def State.fetchParcel (s : State) (core pa floor : Nat) : Parcel × Bool × State :=
  let (l, s') := s.fillCode core (pa / 128) floor
  (ofBytes 32 (Map.getMany 0 l.data (pa % 128) 4), l.bad.contains (pa % 128 / 4), s')

/-! ## Scratchpad (11 R235) -/

/-- Bytes of a core's scratchpad: at most 1 MiB (00 R3). -/
def scratchSize : Nat := 0x100000

def State.readScratch (s : State) (core off n : Nat) : List Byte × Bool :=
  let c := s.core core
  (Map.getMany 0 c.scratch off n, (unitsOf 8 off n).any c.scratchBad.contains)

def State.writeScratch (s : State) (core off : Nat) (bs : List Byte) : State :=
  let c := s.core core
  s.setCore core { c with scratch := Map.setMany 0 c.scratch off bs
                          scratchBad := clearCovered 8 off bs.length c.scratchBad }

/-- The granules of 16 bytes that a range touches (12 R272). -/
def granulesOf (off n : Nat) : List Nat := unitsOf 16 off n

def State.setFull (s : State) (core : Nat) (gs : List Nat) : State :=
  let c := s.core core
  s.setCore core { c with empty := gs.foldl NatSet.drop c.empty }

def State.setEmpty (s : State) (core : Nat) (gs : List Nat) : State :=
  let c := s.core core
  s.setCore core { c with empty := gs.foldl NatSet.put c.empty }

/-! ## Reconciliation (11 R242, 01 R21) -/

/-- CGEN + 1; at the wrap every word of every line with RO = 0 loses its valid bit. -/
def Core.bump (c : Core) : Core :=
  let g := c.cgen + 1
  { c with cgen := g
           l1 := if g = 0 then c.l1.map (fun e => if e.2.ro then e else (e.1, { e.2 with wvalid := 0 })) else c.l1 }

/-- SGEN + 1; at the wrap every remote line loses its valid bits. -/
def L2.bump (l : L2) : L2 :=
  let g := l.sgen + 1
  { l with sgen := g
           remote := if g = 0 then l.remote.map (fun e => (e.1, { e.2 with valid := 0 })) else l.remote }

/-- The source side of an edge at a span: nothing below K; at K and wider the core's dirty bytes go home. The wait for
the acknowledgement counter at span P is a condition on the step, `ackClear`. -/
def State.reconcileSource (s : State) (core span : Nat) : State := if span < 2 then s else s.writeBackAll core

/-- The destination side: at C and wider the core's generation steps, at K and wider the slice's too. -/
def State.reconcileDest (s : State) (core span : Nat) : State :=
  let s1 := if span < 1 then s else s.setCore core (s.core core).bump
  if span < 2 then s1 else s1.setSlice (groupOf core) (s1.slice (groupOf core)).bump

/-- A span-P source leaves once the core's fabric acknowledgement counter is 0 (01 R21). -/
def State.ackClear (s : State) (core span : Nat) : Bool := decide (span < 4) || (s.core core).ack == 0

end Sys2Proof.Machine
end

