-- ==== Sys2Proof/Machine/Translate.lean ====
section
/-! DEFINITION. Apertures (01 R30), page tables, translation and permission (11 R244 to R248), and the records of
translation faults (11 R251). -/

namespace Sys2Proof.Machine

/-! ## Page tables (11 R244 to R246) -/

/-- A leaf as a walk finds it: physical base, size, and the attributes of R245. -/
structure Leaf where
  base : Nat
  size : Nat
  vbase : Nat
  kind : Nat
  por : Bool
  user : Bool
  x : Bool
  w : Bool
  r : Bool
  /-- The entry's own physical address, which firmware rewrites (R252, R256), and its level. -/
  entryAt : Nat
  level : Nat
  deriving DecidableEq, Repr

/-- How a walk ends. `pool` is the POOL bit of an entry with V = 0, and `entryAt` its physical address (0 for none). -/
inductive Walk where
  | leaf (l : Leaf)
  | fault (why level entryAt : Nat) (pool : Bool)
  deriving DecidableEq, Repr

/-- Coverage of one entry: 4 KiB at level 0, 2048 times more at each level up (R244). -/
def coverage (level : Nat) : Nat := 4096 * 2048 ^ level

/-- Trailing one bits, at most `n`. -/
def trailingOnes : Nat → Nat → Nat
  | 0, _ => 0
  | n + 1, x => if x % 2 = 1 then 1 + trailingOnes n (x / 2) else 0

/-- A partition owns the physical range: one stack's or one port's memory, present, on its dies (R243). -/
def State.owned (s : State) (part pa n : Nat) : Bool :=
  match Map.find? s.parts part with
  | none => false
  | some p =>
    s.populated pa && s.populated (pa + n - 1) && portOf pa == portOf (pa + n - 1) &&
      homeOf pa / 2 == homeOf (pa + n - 1) / 2 && (inCellar pa || homeOf pa == homeOf (pa + n - 1)) &&
      p.dies.contains (dieOfAddr pa)

/-- The size code t of a leaf: trailing ones of PNF (R246). -/
def leafT (e : Nat) : Nat := trailingOnes 41 (e / 4096 % 2 ^ 41)

/-- Read a leaf entry found at a level for a virtual address (R245, R246). -/
def State.readLeaf (s : State) (part e level va entryAt : Nat) : Walk :=
  let t := leafT e
  let size := 4096 * 2 ^ t
  let cov := coverage level
  let base := e / 2 ^ 12 % 2 ^ 41 / 2 ^ (t + 1) * 2 ^ (12 + t)
  let malformed := e / 2 ^ 63 % 2 = 1 ∨ e / 2 ^ 10 % 4 ≠ 0 ∨ e / 2 ^ 9 % 2 = 1 ∨ (e / 4 % 2 = 1 ∧ e / 2 % 2 = 0) ∨
    20 < t ∨ 2048 * cov < size
  if malformed then .fault 1 level entryAt false
  else if !s.owned part base size then .fault 1 level entryAt false
  else if size < cov ∧ size ≤ va % cov then .fault 0 level entryAt false
  else .leaf { base := base, size := size, vbase := if size < cov then va / cov * cov else va / size * size
               kind := e / 64 % 4, por := e / 32 % 2 == 1, user := e / 16 % 2 == 1, x := e / 8 % 2 == 1
               w := e / 4 % 2 == 1, r := e / 2 % 2 == 1, entryAt := entryAt, level := level }

/-- Walk from the table at `table` of level `level`: every entry is read at home (R248); an entry in a poisoned unit counts
as malformed (21 R428). The spec says neither what a table entry of level 0 is, which counts as malformed here, nor what a table that lies where
no memory is gives, or where the memory is another partition's, which no access reaches (22 R460): it reads as zeros here, so that nothing is
present (log 70, DESIGN CHOICE). -/
def State.walkFrom (s : State) (part va : Nat) : Nat → Nat → Walk
  | level, table =>
    let entryAt := table + 8 * (va / coverage level % 2048)
    let mine := s.owned part entryAt 8
    let e := if mine then s.wordAt entryAt 8 else 0
    if mine && s.poisonedAt entryAt 8 then .fault 1 level entryAt false
    else if e % 2 = 0 then .fault 0 level entryAt (e / 512 % 2 == 1)
    else if e / 256 % 2 = 1 then s.readLeaf part e level va entryAt
    else
      match level with
      | 0 => .fault 1 0 entryAt false
      | k + 1 =>
        if e / 2 ^ 63 % 2 = 1 ∨ e / 2 ^ 52 % 2 = 1 ∨ e / 2 ^ 9 % 8 ≠ 0 ∨ e / 2 % 128 ≠ 0 ∨ e / 2 ^ 12 % 4 ≠ 0 then
          .fault 1 level entryAt false
        else s.walkFrom part va k (e / 2 ^ 14 % 2 ^ 38 * 2 ^ 14)

/-- Walk a context's tables from its root (R244). -/
def State.walk (s : State) (part ctx va : Nat) : Walk :=
  match Map.find? s.ctxs ctx with
  | some c => s.walkFrom part va 3 c.root
  | none => .fault 0 3 0 false

/-! ## Translation (11 R247, R248) -/

/-- What an access needs of its page (R247). -/
structure Need where
  r : Bool := false
  w : Bool := false
  x : Bool := false
  /-- A cell operation: a READONLY page raises PROTECTION, and a Cellar frame faults for migration (01 R17). -/
  cell : Bool := false
  user : Bool
  deriving DecidableEq, Repr

/-- The outcome of translating one access. -/
inductive Xlate where
  | ok (pa : Nat) (l : Leaf)
  | fault (why level entryAt : Nat) (pool : Bool)
  | denied
  deriving DecidableEq, Repr

/-- Permission (R247); a write to a READONLY page is refused whatever W says (01 R32). -/
def Leaf.allows (l : Leaf) (n : Need) : Bool :=
  (!n.r || l.r) && (!n.w || (l.w && l.kind != 1)) && (!n.x || l.x) && (!n.user || l.user) && (!n.cell || l.kind != 1)

/-- Use a leaf for an address. -/
def Leaf.use (l : Leaf) (va : Nat) (n : Need) : Xlate :=
  let pa := l.base + (va - l.vbase)
  if n.cell && l.kind == 3 && inCellar pa then .fault 0 l.level l.entryAt false
  else if l.allows n then .ok pa l
  else .denied

/-- Cycles of a window in which accesses of a CELLAR page are counted: 10 ms at 3 GHz (R256, 00 R5). -/
def pageWindow : Nat := 30000000

/-- One more access, in a cycle. -/
def PageUse.more (u : PageUse) (now : Nat) : PageUse :=
  let w := now / pageWindow
  if u.window = w then { u with count := u.count + 1, last := now }
  else { u with window := w, prev := if u.window + 1 = w then u.count else 0, count := 1, last := now }

/-- Count an access to a CELLAR page (R256, R257). -/
def State.notePage (s : State) (ctx va : Nat) : State :=
  if s.pageUse.any fun u => u.ctx == ctx && u.va == va then
    { s with pageUse := updFirst (fun u => u.ctx == ctx && u.va == va) (fun u => u.more s.cycle) s.pageUse }
  else { s with pageUse := s.pageUse ++ [{ ctx := ctx, va := va, window := s.cycle / pageWindow, count := 1, prev := 0, last := s.cycle }] }

/-- Use a leaf for an address; a use of a CELLAR page is counted. -/
def State.useLeaf (s : State) (ctx : Nat) (l : Leaf) (va : Nat) (n : Need) : Xlate × State :=
  match l.use va n with
  | .ok pa m => (.ok pa m, if l.kind = 3 then s.notePage ctx l.vbase else s)
  | x => (x, s)

/-- A cached translation of a unit that covers an address. -/
def State.tlbFind (s : State) (unit ctx va : Nat) : Option Tlb :=
  s.tlb.find? fun t => t.core == unit && t.ctx == ctx && decide (t.base ≤ va) && decide (va < t.base + t.size)

/-- Translate one access of a unit (cores 0 to 191, stack groups from 256): a cached leaf if one covers the address, else a
walk, whose leaf is then cached. Every use of a CELLAR page is counted (11 R256). -/
def State.xlate (s : State) (unit part ctx va : Nat) (n : Need) : Xlate × State :=
  match s.tlbFind unit ctx va with
  | some t =>
    match s.readLeaf part t.entry.toNat t.level va t.entryAt with
    | .leaf l => s.useLeaf ctx l va n
    | .fault w lv e p => (.fault w lv e p, s)
  | none =>
    match s.walk part ctx va with
    | .fault w lv e p => (.fault w lv e p, s)
    | .leaf l =>
      let t : Tlb := { core := unit, ctx := ctx, base := l.vbase, size := l.size
                       entry := BitVec.ofNat 64 (s.wordAt l.entryAt 8), entryAt := l.entryAt, level := l.level }
      { s with tlb := t :: s.tlb }.useLeaf ctx l va n

/-- Remove a context's cached translations that cover an address, or all of them, from every unit (R249). -/
def State.tlbRemove (s : State) (ctx : Nat) (va : Option Nat) : State :=
  { s with tlb := s.tlb.filter fun t =>
      !(t.ctx == ctx && (match va with
        | none => true
        | some a => decide (t.base ≤ a) && decide (a < t.base + t.size))) }

/-! ## Apertures and segments (01 R30, R31) -/

/-- Where a generic address leads after the aperture and limit checks. -/
inductive Place where
  /-- A virtual address of the global window or the Attic. -/
  | virt (va : Nat)
  /-- A core-absolute scratchpad address. -/
  | scratch (off : Nat)
  deriving DecidableEq, Repr

/-- Trap cause codes (10 R221). -/
def Cause.illegalOpcode : BitVec 8 := 0x01
def Cause.reservedField : BitVec 8 := 0x02
def Cause.privilege : BitVec 8 := 0x03
def Cause.addressHole : BitVec 8 := 0x04
def Cause.misaligned : BitVec 8 := 0x05
def Cause.pageFault : BitVec 8 := 0x06
def Cause.protection : BitVec 8 := 0x07
def Cause.segmentLimit : BitVec 8 := 0x08
def Cause.poisonUse : BitVec 8 := 0x09
def Cause.nanProduced : BitVec 8 := 0x0A
def Cause.breakpoint : BitVec 8 := 0x0B
def Cause.trapInstruction : BitVec 8 := 0x0C
def Cause.atticOverflow : BitVec 8 := 0x0D
def Cause.queueAbort : BitVec 8 := 0x0E
def Cause.engineFault : BitVec 8 := 0x0F
def Cause.regionViolation : BitVec 8 := 0x10
def Cause.misalignedFetch : BitVec 8 := 0x11

/-- A trap: cause and TVAL. -/
structure Trap where
  cause : BitVec 8
  val : Word64
  deriving DecidableEq, Repr

/-- The aperture that bits 63:56 steer to (R30). -/
inductive Aperture where
  | global | scratch | attic
  deriving DecidableEq, Repr

def apertureOf (a : Word64) : Option Aperture :=
  match (a.extractLsb' 56 8).toNat with
  | 0x00 => some .global
  | 0xFE => some .scratch
  | 0xFD => some .attic
  | _ => none

/-- The offset of a generic address: bits 55:0. -/
def offsetOf (a : Word64) : Nat := (a.extractLsb' 0 56).toNat

/-- The segment registers of a slice, with its mode. -/
def Slice.segs (sl : Slice) : Segs :=
  { scrb := sl.scrb, scrl := sl.scrl, stkb := sl.stkb, stkl := sl.stkl, glbb := sl.glbb, glbl := sl.glbl, user := !sl.priv }

/-- The limit check of an aperture, and the place (R30, R31). -/
def Segs.limit (g : Segs) (ap : Aperture) (a : Word64) (n : Nat) : Except Trap Place :=
  let off := offsetOf a
  match ap with
  | .global =>
    if g.glbb.toNat ≤ off ∧ off + n ≤ g.glbl.toNat then .ok (.virt off) else .error ⟨Cause.segmentLimit, a⟩
  | .scratch =>
    if g.scrl.toNat < off + n then .error ⟨Cause.segmentLimit, a⟩
    else if scratchSize < g.scrb.toNat + off + n then .error ⟨Cause.segmentLimit, a⟩
    else .ok (.scratch (g.scrb.toNat + off))
  | .attic =>
    if g.stkl.toNat < off + n then .error ⟨Cause.segmentLimit, a⟩
    else if 2 ^ 56 < g.stkb.toNat + off + n then .error ⟨Cause.addressHole, a⟩
    else .ok (.virt (g.stkb.toNat + off))

/-- Aperture, alignment to `align`, then the limit, in the order of 06 R130. -/
def Segs.place (g : Segs) (a : Word64) (n align : Nat) : Except Trap Place :=
  match apertureOf a with
  | none => .error ⟨Cause.addressHole, a⟩
  | some ap => if a.toNat % align ≠ 0 then .error ⟨Cause.misaligned, a⟩ else g.limit ap a n

/-! ## Fault records (11 R251) -/

/-- Record a translation fault of a unit, or add the unit to the fault in service on the same 4 KiB page of the context. -/
def State.addFault (s : State) (f : FaultRec) (u : FaultUnit) : Nat × State :=
  match s.faults.find? fun r => r.ctx == f.ctx && r.va / 4096 == f.va / 4096 with
  | some r =>
    (r.token, { s with faults := updFirst (fun x => x.token == r.token) (fun x => { x with units := x.units ++ [u] }) s.faults })
  | none =>
    (s.nextId, { s with nextId := s.nextId + 1, faults := s.faults ++ [{ f with token := s.nextId, units := [u] }] })

end Sys2Proof.Machine
end

