-- ==== Sys2Proof/Machine/Ops.lean ====
section
/-! DEFINITION. The named operations over registers, gangs and control: windows and outstanding results (05 R101, R114,
R115), writing a result, moving the pc, taking a trap (10 R222) and returning from one (10 R223). -/

namespace Sys2Proof.Machine

/-! ## Registers (03 R57, 05 R101) -/

/-- The physical key of a scalar register code: g0 to g7, then the ring of 56. -/
def Slice.scalKey (sl : Slice) (r : SReg) : Nat :=
  if r.toNat < 8 then r.toNat else 8 + (sl.wb + (r.toNat - 8)) % 56

/-- The ring entry of a lane register. -/
def Slice.laneRing (sl : Slice) (lregs : Nat) (v : VReg) : Nat := (sl.lb + v.toNat) % lregs

/-- The key of lane `k` of a lane register. -/
def Slice.laneKey (sl : Slice) (lregs : Nat) (v : VReg) (k : Nat) : Nat := 4 * sl.laneRing lregs v + k

/-- The value last written to a scalar register; g0 reads 0. -/
def Slice.scalNow (sl : Slice) (r : SReg) : SVal := if r = 0 then {} else Map.get {} sl.scal (sl.scalKey r)

/-- The element last written to lane `k` of a lane register. -/
def Slice.laneNow (sl : Slice) (lregs : Nat) (v : VReg) (k : Nat) : LVal := Map.get {} sl.lane (sl.laneKey lregs v k)

/-- The slice's segment of a mask register; m0 is all ones (03 R57). -/
def Slice.maskNow (sl : Slice) (m : Nat) : BitVec 4 := if m = 0 then 0xF else Map.get 0 sl.masks m

/-- A result is outstanding in cycle `now` (08 R188). -/
def Pending.live (now : Nat) (p : Pending) : Bool :=
  match p.due with
  | some d => decide (now < d)
  | none => true

/-- Some result of the slice is outstanding. -/
def Slice.outstanding (now : Nat) (sl : Slice) : Bool := sl.pending.any (Pending.live now)

/-- Some result of the gang is outstanding. -/
def Gang.outstanding (now : Nat) (g : Gang) : Bool := g.slices.any (Slice.outstanding now)

/-- The values that a word may read from a register with writes outstanding (05 R115): the value now held, the value
before each outstanding write, and the value of each that has been fetched. -/
def Slice.candidates (now : Nat) (sl : Slice) (t : Target) (cur : SVal) : List SVal :=
  cur :: (sl.pending.filter (fun p => p.live now && p.targ == t)).flatMap
    (fun p => if p.load.isSome || p.engine then [p.old] else [p.old, p.new])

/-- A number for a target, to make the choices of one word independent. -/
def Target.number : Target → Nat
  | .scalar k => 3 * k
  | .lane r k => 3 * (4 * r + k) + 1
  | .mask m k => 3 * (4 * m + k) + 2

/-- Read a target: the value it holds, or a free choice among the candidates while a write is outstanding. -/
def Slice.readTarget (now word : Nat) (sl : Slice) (t : Target) (cur : SVal) : SVal :=
  match sl.candidates now t cur with
  | [v] => v
  | vs => vs.getD (Config.staleChoice word sl.sid t.number % vs.length) cur

/-- What a word's reads need: the cycle, the word's number, the gang's lane register count. -/
structure RCtx where
  now : Nat
  word : Nat
  lregs : Nat
  deriving DecidableEq, Repr

/-- Read a scalar register (05 R115). -/
def Slice.readS (sl : Slice) (c : RCtx) (r : SReg) : SVal :=
  if r = 0 then {} else sl.readTarget c.now c.word (.scalar (sl.scalKey r)) (sl.scalNow r)

/-- Read lane `k` of a lane register. -/
def Slice.readV (sl : Slice) (c : RCtx) (v : VReg) (k : Nat) : LVal :=
  let cur := sl.laneNow c.lregs v k
  let x := sl.readTarget c.now c.word (.lane (sl.laneRing c.lregs v) k) ⟨cur.v.setWidth 64, cur.tag⟩
  ⟨x.v.setWidth 32, x.tag⟩

/-- Read bit `k` of the slice's segment of a mask register. -/
def Slice.readM (sl : Slice) (c : RCtx) (m k : Nat) : Bool :=
  if m = 0 then true
  else
    (sl.readTarget c.now c.word (.mask m k) ⟨(BitVec.ofBool ((sl.maskNow m).getLsbD k)).setWidth 64, false⟩).v.getLsbD 0

/-- Read a mask register's segment. -/
def Slice.readMask (sl : Slice) (c : RCtx) (m : Nat) : BitVec 4 :=
  (List.range 4).foldl (fun b k => if sl.readM c m k then b ||| (1#4 <<< k) else b) 0

/-- act(pm): the lanes in EM that the mask field selects (02 R46). -/
def Slice.act (sl : Slice) (c : RCtx) (pm : Pm) : BitVec 4 :=
  let m := sl.readMask c (pm.extractLsb' 0 3).toNat
  sl.em &&& (if pm.getLsbD 3 then ~~~m else m)

/-- The lanes of a 4-bit segment, in order. -/
def lanesOf (b : BitVec 4) : List Nat := (List.range 4).filter b.getLsbD

/-! ## Results -/

/-- When a result can be read (08 R188, R189): after a fixed number of cycles, or when it returns. -/
inductive Lat where
  | fixed (l : Nat)
  /-- A variable latency, with the figure that the unloaded part shows. -/
  | variable (figure : Nat)
  deriving DecidableEq, Repr

/-- The cycle from which a result of this latency is read. -/
def Lat.due (now : Nat) : Lat → Option Nat
  | .fixed l => some (now + l)
  | .variable _ => none

/-- The cycle at which the unloaded part has the result. -/
def Lat.eta (now : Nat) : Lat → Nat
  | .fixed l => now + l
  | .variable f => now + f

/-- The outstanding results after a write to a target: earlier deferred results of it are overtaken; a latency of one
cycle leaves nothing outstanding. -/
def pendAdd (now word : Nat) (lat : Lat) (t : Target) (old new : SVal) (ps : List Pending) : List Pending :=
  let ps' := ps.map fun p => if p.targ == t then { p with passed := true } else p
  match lat with
  | .fixed 1 => ps'
  | _ => ps' ++ [{ n := word, targ := t, old := old, new := new, due := lat.due now, eta := lat.eta now, load := none, engine := false, passed := false }]

/-- Write a scalar register; code 0 discards the result and its tag (06 R122). -/
def Slice.writeS (sl : Slice) (c : RCtx) (lat : Lat) (r : SReg) (x : SVal) : Slice :=
  if r = 0 then sl
  else
    let k := sl.scalKey r
    { sl with scal := Map.set {} sl.scal k x
              pending := pendAdd c.now c.word lat (.scalar k) (sl.scalNow r) x sl.pending }

/-- Write lane `k` of a lane register. -/
def Slice.writeV (sl : Slice) (c : RCtx) (lat : Lat) (v : VReg) (k : Nat) (x : LVal) : Slice :=
  let ring := sl.laneRing c.lregs v
  let old := sl.laneNow c.lregs v k
  { sl with lane := Map.set {} sl.lane (4 * ring + k) x
            pending := pendAdd c.now c.word lat (.lane ring k) ⟨old.v.setWidth 64, old.tag⟩ ⟨x.v.setWidth 64, x.tag⟩ sl.pending }

/-- Write bit `k` of a mask register's segment; m0 discards it. -/
def Slice.writeM (sl : Slice) (c : RCtx) (lat : Lat) (m k : Nat) (b : Bool) : Slice :=
  if m = 0 then sl
  else
    let old := sl.maskNow m
    let bit := 1#4 <<< k
    { sl with masks := Map.set 0 sl.masks m (if b then old ||| bit else old &&& ~~~bit)
              pending := pendAdd c.now c.word lat (.mask m k) ⟨(BitVec.ofBool (old.getLsbD k)).setWidth 64, false⟩
                ⟨(BitVec.ofBool b).setWidth 64, false⟩ sl.pending }

/-- A 64-bit value of a lane register pair: the even register low (04 R71); the tags join. -/
def Slice.readPair (sl : Slice) (c : RCtx) (v : VReg) (k : Nat) : SVal :=
  let lo := sl.readV c v k
  let hi := sl.readV c (v + 1) k
  ⟨hi.v ++ lo.v, lo.tag || hi.tag⟩

/-- Write a 64-bit value into a lane register pair. -/
def Slice.writePair (sl : Slice) (c : RCtx) (lat : Lat) (v : VReg) (k : Nat) (x : SVal) : Slice :=
  (sl.writeV c lat v k ⟨x.v.setWidth 32, x.tag⟩).writeV c lat (v + 1) k ⟨(x.v >>> 32).setWidth 32, x.tag⟩

/-- Expect an engine's results in lane `k` of lane registers: each is outstanding until the engine writes it. -/
def Slice.expectV (sl : Slice) (c : RCtx) (vs : List VReg) (k : Nat) : Slice :=
  let sl1 := vs.foldl (fun sl v => sl.writeV c (.variable 0) v k (sl.laneNow c.lregs v k)) sl
  let mine := vs.map fun v => Target.lane (sl.laneRing c.lregs v) k
  { sl1 with pending := sl1.pending.map fun p => if p.n == c.word && mine.contains p.targ then { p with engine := true } else p }

/-- Expect an engine's result in a scalar register. -/
def Slice.expectS (sl : Slice) (c : RCtx) (r : SReg) : Slice :=
  let sl1 := sl.writeS c (.variable 0) r (sl.scalNow r)
  { sl1 with pending := sl1.pending.map fun p => if p.n == c.word && p.targ == .scalar (sl.scalKey r) then { p with engine := true } else p }

/-- An engine writes a result of a word: the register takes it unless a later word has written it, and it stops being
outstanding. -/
def Slice.engineWrite (sl : Slice) (word : Nat) (t : Target) (x : SVal) : Slice :=
  match sl.pending.find? fun p => p.n == word && p.targ == t && p.engine with
  | none => sl
  | some p =>
    let sl1 := { sl with pending := sl.pending.erase p }
    if p.passed then sl1
    else
      match t with
      | .scalar k => { sl1 with scal := Map.set {} sl1.scal k x }
      | .lane r k => { sl1 with lane := Map.set {} sl1.lane (4 * r + k) ⟨x.v.setWidth 32, x.tag⟩ }
      | .mask _ _ => sl1

/-! ## Gangs -/

/-- The reads of a gang's present word. -/
def State.rctx (s : State) (g : Gang) : RCtx := { now := s.cycle, word := s.free, lregs := g.lregs }

/-- Apply a function to every slice, in increasing position. -/
def Gang.mapSlices (g : Gang) (f : Slice → Slice) : Gang := { g with slices := g.slices.map f }

/-- Positions of the present gang: bit p for each (05 R118 GANGPOS). -/
def Gang.positions (g : Gang) : Nat := (g.slices.map fun sl => 2 ^ sl.pos).sum

/-- The first slice's copy of what the whole gang shares. -/
def Gang.pc (g : Gang) : Word64 := (g.slices.head?.map Slice.pc).getD 0

/-- Some slice runs in user mode. -/
def Gang.user (g : Gang) : Bool := g.slices.any fun sl => !sl.priv

/-- The gang checked out for issue. -/
def State.setCur (s : State) (g : Gang) : State := { s with cur := some g }

/-- Bytes of a word. -/
def wordBytes (i : Instr) : Nat := 4 * (encode i).length

/-- A slice after a word: the pc moved, the region state, nothing left unfinished. -/
def Slice.after (sl : Slice) (pc : Word64) (ends : Bool) : Slice :=
  { sl with pc := pc, between := sl.between || ends, justRegion := false, unfin := none }

/-- A slice after a word that does not transfer control (03 R47). -/
def Slice.advance (sl : Slice) (bytes : Nat) (ends : Bool) : Slice :=
  sl.after (sl.pc + BitVec.ofNat 64 bytes) ends

/-- The word of the present gang has issued and waits to act: it takes no further cycle of the slot (08 R186, R187). -/
def State.holdWord (s : State) (g : Gang) (h : Hold) : State := s.setCur { g with park := .held h, waiting := true }

/-- The state after a word of the present gang: the gang as the word leaves it, one more free value drawn. -/
def State.wordDone (s : State) (g : Gang) : State := { s with cur := some g, free := s.free + 1, performed := true }

/-! ## Taking a trap (10 R222) and returning from one (10 R223) -/

/-- The slice cannot take a trap: TSAVED is 1, or TVEC is 0 or no multiple of 4 (R224). -/
def Slice.doubleTrap (sl : Slice) : Bool := sl.tsave.isSome || sl.tvec == 0 || sl.tvec.extractLsb' 0 2 != 0

/-- Trap entry of one slice (R222): the trap save takes REGIONPC, LIVES, LIVEV, the snapshots and the parts not yet
performed; TCAUSE, TVAL and TEPC are written; PPRIV takes PRIV and PRIV becomes 1; PC takes TVEC; the slice is between
regions. -/
def Slice.enterTrap (sl : Slice) (t : Trap) : Slice :=
  { sl with
    tsave := some { wordAt := sl.pc, regionpc := sl.regionpc, lives := sl.lives, livev := sl.livev, snap := sl.snap, replay := sl.unfin, noteMark := sl.noteMark }
    tcause := t.cause.setWidth 64
    tval := t.val
    tepc := sl.pc
    ppriv := sl.priv
    priv := true
    pc := sl.tvec
    between := true
    justRegion := false
    unfin := none }

/-- ERET of one slice (R223): the region is restored, and the resumed word no longer stands directly behind its REGION (log 75, DESIGN CHOICE). -/
def Slice.eret (sl : Slice) : Slice :=
  match sl.tsave with
  | some t =>
    { sl with
      priv := sl.ppriv
      regionpc := t.regionpc
      lives := t.lives
      livev := t.livev
      snap := t.snap
      noteMark := t.noteMark
      tsave := none
      pc := sl.tepc
      between := false
      justRegion := false
      unfin := if sl.tepc = t.wordAt then t.replay else none }
  | none => { sl with priv := sl.ppriv, pc := sl.tepc, between := true, justRegion := false, unfin := none }

/-- OP8 of the word at which a gang stands, or 0 when it has none: a narrow word, or none that is fetched (22 R453). -/
def Gang.op8 (g : Gang) : Nat :=
  match g.buf.head? with
  | some f => if f.addr == g.pc && isWide f.parcel then (f.parcel.extractLsb' 22 8).toNat else 0
  | none => 0

/-- Trap entry of a gang with no outstanding result: every slice in the same cycle, the fetch buffer discarded; when a
slice cannot take it, a context fault (R224, R225). -/
def State.enterTrap (s : State) (g : Gang) (t : Trap) : State :=
  match g.slices.find? Slice.doubleTrap with
  | some sl =>
    let f : CtxFault := { part := g.part, ctx := g.ctx, cause := t.cause, tepc := sl.pc, tval := t.val, core := g.core, op8 := g.op8 }
    { s with cur := some { g with park := .dead }, ctxFaults := s.ctxFaults ++ [f] }
  | none => s.setCur { g.mapSlices (·.enterTrap t) with park := .none, buf := [] }

/-- The crew of a gang, when it runs with barrier-interval rollback (21 R434). -/
def State.rbCrew (s : State) (g : Gang) : Option (Nat × Crew) :=
  match g.crew with
  | none => none
  | some k =>
    match Map.find? s.crews k with
    | some c => if c.rb then some (k, c) else none
    | none => none

/-- Deliver a trap to the present gang: at once when nothing is outstanding, else when the last result has returned
(R222). -/
def State.deliver (s : State) (g : Gang) (t : Trap) : State :=
  if g.outstanding s.cycle then s.setCur { g with park := .trap t.cause t.val } else s.enterTrap g t

/-- A crew's interval is recoverable, and its twin's too (21 R436, R442). -/
def State.recoverable (s : State) (c : Crew) : Bool :=
  c.recoverable && ((c.partner.bind (Map.find? s.crews)).map Crew.recoverable).getD true

/-- A crew's interval has been rolled back, or its twin's. -/
def State.rolledBack (s : State) (c : Crew) : Bool :=
  c.rolled || ((c.partner.bind (Map.find? s.crews)).map Crew.rolled).getD false

/-- A crew waits for its rollback, or its twin does. -/
def State.rollingBack (s : State) (k : Nat) (c : Crew) : Bool := s.rollbacks.any fun r => r.1 == k || some r.1 == c.partner

/-- Raise a context fault with the present gang's word; the gang goes no further (10 R225). -/
def State.contextError (s : State) (g : Gang) (cause : BitVec 8) (val : Word64) : State :=
  let f : CtxFault := { part := g.part, ctx := g.ctx, cause := cause, tepc := g.pc, tval := val, core := g.core, op8 := g.op8 }
  { s with cur := some { g with park := .dead }, ctxFaults := s.ctxFaults ++ [f] }

/-- Ask for the rollback of a crew, once; the gang goes no further. -/
def State.askRollback (s : State) (g : Gang) (k : Nat) (c : Crew) (mismatch : Bool) : State :=
  { s with cur := some { g with park := .dead }, rollbacks := if s.rollingBack k c then s.rollbacks else s.rollbacks ++ [(k, mismatch)] }

/-- CAUSE of a fault record for a second consumption in an interval, an unrecoverable twin mismatch and a poisoned frame (22
R453). -/
def Cause.secondConsumption : BitVec 8 := 0x20
def Cause.twinMismatch : BitVec 8 := 0x21
def Cause.poisonedFrame : BitVec 8 := 0x22

/-- Raise a trap. A consumption of poison in a recoverable interval of an RB crew rolls the crew back instead, and a second
one in an interval already rolled back is a context error (21 R438). -/
def State.raise (s : State) (g : Gang) (t : Trap) : State :=
  if t.cause = Cause.poisonUse then
    match s.rbCrew g with
    | some (k, c) =>
      if !s.recoverable c then s.deliver g t
      else if s.rolledBack c then s.contextError g Cause.secondConsumption t.val
      else s.askRollback g k c false
    | none => s.deliver g t
  else s.deliver g t

/-- A trap is a step like another: the state after the word. -/
def State.trapped (s : State) (g : Gang) (t : Trap) : State := { s.raise g t with free := s.free + 1 }

end Sys2Proof.Machine
end

