-- ==== Sys2Proof/Machine/Info.lean ====
section
/-! DEFINITION. Facts of each word that several rules ask of it: privileged forms (03 R63, 05 R118), region-ending words
(05 R110), the registers it writes (05 R112) and reads (05 R116), the waits of 05 R117, and slot occupancy (08 R186). -/

namespace Sys2Proof.Machine

/-- CSR number of CSRR and CSRW. -/
def csrOf (o : FormNI) : Nat := (o.imm.extractLsb' 0 12).toNat

/-- A form marked P (03 R63, R64; 05 R118): order 3 of R70. -/
def privileged : Instr → Bool
  | .eret _ | .ldx _ | .stx _ | .segw _ | .tlbi _ => true
  | .csrr o => decide (8 ≤ csrOf o) && decide (csrOf o ≤ 11)
  | .csrw o => (decide (8 ≤ csrOf o) && decide (csrOf o ≤ 11)) || csrOf o == 4
  | _ => false

/-- Register block: `k` codes from `r`. -/
def sblock (r : SReg) (k : Nat) : List SReg := (List.range k).map fun i => r + BitVec.ofNat 5 i

/-- Lane register block. -/
def vblock (v : VReg) (k : Nat) : List VReg := (List.range k).map fun i => v + BitVec.ofNat 6 i

/-- Types held in register pairs: i64 and n64. -/
def isPair (t : BitVec 4) : Bool := t == 6 || t == 7

/-- Registers of a lane operand of type `t`. -/
def vop (t : BitVec 4) (v : VReg) : List VReg := vblock v (if isPair t then 2 else 1)

/-- The scalar destination fields of a word. -/
def destS : Instr → List SReg
  | .chkerr o => [o.imm.extractLsb' 0 5]
  | .add o | .sub o | .mul o | .mulh o | .mulhn o | .div o | .divn o | .rem o | .remn o | .and o | .or o | .xor o
  | .andn o | .shl o | .shr o | .sar o | .rol o | .min o | .minn o | .max o | .maxn o | .slt o | .sltn o | .seq o
  | .clz o | .ctz o | .popc o | .brev o | .sext o | .zext o | .lea _ o => [o.sd]
  | .addi o | .andi o | .ori o | .xori o | .slti o | .shi o => [o.sd]
  | .li o | .lsh o | .addpc o => [o.sd]
  | .bext o | .bins o => [o.sd]
  | .bextv o | .binsv o => [o.sd]
  | .ld o => [o.sd]
  | .ldx o => [o.sd]
  | .amo o | .cellrd o => [o.sd]
  | .csrr o | .csrw o => [o.sd]
  | .smov o | .vballot o | .vvote o | .mpopc o | .mffs o | .mrpr o | .mstat o => [o.ss]
  | .gseal o | .gopen o => [o.aux.extractLsb' 0 5]
  | .ccancel o | .cseq o => [o.ss + 1]
  | _ => []

/-- The lane destinations of a word. -/
def destV : Instr → List VReg
  | .vadd o | .vsub o | .vmul o | .vmulh o | .vmad o | .vand o | .vor o | .vxor o | .vandn o | .vshl o | .vshr o
  | .vsar o | .vmin o | .vmax o | .vabsd o | .vclz o | .vpopc o | .vbrev o | .vbext o | .vbins o | .vsel o | .vsat o
  | .vcvti o | .vaddc o | .vdot4i o | .vmovi o | .vlane o | .vfadd o | .vfsub o | .vfmul o | .vfma o | .vfmin o
  | .vfmax o | .vfcls o | .vfrcp o | .vfrsq o | .vfsqrt o | .vfexp2 o | .vflog2 o | .vfsin o | .vfcos o | .vftanh o
  | .vfdiv o | .vfrnd o | .vcvtf o | .vcvtfi o | .vcvtif o | .vpack2 o | .vpack4 o | .vfdot2 o | .vfdot4 o | .vperm o
  | .vshfl o | .vbcast o | .vreduce o | .vscan o | .vld o | .vldb o | .vatom o | .vldc o => vop o.t o.vd
  | .vunpk o => vblock o.vd (elemsOf o.t.toNat)
  | .rtrace o | .rcand o => vblock o.vd 5
  | .rhit o => vblock o.vd 3
  | .rmarch o => if o.aux.getLsbD 5 then [] else vblock o.vd 2
  | .rtex o | .grw o => vblock o.vd 4
  | .gapp o | .gread o | .ghold o | .gdrop o => vblock o.vd 2
  | .gconn o | .gmerge o => vblock o.vd 3
  | .gret o => [o.vd]
  | _ => []

/-- A scalar destination that is written only when act(pm) holds a lane (05 R112): SMOV, VBALLOT, VVOTE. -/
def destByLanes : Instr → Bool
  | .smov _ | .vballot _ | .vvote _ => true
  | _ => false

/-- A destination field that names g1 to g7 (05 R110). -/
def writesGlobal (i : Instr) : Bool := (destS i).any fun r => decide (1 ≤ r.toNat) && decide (r.toNat ≤ 7)

/-- The region-ending words of 05 R110, stores to a HOME page apart, which the store itself finds. -/
def regionEnding (i : Instr) : Bool :=
  writesGlobal i ||
  match i with
  | .amo _ | .vatom _ | .spawn _ | .spawnv _ | .await _ | .signal _ | .emit _ | .trigger _ | .barInit _ | .barArrive _
  | .barWait _ | .barSync _ | .regang _ | .call _ | .callr _ | .ret _ | .vexit _ | .csrw _ | .segw _ | .cpy _ | .cpy2 _
  | .cpyg _ | .feset _ | .mwld _ | .mtile _ | .mq _ | .mchain _ | .rtrace _ | .rcand _ | .rverd _ | .rhit _ | .rmarch _
  | .rtex _ | .gapp _ | .gconn _ | .gmerge _ | .grw _ | .gret _ | .gseal _ | .gopen _ | .gread _ | .ghold _ | .gdrop _
  | .coll _ | .ccancel _ | .cseq _ | .fput _ | .fget _ => true
  | _ => false

/-- Words that wait for every outstanding result of the gang (05 R117); ERET and TRIGGER wait as R223 and 18 R395 say. A
VEXIT that ends a slice waits too, which depends on the lanes and is found by the word. -/
def waitsAll : Instr → Bool
  | .region _ | .await _ | .barWait _ | .barSync _ | .regang _ | .exit _ | .eret _ | .trigger _ => true
  | _ => false

/-- Words that the write-side interlock holds until their own sources are written (05 R116; 06 R121, R133, R144, 11 R249,
18 R393): stores, atomics, CSRW, SEGW, range maintenance, and every word that forks work. -/
def interlocked : Instr → Bool
  | .st _ | .stx _ | .amo _ | .csrw _ | .segw _ | .cwb _ | .cinv _ | .icinv _ | .spawn _ | .emit _ | .signal _
  | .cellinit _ | .resolve _ | .tlbi _ | .vst _ | .vstb _ | .vstf _ | .vatom _ | .spawnv _ | .cpy _ | .cpy2 _ | .cpyg _
  | .feset _ | .mwld _ | .mtile _ | .mq _ | .rtrace _ | .rcand _ | .rverd _ | .rhit _ | .rmarch _ | .rtex _ | .gapp _
  | .gconn _ | .gmerge _ | .grw _ | .gret _ | .gseal _ | .gopen _ | .gread _ | .ghold _ | .gdrop _ | .coll _ | .ccancel _
  | .cseq _ | .fput _ | .fget _ => true
  | _ => false

/-- Words that are the source of an edge: those that fork work, signal, arrive or wait (01 R10 to R19). Before one of them the gang's deferred loads
are performed, so that none reads what happens after the edge (09 R199). -/
def edgeWord : Instr → Bool
  | .cwb _ | .cinv _ | .icinv _ | .st _ | .stx _ | .amo _ | .csrw _ | .segw _ | .tlbi _ | .vst _ | .vstb _ | .vstf _ | .vatom _ => false
  | .trigger _ | .barArrive _ | .barWait _ | .barSync _ | .await _ | .regang _ | .exit _ | .vexit _ => true
  | i => interlocked i

/-- The scalar sources of the interlocked words. -/
def srcS : Instr → List SReg
  | .st o => [o.sd, o.sa]
  | .stx o => [o.sd, o.sa]
  | .amo o => if o.fn.extractLsb' 0 4 == 9 then [o.sd, o.sa, o.sb] else [o.sa, o.sb]
  | .csrw o => [o.sa]
  | .segw o | .tlbi o => [o.sa]
  | .cwb o | .cinv o | .icinv o | .emit o | .signal o | .cellinit o => [o.sa, o.sb]
  | .resolve o => [o.imm.extractLsb' 4 5]
  | .spawn o => sblock o.sa 4
  | .vst o | .vstb o | .vstf o | .vatom o | .rcand o | .rverd o | .rhit o | .rtex o | .gapp o | .gmerge o | .gread o
  | .gseal o => [o.ss]
  | .mtile o | .mq o => [o.ss]
  | .spawnv o => sblock o.ss 3
  | .cpy o | .gopen o => sblock o.ss 4
  | .cpy2 o | .cpyg o | .mwld o | .coll o | .fput o => sblock o.ss 6
  | .feset o => sblock o.ss 3
  | .rtrace o => sblock o.ss 2
  | .rmarch o | .fget o => sblock o.ss 5
  | .ccancel o | .cseq o => [o.ss]
  | _ => []

/-- The lane sources of the interlocked words. -/
def srcV : Instr → List VReg
  | .vst o => o.va :: vop o.t o.vd
  | .vstb o | .vstf o => vop o.t o.vd
  | .vatom o => o.va :: (vop o.t o.vb ++ if o.fn.extractLsb' 0 4 == 9 then vop o.t o.vc else [])
  | .spawnv o => [o.va]
  | .rtrace o | .rmarch o => vblock o.va 3 ++ vblock o.vb 3 ++ vblock o.vc 2
  | .rverd o => [o.va, o.vb, o.vc]
  | .rtex o => vblock o.va 2 ++ vblock o.vb 2 ++ vblock o.vc 2
  | .gapp o | .gret o | .ghold o | .gdrop o => [o.va]
  | .gconn o => [o.va, o.vb] ++ vblock o.vc (if o.fn.getLsbD 0 then 2 else 6)
  | .gmerge o => [o.va, o.vb, o.vb + 1, o.vc]
  | .grw o | .gread o => [o.va, o.vb]
  | _ => []

/-- The predicate field of a wide word, 0 for a narrow one. -/
def pmOf (i : Instr) : Pm :=
  match i.wide? with
  | some (_, o) => match i with
    | .livev _ => 0
    | _ => o.pm
  | none => 0

/-- An outstanding write to a target. -/
def Slice.awaits (now : Nat) (sl : Slice) (t : Target) : Bool := sl.pending.any fun p => p.live now && p.targ == t

/-- A source of the word is still to be written in this slice (05 R116): a register, or the mask register that pm names. -/
def Slice.interlockHeld (now lregs : Nat) (sl : Slice) (i : Instr) : Bool :=
  interlocked i &&
    ((srcS i).any (fun r => sl.awaits now (.scalar (sl.scalKey r))) ||
     (srcV i).any (fun v => (List.range 4).any fun k => sl.awaits now (.lane (sl.laneRing lregs v) k)) ||
     (List.range 4).any fun k => sl.awaits now (.mask ((pmOf i).extractLsb' 0 3).toNat k))

/-- The write-side interlock holds the gang's word. -/
def Gang.interlockHeld (now : Nat) (g : Gang) (i : Instr) : Bool := g.slices.any fun sl => sl.interlockHeld now g.lregs i

/-- A word writes a live-in of the slice's region (05 R112): a scalar register that MASK names, a lane register that LIVEV
names, or one of g1 to g7. -/
def Slice.writesLiveIn (sl : Slice) (i : Instr) (anyLane : Bool) : Bool :=
  (((destS i).any fun r => (decide (8 ≤ r.toNat) && sl.lives.getLsbD (r.toNat - 8)) ||
      (decide (1 ≤ r.toNat) && decide (r.toNat < 8))) && (anyLane || !destByLanes i)) ||
  ((destV i).any (fun v => sl.livev.getLsbD v.toNat) && anyLane)

/-- Cycles that a word occupies its quadrant's slot (08 R186). -/
def occupancy (i : Instr) (slices : Nat) : Nat :=
  match i with
  | .vfrcp _ | .vfrsq _ | .vfsqrt _ | .vfexp2 _ | .vflog2 _ | .vfsin _ | .vfcos _ | .vftanh _ => max 1 ((slices + 1) / 2)
  | _ => 1

end Sys2Proof.Machine
end

