-- ==== Sys2Proof/Machine/Run.lean ====
section
/-! DEFINITION. How every word of a gang runs: the checks and waits that come before its effect (03 R70 orders 3 and 4; 05
R111, R112, R116, R117), then its effect over the slices (06 R121) or the active lanes (07 R149), precise traps, and the
move of the pc. -/

namespace Sys2Proof.Machine

/-- One step's outcome. -/
abbrev Out := Host.Outcome State Fault Refusal

/-- What stands before a word's effect. -/
inductive Gate where
  | go
  /-- The word has issued and waits for every outstanding result (05 R117). -/
  | wait
  /-- The word does not issue (05 R116). -/
  | hold
  | trap (t : Trap)
  deriving DecidableEq, Repr

/-- The first parcel of a word, TVAL of the decode and region traps (03 R70, 10 R221). -/
def firstParcel (i : Instr) : Word64 := ((encode i).headD 0).setWidth 64

/-- REGION, which alone may follow a region-ending word (05 R111). -/
def isRegion : Instr → Bool
  | .region _ => true
  | _ => false

/-- LIVEV, which must follow REGION (07 R184). -/
def isLivev : Instr → Bool
  | .livev _ => true
  | _ => false

/-- act(pm) of the gang holds a lane. -/
def Gang.anyActive (g : Gang) (c : RCtx) (pm : Pm) : Bool := g.slices.any fun sl => sl.act c pm != 0

/-- The checks and waits before a word's effect, in order. -/
def gate (i : Instr) (s : State) (g : Gang) : Gate :=
  if privileged i && g.user then .trap ⟨Cause.privilege, firstParcel i⟩
  else if isLivev i && g.slices.any (fun sl => !sl.justRegion) then .trap ⟨Cause.regionViolation, firstParcel i⟩
  else if !isRegion i && g.slices.any (fun sl => sl.between) then .trap ⟨Cause.regionViolation, firstParcel i⟩
  else if waitsAll i && g.outstanding s.cycle then .wait
  else if g.interlockHeld s.cycle i then .hold
  else if !regionEnding i && g.slices.any (fun sl => sl.writesLiveIn i (g.anyActive (s.rctx g) (pmOf i))) then
    .trap ⟨Cause.regionViolation, firstParcel i⟩
  else .go

/-- Run a word of the gang checked out for issue; with none, nothing issues. -/
def runWord (i : Instr) (s : State) (body : Gang → State → Out) : Out :=
  match s.cur with
  | none => .next s
  | some g =>
    match gate i s g with
    | .go => body g s
    | .wait => .next (s.setCur { g with park := .settle, waiting := true })
    | .hold => .next s
    | .trap t => .next (s.trapped g t)

/-! ## Narrow words -/

/-- Read access to a slice's scalar registers for one word. -/
abbrev ReadS := SReg → SVal

/-- A word that writes one scalar register in every slice, and moves on. -/
def scalarWord (i : Instr) (s : State) (lat : Lat) (d : SReg) (f : ReadS → Slice → SVal) : Out :=
  runWord i s fun g s =>
    let c := s.rctx g
    .next (s.wordDone (g.mapSlices fun sl =>
      (sl.writeS c lat d (f (sl.readS c) sl)).advance (wordBytes i) (regionEnding i)))

/-- The first register of a list whose tag is set: POISON_USE with its field code (06 R122). -/
def poisonTrap (rd : ReadS) (rs : List SReg) : Option Trap :=
  (rs.find? fun r => (rd r).tag).map fun r => ⟨Cause.poisonUse, r.setWidth 64⟩

/-- A check in every slice, in position order: the first trap. -/
def Gang.firstTrap (g : Gang) (f : Slice → Option Trap) : Option Trap := g.slices.findSome? f

/-- A word whose slices act on themselves alone, after a check that may trap precisely for the whole gang (06 R121). -/
def sliceWord (i : Instr) (s : State) (check : RCtx → Slice → Option Trap) (f : RCtx → Slice → Slice) : Out :=
  runWord i s fun g s =>
    let c := s.rctx g
    match g.firstTrap (check c) with
    | some t => .next (s.trapped g t)
    | none => .next (s.wordDone (g.mapSlices fun sl => (f c sl).advance (wordBytes i) (regionEnding i)))

/-! ## Wide lane words -/

/-- The lane index of lane `k` of a slice (05 R92). -/
def Slice.laneIx (sl : Slice) (k : Nat) : Nat := 4 * sl.pos + k

/-- A word over the active lanes of every slice (07 R149): sources are read from the slice as it stood, `f` adds the
effect of one lane. -/
def laneWord (i : Instr) (s : State) (f : RCtx → Slice → Nat → Slice → Slice) : Out :=
  runWord i s fun g s =>
    let c := s.rctx g
    .next (s.wordDone (g.mapSlices fun sl =>
      ((lanesOf (sl.act c (pmOf i))).foldl (fun acc k => f c sl k acc) sl).advance (wordBytes i) (regionEnding i)))

/-- The lowest active lane whose tags raise POISON_USE, TVAL its index (07 R151). -/
def Gang.lanePoison (g : Gang) (c : RCtx) (pm : Pm) (tagged : Slice → Nat → Bool) : Option Trap :=
  g.firstTrap fun sl =>
    ((lanesOf (sl.act c pm)).find? (tagged sl)).map fun k => ⟨Cause.poisonUse, BitVec.ofNat 64 (sl.laneIx k)⟩

/-- A lane word that some lane's tags may trap. -/
def laneWordP (i : Instr) (s : State) (tagged : RCtx → Slice → Nat → Bool) (f : RCtx → Slice → Nat → Slice → Slice) :
    Out :=
  runWord i s fun g s =>
    let c := s.rctx g
    match g.lanePoison c (pmOf i) (tagged c) with
    | some t => .next (s.trapped g t)
    | none =>
      .next (s.wordDone (g.mapSlices fun sl =>
        ((lanesOf (sl.act c (pmOf i))).foldl (fun acc k => f c sl k acc) sl).advance (wordBytes i) (regionEnding i)))

/-- A lane word that may produce NaNs (04 R76): `f` adds a lane's effect and says whether it produced one. With NANTRAP
the word traps with the mask of the lanes that did, and nothing is written. A lane counts by its own slice's NANTRAP (log 80, DESIGN CHOICE). -/
def laneWordN (i : Instr) (s : State) (f : RCtx → Slice → Nat → Slice → Slice × Bool) : Out :=
  runWord i s fun g s =>
    let c := s.rctx g
    let run := fun (sl : Slice) =>
      (lanesOf (sl.act c (pmOf i))).foldl
        (fun (p : Slice × Nat) k =>
          let r := f c sl k p.1
          (r.1, if r.2 && sl.nantrap then p.2 + 2 ^ sl.laneIx k else p.2)) (sl, 0)
    let done := g.slices.map run
    let nan := (done.map Prod.snd).sum
    if nan ≠ 0 then .next (s.trapped g ⟨Cause.nanProduced, BitVec.ofNat 64 nan⟩)
    else
      .next (s.wordDone { g with slices := done.map fun p => p.1.advance (wordBytes i) (regionEnding i) })

end Sys2Proof.Machine
end

