-- ==== Sys2Proof/Machine/Scalar.lean ====
section
/-! DEFINITION. Scalar arithmetic, immediates, constants and bit fields (06 R123 to R127): the value of each operation on
n bits, and one meaning for each word. -/

namespace Sys2Proof.Machine

/-! ## Operations on n bits -/

/-- Signed and unsigned readings of an operand (02 R46). -/
def sread {n : Nat} (x : BitVec n) : Int := x.toInt
def uread {n : Nat} (x : BitVec n) : Int := x.toNat

/-- The low n bits of an exact integer. -/
def low (n : Nat) (x : Int) : BitVec n := BitVec.ofInt n x

/-- sh = zext(b, 6) mod n (06 R123). -/
def shiftAmount {n : Nat} (b : BitVec n) : Nat := b.toNat % 64 % n

/-- Bits 2n−1 to n of an exact product. -/
def highHalf (n : Nat) (x : Int) : BitVec n := low n (x / 2 ^ n)

/-- Signed division truncated toward zero; all ones for a zero divisor, and the wrap of −2^(n−1) / −1 (06 R124). -/
def divS {n : Nat} (a b : BitVec n) : BitVec n := if b = 0 then BitVec.allOnes n else low n (Int.tdiv a.toInt b.toInt)

/-- Unsigned division; all ones for a zero divisor. -/
def divU {n : Nat} (a b : BitVec n) : BitVec n :=
  if b = 0 then BitVec.allOnes n else BitVec.ofNat n (a.toNat / b.toNat)

/-- Remainders: the dividend for a zero divisor; otherwise a − b × (a / b). -/
def remS {n : Nat} (a b : BitVec n) : BitVec n := if b = 0 then a else low n (Int.tmod a.toInt b.toInt)
def remU {n : Nat} (a b : BitVec n) : BitVec n := if b = 0 then a else BitVec.ofNat n (a.toNat % b.toNat)

/-- The truth of a comparison as 1 or 0. -/
def ofTruth {n : Nat} (b : Bool) : BitVec n := if b then 1 else 0

/-- Leading zero bits of the low `m` bits; `m` when all are zero. -/
def leadingZeros {n : Nat} (x : BitVec n) : Nat → Nat
  | 0 => 0
  | m + 1 => if x.getLsbD m then 0 else 1 + leadingZeros x m

/-- Trailing zero bits counted from bit `n − m`. -/
def trailingZeros {n : Nat} (x : BitVec n) : Nat → Nat
  | 0 => 0
  | m + 1 => if x.getLsbD (n - (m + 1)) then 0 else 1 + trailingZeros x m

/-- One bits among the low `m` bits. -/
def oneBits {n : Nat} (x : BitVec n) : Nat → Nat
  | 0 => 0
  | m + 1 => (if x.getLsbD m then 1 else 0) + oneBits x m

/-- Bit i moved to bit n − 1 − i. -/
def bitReverse {n : Nat} (x : BitVec n) : BitVec n := x.reverse

/-- SEXT and ZEXT of n bits with width w = zext(b, 6) (06 R123). -/
def signExtendFrom {n : Nat} (a : BitVec n) (w : Nat) : BitVec n :=
  if w = 0 then 0 else if n ≤ w then a else (a <<< (n - w)).sshiftRight (n - w)
def zeroExtendFrom {n : Nat} (a : BitVec n) (w : Nat) : BitVec n :=
  if w = 0 then 0 else if n ≤ w then a else (a <<< (n - w)) >>> (n - w)

/-- A field of width w at position p, w cut to what is left of the n bits (06 R127, 07 R159). -/
def fieldExtract {n : Nat} (a : BitVec n) (p w : Nat) : BitVec n :=
  let w := min w (n - p)
  if w = 0 then 0 else (a >>> p) &&& (BitVec.allOnes n >>> (n - w))
def fieldInsert {n : Nat} (d a : BitVec n) (p w : Nat) : BitVec n :=
  let w := min w (n - p)
  if w = 0 then d
  else
    let m := BitVec.allOnes n >>> (n - w)
    (d &&& ~~~(m <<< p)) ||| ((a &&& m) <<< p)

/-- The binary operations of the ALU group on n bits (06 R123). -/
inductive AluOp where
  | add | sub | mul | mulh | mulhn | div | divn | rem | remn | and | or | xor | andn | shl | shr | sar | rol
  | min | minn | max | maxn | slt | sltn | seq | clz | ctz | popc | brev | sext | zext | lea (k : BitVec 2)
  deriving DecidableEq, Repr

/-- The result of an ALU operation, low n bits kept (06 R123). -/
def AluOp.eval (op : AluOp) {n : Nat} (a b : BitVec n) : BitVec n :=
  match op with
  | .add => a + b
  | .sub => a - b
  | .mul => a * b
  | .mulh => highHalf n (sread a * sread b)
  | .mulhn => highHalf n (uread a * uread b)
  | .div => divS a b
  | .divn => divU a b
  | .rem => remS a b
  | .remn => remU a b
  | .and => a &&& b
  | .or => a ||| b
  | .xor => a ^^^ b
  | .andn => a &&& ~~~b
  | .shl => a <<< shiftAmount b
  | .shr => a >>> shiftAmount b
  | .sar => a.sshiftRight (shiftAmount b)
  | .rol => a.rotateLeft (shiftAmount b)
  | .min => if a.slt b then a else b
  | .minn => if a.ult b then a else b
  | .max => if a.slt b then b else a
  | .maxn => if a.ult b then b else a
  | .slt => ofTruth (a.slt b)
  | .sltn => ofTruth (a.ult b)
  | .seq => ofTruth (a == b)
  | .clz => BitVec.ofNat n (leadingZeros a n)
  | .ctz => BitVec.ofNat n (trailingZeros a n)
  | .popc => BitVec.ofNat n (oneBits a n)
  | .brev => bitReverse a
  | .sext => signExtendFrom a (b.toNat % 64)
  | .zext => zeroExtendFrom a (b.toNat % 64)
  | .lea k => a + (b <<< k.toNat)

/-- With W the low 32 bits of each source are the operands and the result is sign-extended (06 R123). -/
def AluOp.eval64 (op : AluOp) (w : Bool) (a b : Word64) : Word64 :=
  if w then (op.eval (a.setWidth 32) (b.setWidth 32)).signExtend 64 else op.eval a b

/-- One-source operations: their tag is the tag of SA alone (06 R123). -/
def AluOp.unary : AluOp → Bool
  | .clz | .ctz | .popc | .brev => true
  | _ => false

/-- Result latencies of the ALU group (08 R189). -/
def AluOp.lat : AluOp → Lat
  | .mul | .mulh | .mulhn => .fixed 3
  | .div | .divn | .rem | .remn => .fixed 24
  | _ => .fixed 1

/-- An ALU word: the value and the OR of the sources' tags (06 R122, R123). -/
def aluWord (i : Instr) (op : AluOp) (o : FormNA) (s : State) : Out :=
  scalarWord i s op.lat o.sd fun rd _ =>
    let a := rd o.sa
    let b := rd o.sb
    ⟨op.eval64 o.w a.v b.v, a.tag || (!op.unary && b.tag)⟩

/-- An immediate word: 64 bits, sext(imm14) (06 R125). -/
def immWord (i : Instr) (op : AluOp) (o : FormNI) (s : State) : Out :=
  scalarWord i s (.fixed 1) o.sd fun rd _ =>
    let a := rd o.sa
    ⟨op.eval a.v (o.imm.signExtend 64), a.tag⟩

/-! ## One meaning for each word -/

def execAdd (o : FormNA) (s : State) : Out := aluWord (.add o) .add o s
def execSub (o : FormNA) (s : State) : Out := aluWord (.sub o) .sub o s
def execMul (o : FormNA) (s : State) : Out := aluWord (.mul o) .mul o s
def execMulh (o : FormNA) (s : State) : Out := aluWord (.mulh o) .mulh o s
def execMulhn (o : FormNA) (s : State) : Out := aluWord (.mulhn o) .mulhn o s
def execDiv (o : FormNA) (s : State) : Out := aluWord (.div o) .div o s
def execDivn (o : FormNA) (s : State) : Out := aluWord (.divn o) .divn o s
def execRem (o : FormNA) (s : State) : Out := aluWord (.rem o) .rem o s
def execRemn (o : FormNA) (s : State) : Out := aluWord (.remn o) .remn o s
def execAnd (o : FormNA) (s : State) : Out := aluWord (.and o) .and o s
def execOr (o : FormNA) (s : State) : Out := aluWord (.or o) .or o s
def execXor (o : FormNA) (s : State) : Out := aluWord (.xor o) .xor o s
def execAndn (o : FormNA) (s : State) : Out := aluWord (.andn o) .andn o s
def execShl (o : FormNA) (s : State) : Out := aluWord (.shl o) .shl o s
def execShr (o : FormNA) (s : State) : Out := aluWord (.shr o) .shr o s
def execSar (o : FormNA) (s : State) : Out := aluWord (.sar o) .sar o s
def execRol (o : FormNA) (s : State) : Out := aluWord (.rol o) .rol o s
def execMin (o : FormNA) (s : State) : Out := aluWord (.min o) .min o s
def execMinn (o : FormNA) (s : State) : Out := aluWord (.minn o) .minn o s
def execMax (o : FormNA) (s : State) : Out := aluWord (.max o) .max o s
def execMaxn (o : FormNA) (s : State) : Out := aluWord (.maxn o) .maxn o s
def execSlt (o : FormNA) (s : State) : Out := aluWord (.slt o) .slt o s
def execSltn (o : FormNA) (s : State) : Out := aluWord (.sltn o) .sltn o s
def execSeq (o : FormNA) (s : State) : Out := aluWord (.seq o) .seq o s
def execClz (o : FormNA) (s : State) : Out := aluWord (.clz o) .clz o s
def execCtz (o : FormNA) (s : State) : Out := aluWord (.ctz o) .ctz o s
def execPopc (o : FormNA) (s : State) : Out := aluWord (.popc o) .popc o s
def execBrev (o : FormNA) (s : State) : Out := aluWord (.brev o) .brev o s
def execSext (o : FormNA) (s : State) : Out := aluWord (.sext o) .sext o s
def execZext (o : FormNA) (s : State) : Out := aluWord (.zext o) .zext o s
def execLea (k : BitVec 2) (o : FormNA) (s : State) : Out := aluWord (.lea k o) (.lea k) o s

def execAddi (o : FormNI) (s : State) : Out := immWord (.addi o) .add o s
def execAndi (o : FormNI) (s : State) : Out := immWord (.andi o) .and o s
def execOri (o : FormNI) (s : State) : Out := immWord (.ori o) .or o s
def execXori (o : FormNI) (s : State) : Out := immWord (.xori o) .xor o s
def execSlti (o : FormNI) (s : State) : Out := immWord (.slti o) .slt o s

/-- The kind field of SHI (03 R53). -/
def shiOp (k : BitVec 2) : AluOp :=
  match k.toNat with
  | 0 => .shl
  | 1 => .shr
  | 2 => .sar
  | _ => .rol

/-- SHI: kind [13:12], W [8], amount [5:0] (03 R53, 06 R125). -/
def execShi (o : FormNI) (s : State) : Out :=
  scalarWord (.shi o) s (.fixed 1) o.sd fun rd _ =>
    let a := rd o.sa
    ⟨(shiOp (o.imm.extractLsb' 12 2)).eval64 (o.imm.getLsbD 8) a.v ((o.imm.extractLsb' 0 6).setWidth 64), a.tag⟩

/-- LI: sext(imm19), tag clear (06 R126). -/
def execLi (o : FormNL) (s : State) : Out :=
  scalarWord (.li o) s (.fixed 1) o.sd fun _ _ => ⟨o.imm.signExtend 64, false⟩

/-- LSH: (SD << 16) OR imm16, tag of SD kept (06 R126). -/
def execLsh (o : FormNL) (s : State) : Out :=
  scalarWord (.lsh o) s (.fixed 1) o.sd fun rd _ =>
    let d := rd o.sd
    ⟨(d.v <<< 16) ||| (o.imm.extractLsb' 0 16).setWidth 64, d.tag⟩

/-- ADDPC: PC + sext(imm19) in bytes, tag clear (06 R126). -/
def execAddpc (o : FormNL) (s : State) : Out :=
  scalarWord (.addpc o) s (.fixed 1) o.sd fun _ sl => ⟨sl.pc + o.imm.signExtend 64, false⟩

/-- BEXT (06 R127). -/
def execBext (o : FormNF) (s : State) : Out :=
  scalarWord (.bext o) s (.fixed 1) o.sd fun rd _ =>
    let a := rd o.sa
    ⟨fieldExtract a.v o.pos.toNat o.wid.toNat, a.tag⟩

/-- BINS, which also reads SD (06 R127). -/
def execBins (o : FormNF) (s : State) : Out :=
  scalarWord (.bins o) s (.fixed 1) o.sd fun rd _ =>
    let a := rd o.sa
    let d := rd o.sd
    ⟨fieldInsert d.v a.v o.pos.toNat o.wid.toNat, a.tag || d.tag⟩

/-- Position and width that BEXTV and BINSV take from SB (06 R127). -/
def fieldPos (b : Word64) : Nat := (b.extractLsb' 0 6).toNat
def fieldWid (b : Word64) : Nat := (b.extractLsb' 8 6).toNat

/-- BEXTV (06 R127). -/
def execBextv (o : FormNR) (s : State) : Out :=
  scalarWord (.bextv o) s (.fixed 1) o.sd fun rd _ =>
    let a := rd o.sa
    let b := rd o.sb
    ⟨fieldExtract a.v (fieldPos b.v) (fieldWid b.v), a.tag || b.tag⟩

/-- BINSV (06 R127). -/
def execBinsv (o : FormNR) (s : State) : Out :=
  scalarWord (.binsv o) s (.fixed 1) o.sd fun rd _ =>
    let a := rd o.sa
    let b := rd o.sb
    let d := rd o.sd
    ⟨fieldInsert d.v a.v (fieldPos b.v) (fieldWid b.v), a.tag || b.tag || d.tag⟩

end Sys2Proof.Machine
end

