-- ==== Sys2Proof/Machine/LaneInt.lean ====
section
/-! DEFINITION. Lane integer arithmetic, comparisons, selection, width changes, bit fields and moves between immediates,
scalars and lanes (07 R153 to R160). -/

namespace Sys2Proof.Machine

/-! ## Typed lane elements -/

/-- A lane's operand of type `t`: a 64-bit pair for i64 and n64, else the register's element (04 R71). -/
def Slice.readT (sl : Slice) (c : RCtx) (t : BitVec 4) (v : VReg) (k : Nat) : SVal :=
  if isPair t then sl.readPair c v k
  else
    let x := sl.readV c v k
    ⟨x.v.setWidth 64, x.tag⟩

/-- Write a lane's result of type `t`. -/
def Slice.writeT (sl : Slice) (c : RCtx) (lat : Lat) (t : BitVec 4) (v : VReg) (k : Nat) (x : SVal) : Slice :=
  if isPair t then sl.writePair c lat v k x else sl.writeV c lat v k ⟨x.v.setWidth 32, x.tag⟩

/-- An operation of type `t` on n = 32 or 64 bits. -/
def AluOp.evalT (op : AluOp) (t : BitVec 4) (a b : Word64) : Word64 :=
  if isPair t then op.eval a b else (op.eval (a.setWidth 32 : Word32) (b.setWidth 32)).setWidth 64

/-- Signed integer types: i32, i16, i8, i64 (03 R61). -/
def isSigned (t : BitVec 4) : Bool := !t.getLsbD 0

/-- Bits of an integer type (03 R61). -/
def intBits (t : Nat) : Nat := if t < 2 then 32 else if t < 4 then 16 else if t < 6 then 8 else 64

/-- A value as an integer of type `t`, read from its low bits by the type's signedness. -/
def intOf (t : Nat) (x : Word64) : Int :=
  let y := x.extractLsb' 0 (intBits t)
  if t % 2 = 0 then y.toInt else y.toNat

/-- The smallest and largest value of an integer type. -/
def intMin (t : Nat) : Int := if t % 2 = 0 then -(2 ^ (intBits t - 1)) else 0
def intMax (t : Nat) : Int := if t % 2 = 0 then 2 ^ (intBits t - 1) - 1 else 2 ^ intBits t - 1

/-- x clamped to a type's range. -/
def clampInt (t : Nat) (x : Int) : Int := max (intMin t) (min (intMax t) x)

/-- The register form of an integer of type `t`: its low bits, extended to 32 bits for a narrow type. -/
def intReg (t : Nat) (x : Int) : Word64 :=
  let y := BitVec.ofInt (intBits t) x
  if t % 2 = 0 then y.signExtend 64 else y.setWidth 64

/-! ## Arithmetic (R153) -/

/-- The lane integer latency (08 R189). -/
def latInt : Lat := .fixed 2

/-- A lane word of two sources and one operation. -/
def laneAlu (i : Instr) (o : Wide) (op : AluOp) (s : State) : Out :=
  laneWord i s fun c sl k acc =>
    let a := sl.readT c o.t o.va k
    let b := sl.readT c o.t o.vb k
    acc.writeT c latInt o.t o.vd k ⟨op.evalT o.t a.v b.v, a.tag || (!op.unary && b.tag)⟩

/-- The signed or unsigned form of an operation, by the type. -/
def byType (t : BitVec 4) (signed unsigned : AluOp) : AluOp := if isSigned t then signed else unsigned

def execVadd (o : Wide) (s : State) : Out := laneAlu (.vadd o) o .add s
def execVsub (o : Wide) (s : State) : Out := laneAlu (.vsub o) o .sub s
def execVmul (o : Wide) (s : State) : Out := laneAlu (.vmul o) o .mul s
def execVmulh (o : Wide) (s : State) : Out := laneAlu (.vmulh o) o (byType o.t .mulh .mulhn) s
def execVand (o : Wide) (s : State) : Out := laneAlu (.vand o) o .and s
def execVor (o : Wide) (s : State) : Out := laneAlu (.vor o) o .or s
def execVxor (o : Wide) (s : State) : Out := laneAlu (.vxor o) o .xor s
def execVandn (o : Wide) (s : State) : Out := laneAlu (.vandn o) o .andn s
def execVshl (o : Wide) (s : State) : Out := laneAlu (.vshl o) o .shl s
def execVshr (o : Wide) (s : State) : Out := laneAlu (.vshr o) o .shr s
def execVsar (o : Wide) (s : State) : Out := laneAlu (.vsar o) o .sar s
def execVmin (o : Wide) (s : State) : Out := laneAlu (.vmin o) o (byType o.t .min .minn) s
def execVmax (o : Wide) (s : State) : Out := laneAlu (.vmax o) o (byType o.t .max .maxn) s
def execVclz (o : Wide) (s : State) : Out := laneAlu (.vclz o) o .clz s
def execVpopc (o : Wide) (s : State) : Out := laneAlu (.vpopc o) o .popc s
def execVbrev (o : Wide) (s : State) : Out := laneAlu (.vbrev o) o .brev s

/-- VMAD: a × b + c. -/
def execVmad (o : Wide) (s : State) : Out :=
  laneWord (.vmad o) s fun c sl k acc =>
    let a := sl.readT c o.t o.va k
    let b := sl.readT c o.t o.vb k
    let d := sl.readT c o.t o.vc k
    acc.writeT c latInt o.t o.vd k ⟨a.v * b.v + d.v, a.tag || b.tag || d.tag⟩

/-- VABSD: |a − b| computed exactly as T. -/
def execVabsd (o : Wide) (s : State) : Out :=
  laneWord (.vabsd o) s fun c sl k acc =>
    let a := sl.readT c o.t o.va k
    let b := sl.readT c o.t o.vb k
    let x := (intOf o.t.toNat a.v - intOf o.t.toNat b.v).natAbs
    acc.writeT c latInt o.t o.vd k ⟨BitVec.ofNat 64 x, a.tag || b.tag⟩

/-! ## Comparison and selection (R154, R155) -/

/-- Conditions EQ, NE, LT, LE, GT, GE as 0 to 5. -/
def intCond (cc : Nat) (a b : Int) : Bool :=
  match cc with
  | 0 => a == b
  | 1 => a != b
  | 2 => decide (a < b)
  | 3 => decide (a ≤ b)
  | 4 => decide (b < a)
  | _ => decide (b ≤ a)

/-- The mask register that aux[2:0] names. -/
def auxMask (o : Wide) : Nat := (o.aux.extractLsb' 0 3).toNat

/-- VCMP: a tagged operand traps (R151). -/
def execVcmp (o : Wide) (s : State) : Out :=
  laneWordP (.vcmp o) s
    (fun c sl k => (sl.readT c o.t o.va k).tag || (sl.readT c o.t o.vb k).tag)
    (fun c sl k acc =>
      acc.writeM c latInt (auxMask o) k
        (intCond o.fn.toNat (intOf o.t.toNat (sl.readT c o.t o.va k).v) (intOf o.t.toNat (sl.readT c o.t o.vb k).v)))

/-- VSEL: the tag comes from the selected source only. -/
def execVsel (o : Wide) (s : State) : Out :=
  laneWord (.vsel o) s fun c sl k acc =>
    let first := sl.readM c (auxMask o) k != o.aux.getLsbD 3
    acc.writeT c latInt o.t o.vd k (sl.readT c o.t (if first then o.va else o.vb) k)

/-! ## Widths (R156) -/

/-- VSAT: va read as i32 or n32, clamped to T's range. -/
def execVsat (o : Wide) (s : State) : Out :=
  laneWord (.vsat o) s fun c sl k acc =>
    let a := sl.readV c o.va k
    let x := intOf (if o.fn.getLsbD 0 then 1 else 0) (a.v.setWidth 64)
    acc.writeV c latInt o.vd k ⟨(intReg o.t.toNat (clampInt o.t.toNat x)).setWidth 32, a.tag⟩

/-- VCVTI. -/
def execVcvti (o : Wide) (s : State) : Out :=
  let src : BitVec 4 := o.fn.extractLsb' 0 4
  laneWord (.vcvti o) s fun c sl k acc =>
    let a := sl.readT c src o.va k
    let x := intOf src.toNat a.v
    let y := if o.fn.getLsbD 4 then clampInt o.t.toNat x else x
    acc.writeT c latInt o.t o.vd k ⟨intReg o.t.toNat y, a.tag⟩

/-! ## Add with carry, byte dot product, bit fields (R157 to R159) -/

/-- VADDC. -/
def execVaddc (o : Wide) (s : State) : Out :=
  laneWord (.vaddc o) s fun c sl k acc =>
    let a := sl.readV c o.va k
    let b := sl.readV c o.vb k
    let sum := a.v.toNat + b.v.toNat + (if sl.readM c (auxMask o) k then 1 else 0)
    (acc.writeV c latInt o.vd k ⟨BitVec.ofNat 32 sum, a.tag || b.tag⟩).writeM c latInt (auxMask o) k (decide (2 ^ 32 ≤ sum))

/-- Byte `j` of an element as an integer of type i8 or n8. -/
def laneByte (signed : Bool) (x : Word32) (j : Nat) : Int :=
  let b := byteOf x j
  if signed then b.toInt else b.toNat

/-- VDOT4I: exact, then wrapped. -/
def execVdot4i (o : Wide) (s : State) : Out :=
  laneWord (.vdot4i o) s fun c sl k acc =>
    let a := sl.readV c o.va k
    let b := sl.readV c o.vb k
    let d := sl.readV c o.vc k
    let sum := ((List.range 4).map fun j => laneByte (isSigned o.t) a.v j * laneByte (isSigned o.t) b.v j).sum
    acc.writeV c latInt o.vd k ⟨BitVec.ofInt 32 (d.v.toNat + sum), a.tag || b.tag || d.tag⟩

/-- Position and width of a lane bit field: from imm32, or from VB. -/
def laneField (o : Wide) (b : Word32) : Nat × Nat :=
  let x := if o.fn = 0 then o.imm else b
  ((x.extractLsb' 0 6).toNat, (x.extractLsb' 8 6).toNat)

/-- VBEXT. -/
def execVbext (o : Wide) (s : State) : Out :=
  laneWord (.vbext o) s fun c sl k acc =>
    let a := sl.readV c o.va k
    let b := sl.readV c o.vb k
    let (p, w) := laneField o b.v
    acc.writeV c latInt o.vd k ⟨fieldExtract a.v p w, a.tag || (o.fn != 0 && b.tag)⟩

/-- VBINS, which reads VD. -/
def execVbins (o : Wide) (s : State) : Out :=
  laneWord (.vbins o) s fun c sl k acc =>
    let a := sl.readV c o.va k
    let b := sl.readV c o.vb k
    let d := sl.readV c o.vd k
    let (p, w) := laneField o b.v
    acc.writeV c latInt o.vd k ⟨fieldInsert d.v a.v p w, a.tag || d.tag || (o.fn != 0 && b.tag)⟩

/-! ## Moves (R160) -/

/-- VMOVI from imm32 (fn8 = 0) or from the slice's ss (fn8 = 1). -/
def execVmovi (o : Wide) (s : State) : Out :=
  laneWord (.vmovi o) s fun c sl k acc =>
    let x : SVal := if o.fn = 0 then ⟨if o.t = 6 then o.imm.signExtend 64 else o.imm.setWidth 64, false⟩ else sl.readS c o.ss
    acc.writeT c latInt o.t o.vd k x

/-- VLANE: the lane index plus an offset. -/
def execVlane (o : Wide) (s : State) : Out :=
  laneWord (.vlane o) s fun c sl k acc =>
    acc.writeV c latInt o.vd k ⟨BitVec.ofNat 32 (sl.laneIx k) + o.imm, false⟩

/-- Lane `j` of a register as a data source of a cross-lane word (R168): a lane of the gang that has not exited yields its
element; any other yields 0 with the tag clear. -/
def Gang.laneSource (g : Gang) (c : RCtx) (t : BitVec 4) (v : VReg) (j : Nat) : SVal :=
  match g.slices.find? fun sl => sl.pos == j / 4 with
  | some sl => if sl.exited.getLsbD (j % 4) then {} else sl.readT c t v (j % 4)
  | none => {}

/-- A word that writes ss in every slice, nothing when act(pm) is empty (R149, R100). -/
def ssWord (i : Instr) (o : Wide) (lat : Lat) (s : State) (value : Gang → RCtx → SVal) : Out :=
  runWord i s fun g s =>
    let c := s.rctx g
    let x := value g c
    if g.anyActive c o.pm then
      .next (s.wordDone (g.mapSlices fun sl => (sl.writeS c lat o.ss x).advance (wordBytes i) (regionEnding i)))
    else .next (s.wordDone (g.mapSlices (·.advance (wordBytes i) (regionEnding i))))

/-- SMOV: a lane's value into ss of every slice. -/
def execSmov (o : Wide) (s : State) : Out :=
  ssWord (.smov o) o latInt s fun g c =>
    let x := g.laneSource c o.t o.va (o.imm.extractLsb' 0 5).toNat
    ⟨if o.t = 0 then (x.v.setWidth 32 : Word32).signExtend 64 else x.v, x.tag⟩

end Sys2Proof.Machine
end

