-- ==== Sys2Proof/Machine/Num.lean ====
section
/-! DEFINITION. Number formats (04 R72 to R82): decoding, exact values, rounding in every mode, conversions. -/

namespace Sys2Proof.Machine

/-! ## Formats (R72) -/

/-- A format: exponent and fraction bits, bias, the code of the largest finite value, whether it has infinities, and its
canonical NaN. -/
structure Fmt where
  ebits : Nat
  fbits : Nat
  bias : Nat
  maxCode : Nat
  inf : Bool
  nan : Nat
  sign : Bool
  deriving DecidableEq, Repr

def fmtF32 : Fmt := ⟨8, 23, 127, 0x7F7FFFFF, true, 0x7FC00000, true⟩
def fmtF16 : Fmt := ⟨5, 10, 15, 0x7BFF, true, 0x7E00, true⟩
def fmtBf16 : Fmt := ⟨8, 7, 127, 0x7F7F, true, 0x7FC0, true⟩
def fmtE4m3 : Fmt := ⟨4, 3, 7, 0x7E, false, 0x7F, true⟩
def fmtE5m2 : Fmt := ⟨5, 2, 15, 0x7B, true, 0x7E, true⟩
def fmtE2m1 : Fmt := ⟨2, 1, 1, 0x7, false, 0, true⟩
def fmtUe5m7 : Fmt := ⟨5, 7, 15, 0xFFE, false, 0xFFF, false⟩

/-- The format of a T code (03 R61). -/
def fmtOf (t : Nat) : Fmt :=
  match t with
  | 8 => fmtF32
  | 9 => fmtF16
  | 10 => fmtBf16
  | 11 => fmtE4m3
  | 12 => fmtE5m2
  | _ => fmtE2m1

/-- Bits of an element. -/
def Fmt.width (f : Fmt) : Nat := f.ebits + f.fbits + if f.sign then 1 else 0

/-- The exponent of the last place of subnormals and of the lowest binade. -/
def Fmt.eMin (f : Fmt) : Int := 1 - (f.bias : Int) - f.fbits

/-- FTZ touches f32, f16 and bf16 alone (R75). -/
def Fmt.flushes (f : Fmt) : Bool := decide (f = fmtF32) || decide (f = fmtF16) || decide (f = fmtBf16)

/-! ## Values -/

/-- A value: NaN, an infinity, or the exact number (−1)^neg × m × 2^e. -/
inductive FVal where
  | nan
  | inf (neg : Bool)
  | fin (neg : Bool) (m : Nat) (e : Int)
  deriving DecidableEq, Repr

def FVal.isNan : FVal → Bool
  | .nan => true
  | _ => false

/-- The value of a code (R72). -/
def Fmt.decode (f : Fmt) (code : Nat) : FVal :=
  let neg := f.sign && code.testBit (f.ebits + f.fbits)
  let mag := code % 2 ^ (f.ebits + f.fbits)
  let e := mag / 2 ^ f.fbits
  let frac := mag % 2 ^ f.fbits
  if f.inf && e == 2 ^ f.ebits - 1 then (if frac = 0 then .inf neg else .nan)
  else if f.nan ≠ 0 ∧ !f.inf ∧ mag = f.nan then .nan
  else if e = 0 then .fin neg frac f.eMin
  else .fin neg (2 ^ f.fbits + frac) (f.eMin + (e - 1 : Nat))

/-- A source as a lane instruction reads it: with FTZ a subnormal is a zero of its sign (R75). -/
def Fmt.read (f : Fmt) (ftz : Bool) (code : Nat) : FVal :=
  match f.decode code with
  | .fin neg m e => if ftz && f.flushes && decide (m < 2 ^ f.fbits) then .fin neg 0 e else .fin neg m e
  | v => v

/-- m × 2^e as an integer multiple of 2^b, for b ≤ e. -/
def scaleTo (b : Int) (m : Nat) (e : Int) : Nat := m * 2 ^ (e - b).toNat

/-- A signed integer from sign and magnitude. -/
def signed (neg : Bool) (m : Nat) : Int := if neg then -(m : Int) else m

/-- a + b, exact (IEEE 754 for infinities); `down` is rounding toward −∞, which makes an exact zero of opposite signs −0. -/
def FVal.add (down : Bool) : FVal → FVal → FVal
  | .nan, _ | _, .nan => .nan
  | .inf a, .inf b => if a = b then .inf a else .nan
  | .inf a, _ => .inf a
  | _, .inf b => .inf b
  | .fin na ma ea, .fin nb mb eb =>
    let e := min ea eb
    let x := signed na (scaleTo e ma ea) + signed nb (scaleTo e mb eb)
    if x = 0 then .fin (if na = nb then na else down) 0 e else .fin (decide (x < 0)) x.natAbs e

def FVal.neg : FVal → FVal
  | .nan => .nan
  | .inf a => .inf !a
  | .fin n m e => .fin (!n) m e

/-- a × b, exact; 0 × ∞ is NaN. -/
def FVal.mul : FVal → FVal → FVal
  | .nan, _ | _, .nan => .nan
  | .inf a, .inf b => .inf (a != b)
  | .inf a, .fin nb mb _ => if mb = 0 then .nan else .inf (a != nb)
  | .fin na ma _, .inf b => if ma = 0 then .nan else .inf (na != b)
  | .fin na ma ea, .fin nb mb eb => .fin (na != nb) (ma * mb) (ea + eb)

/-- Order of two values, neither NaN: a < b, with −0 equal to +0. -/
def FVal.lt : FVal → FVal → Bool
  | .inf a, .inf b => a && !b
  | .inf a, .fin .. => a
  | .fin .., .inf b => !b
  | .fin na ma ea, .fin nb mb eb =>
    let e := min ea eb
    decide (signed na (scaleTo e ma ea) < signed nb (scaleTo e mb eb))
  | _, _ => false

def FVal.isNeg : FVal → Bool
  | .nan => false
  | .inf a => a
  | .fin n _ _ => n

/-- The smaller value, −0 below +0; NaN gives way to the other operand (07 R161). -/
def FVal.min (a b : FVal) : FVal :=
  if a.isNan then b else if b.isNan then a
  else if a.lt b then a else if b.lt a then b else if a.isNeg then a else b

def FVal.max (a b : FVal) : FVal :=
  if a.isNan then b else if b.isNan then a
  else if a.lt b then b else if b.lt a then a else if a.isNeg then b else a

/-! ## Rounding (R77, R78) -/

/-- The result of rounding m × 2^e (`sticky`: the exact magnitude lies strictly between m and m + 1) to a multiple of
2^(e + sh), in multiples of it. Modes are the codes of 03 R62; `st` is the LFSR state under SR. -/
def roundUnits (rm st : Nat) (neg : Bool) (m : Nat) (sticky : Bool) (sh : Nat) : Nat :=
  let q := m / 2 ^ sh
  let r := m % 2 ^ sh
  let inexact := decide (r ≠ 0) || sticky
  let half := 2 ^ sh / 2
  let up : Bool :=
    match rm with
    | 0 => decide (half < r) || (decide (r = half) && decide (0 < sh) && (sticky || decide (q % 2 = 1)))
    | 1 => false
    | 2 => neg && inexact
    | 3 => !neg && inexact
    | 4 => decide (half ≤ r) && decide (0 < sh)
    | _ => decide (65536 ≤ r * 65536 / 2 ^ sh + st)
  if up then q + 1 else q

/-- The magnitude exceeds the largest finite value, or reaches it plus half its ulp (R77). -/
def Fmt.beyond (f : Fmt) (m : Nat) (e : Int) (sticky : Bool) : Bool × Bool :=
  match f.decode f.maxCode with
  | .fin _ mm me =>
    let b := min e (me - 1)
    let x := scaleTo b m e
    let big := scaleTo b mm me
    let half := scaleTo b 1 (me - 1)
    (decide (big < x) || (decide (big = x) && sticky), decide (big + half ≤ x))
  | _ => (false, false)

/-- How a finite magnitude rounds: a finite code, or an overflow to infinity. -/
inductive Rounded where
  | code (c : Nat)
  | over
  deriving DecidableEq, Repr

/-- Round a nonzero finite magnitude to a format (R77). -/
def Fmt.roundMag (f : Fmt) (rm st : Nat) (neg : Bool) (m : Nat) (e : Int) (sticky : Bool) : Rounded :=
  let (past, half) := f.beyond m e sticky
  if past then
    let inf :=
      match rm with
      | 1 => false
      | 2 => neg
      | 3 => !neg
      | _ => half
    if inf then .over else .code f.maxCode
  else
    let top : Int := e + Nat.log2 m - f.fbits
    let u := max f.eMin top
    let q := if u ≤ e then m * 2 ^ (e - u).toNat else roundUnits rm st neg m sticky (u - e).toNat
    .code (if q < 2 ^ f.fbits then q else (u - f.eMin).toNat * 2 ^ f.fbits + q)

/-- The sign bit of a format. -/
def Fmt.signBit (f : Fmt) (neg : Bool) : Nat := if neg && f.sign then 2 ^ (f.ebits + f.fbits) else 0

/-- How a conversion treats what a format cannot hold (R80, R81): `nsat` is the suffix. Lane arithmetic in f32, f16 and bf16
never saturates. -/
def Fmt.overflow (f : Fmt) (nsat neg : Bool) : Nat :=
  if f.flushes || (f.inf && nsat) then
    f.signBit neg + (2 ^ f.ebits - 1) * 2 ^ f.fbits
  else if nsat then f.nan
  else f.signBit neg + f.maxCode

/-- round(x, fmt, rm) as a code (R74, R77 to R81), for x = m × 2^e with a sticky part; FTZ writes a subnormal result of f32,
f16 and bf16 as zero (R75). -/
def Fmt.roundFin (f : Fmt) (rm st : Nat) (nsat ftz neg : Bool) (m : Nat) (e : Int) (sticky : Bool) : Nat :=
  if m = 0 ∧ !sticky then f.signBit neg
  else
    match f.roundMag rm st neg m e sticky with
    | .over => f.overflow nsat neg
    | .code c => f.signBit neg + if ftz && f.flushes && decide (c < 2 ^ f.fbits) then 0 else c

/-- round(x, fmt, rm). -/
def Fmt.round (f : Fmt) (rm st : Nat) (nsat ftz : Bool) : FVal → Nat
  | .nan => f.nan
  | .inf neg => f.overflow nsat neg
  | .fin neg m e => f.roundFin rm st nsat ftz neg m e false

/-- The bits that a quotient keeps beyond its format before its sticky part: 24 of the result, 16 for SR, and guards. -/
def quotBits : Nat := 48

/-- round(a / b, f32, rm), with IEEE results for zeros and infinities (07 R161). -/
def divF32 (rm st : Nat) (ftz : Bool) (a b : FVal) : Nat :=
  match a, b with
  | .nan, _ | _, .nan => fmtF32.nan
  | .inf _, .inf _ => fmtF32.nan
  | .inf na, .fin nb _ _ => fmtF32.round rm st false ftz (.inf (na != nb))
  | .fin na _ _, .inf nb => fmtF32.round rm st false ftz (.fin (na != nb) 0 0)
  | .fin na ma ea, .fin nb mb eb =>
    if mb = 0 then (if ma = 0 then fmtF32.nan else fmtF32.round rm st false ftz (.inf (na != nb)))
    else
      let n := ma * 2 ^ (quotBits + 24)
      fmtF32.roundFin rm st false ftz (na != nb) (n / mb) (ea - eb - (quotBits + 24 : Nat)) (decide (n % mb ≠ 0))

/-- A finite value rounded to an integer in a mode: its magnitude. -/
def roundInt (rm st : Nat) (neg : Bool) (m : Nat) (e : Int) : Nat :=
  if 0 ≤ e then m * 2 ^ e.toNat else roundUnits rm st neg m false (-e).toNat

/-- VFRND (07 R161). -/
def rndF32 (rm st : Nat) (ftz : Bool) : FVal → Nat
  | .nan => fmtF32.nan
  | .inf n => fmtF32.round rm st false ftz (.inf n)
  | .fin n m e => fmtF32.round 0 0 false ftz (.fin n (roundInt rm st n m e) 0)

/-- A float as an integer in [lo, hi] (R82): ±∞ to the ends, NaN to 0. -/
def toIntSat (rm st : Nat) (lo hi : Int) : FVal → Int
  | .nan => 0
  | .inf n => if n then lo else hi
  | .fin n m e => max lo (min hi (signed n (roundInt rm st n m e)))

/-- An integer as a value. -/
def ofInt (x : Int) : FVal := .fin (decide (x < 0)) x.natAbs 0

/-- One step of a lane's LFSR (R79). -/
def lfsrStep (st : BitVec 16) : BitVec 16 :=
  let fb := (st ^^^ (st >>> 2) ^^^ (st >>> 3) ^^^ (st >>> 5)) &&& 1
  (st >>> 1) ||| (fb <<< 15)

end Sys2Proof.Machine
end

