-- ==== Sys2Proof/Machine/LaneFloat.lean ====
section
/-! DEFINITION. Lane floating arithmetic, conversions, packs and dot products (07 R161 to R167; 04 R74 to R82). -/

namespace Sys2Proof.Machine

/-! ## One lane's rounding -/

/-- The LFSR state of lane `k` of a slice, and the slice with it replaced. -/
def Slice.lfsrOf (sl : Slice) (k : Nat) : BitVec 16 :=
  match k with
  | 0 => sl.lfsr.a0
  | 1 => sl.lfsr.a1
  | 2 => sl.lfsr.a2
  | _ => sl.lfsr.a3

def Slice.setLfsr (sl : Slice) (k : Nat) (x : BitVec 16) : Slice :=
  match k with
  | 0 => { sl with lfsr := { sl.lfsr with a0 := x } }
  | 1 => { sl with lfsr := { sl.lfsr with a1 := x } }
  | 2 => { sl with lfsr := { sl.lfsr with a2 := x } }
  | _ => { sl with lfsr := { sl.lfsr with a3 := x } }

/-- Under SR the lane's LFSR steps once for an element that is rounded (04 R79). -/
def Slice.draw (sl : Slice) (rm : BitVec 3) (k : Nat) : Slice :=
  if rm = 5 then sl.setLfsr k (lfsrStep (sl.lfsrOf k)) else sl

/-- Round one element with the lane's LFSR state, and step it. -/
def Slice.rounded (sl : Slice) (rm : BitVec 3) (k : Nat) (f : Nat → Nat) : Nat × Slice :=
  (f (sl.lfsrOf k).toNat, sl.draw rm k)

/-- An f32 source with FTZ and a source modifier: `x` negates bit, `a` absolute bit (03 R55). -/
def Slice.srcF32 (sl : Slice) (v : Word32) (mods : BitVec 2) : FVal :=
  let y := if mods.getLsbD 1 then v &&& 0x7FFFFFFF else v
  let y := if mods.getLsbD 0 then y ^^^ 0x80000000 else y
  fmtF32.read sl.ftz y.toNat

/-- A result is a NaN produced in this lane: no source was one (04 R76). -/
def produced (f : Fmt) (code : Nat) (sources : List FVal) : Bool :=
  (f.decode code).isNan && !sources.any FVal.isNan

/-- Write an f32 result of a lane from its sources; the Bool tells a produced NaN. -/
def Slice.floatResult (acc : Slice) (c : RCtx) (lat : Lat) (o : Wide) (k : Nat) (tag : Bool) (srcs : List FVal)
    (f : Nat → Nat) : Slice × Bool :=
  let (code, acc') := acc.rounded o.rm k f
  (acc'.writeV c lat o.vd k ⟨BitVec.ofNat 32 code, tag⟩, produced fmtF32 code srcs)

def latFloat : Lat := .fixed 4

/-- A lane word of two f32 sources with modifiers. -/
def float2 (i : Instr) (o : Wide) (lat : Lat) (s : State) (f : Bool → FVal → FVal → Nat → Nat) : Out :=
  laneWordN i s fun c sl k acc =>
    let a := sl.readV c o.va k
    let b := sl.readV c o.vb k
    let x := sl.srcF32 a.v (o.aux.extractLsb' 0 2)
    let y := sl.srcF32 b.v (o.aux.extractLsb' 2 2)
    acc.floatResult c lat o k (a.tag || b.tag) [x, y] (f sl.ftz x y)

/-- Rounding toward −∞ gives an exact zero sum the sign − (R77). -/
def isDown (o : Wide) : Bool := o.rm == 2

def execVfadd (o : Wide) (s : State) : Out :=
  float2 (.vfadd o) o latFloat s fun ftz x y st => fmtF32.round o.rm.toNat st false ftz (x.add (isDown o) y)
def execVfsub (o : Wide) (s : State) : Out :=
  float2 (.vfsub o) o latFloat s fun ftz x y st => fmtF32.round o.rm.toNat st false ftz (x.add (isDown o) y.neg)
def execVfmul (o : Wide) (s : State) : Out :=
  float2 (.vfmul o) o latFloat s fun ftz x y st => fmtF32.round o.rm.toNat st false ftz (x.mul y)
def execVfmin (o : Wide) (s : State) : Out :=
  float2 (.vfmin o) o latFloat s fun ftz x y st => fmtF32.round o.rm.toNat st false ftz (x.min y)
def execVfmax (o : Wide) (s : State) : Out :=
  float2 (.vfmax o) o latFloat s fun ftz x y st => fmtF32.round o.rm.toNat st false ftz (x.max y)
def execVfdiv (o : Wide) (s : State) : Out :=
  float2 (.vfdiv o) o (.fixed 24) s fun ftz x y st => divF32 o.rm.toNat st ftz x y

/-- VFMA: a × b + c, one rounding. -/
def execVfma (o : Wide) (s : State) : Out :=
  laneWordN (.vfma o) s fun c sl k acc =>
    let a := sl.readV c o.va k
    let b := sl.readV c o.vb k
    let d := sl.readV c o.vc k
    let x := sl.srcF32 a.v (o.aux.extractLsb' 0 2)
    let y := sl.srcF32 b.v (o.aux.extractLsb' 2 2)
    let z := sl.srcF32 d.v 0
    acc.floatResult c latFloat o k (a.tag || b.tag || d.tag) [x, y, z]
      fun st => fmtF32.round o.rm.toNat st false sl.ftz ((x.mul y).add (isDown o) z)

/-- VFRND. -/
def execVfrnd (o : Wide) (s : State) : Out :=
  laneWordN (.vfrnd o) s fun c sl k acc =>
    let a := sl.readV c o.va k
    let x := sl.srcF32 a.v 0
    acc.floatResult c latFloat o k a.tag [x] fun st => rndF32 o.rm.toNat st sl.ftz x

/-- VFCMP conditions EQ, NE, LT, LE, GT, GE, UN, ORD as 0 to 7 (R162). -/
def floatCond (cc : Nat) (a b : FVal) : Bool :=
  let un := a.isNan || b.isNan
  match cc with
  | 0 => !un && !a.lt b && !b.lt a
  | 1 => un || a.lt b || b.lt a
  | 2 => !un && a.lt b
  | 3 => !un && !b.lt a
  | 4 => !un && b.lt a
  | 5 => !un && !a.lt b
  | 6 => un
  | _ => !un

/-- VFCMP: a tagged operand traps (R151). -/
def execVfcmp (o : Wide) (s : State) : Out :=
  laneWordP (.vfcmp o) s
    (fun c sl k => (sl.readV c o.va k).tag || (sl.readV c o.vb k).tag)
    (fun c sl k acc =>
      acc.writeM c latFloat (auxMask o) k
        (floatCond o.fn.toNat (sl.srcF32 (sl.readV c o.va k).v 0) (sl.srcF32 (sl.readV c o.vb k).v 0)))

/-- The class mask of raw f32 bits (R163). -/
def classMask (x : Word32) : Word32 :=
  let neg := x.getLsbD 31
  let pick := fun (n p : Nat) => (1 : Word32) <<< (if neg then n else p)
  match fmtF32.decode x.toNat with
  | .nan => 1 <<< 8
  | .inf _ => pick 0 7
  | .fin _ m _ => if m = 0 then pick 3 4 else if m < 2 ^ 23 then pick 2 5 else pick 1 6

/-- VFCLS. -/
def execVfcls (o : Wide) (s : State) : Out :=
  laneWord (.vfcls o) s fun c sl k acc =>
    let a := sl.readV c o.va k
    acc.writeV c latFloat o.vd k ⟨classMask a.v, a.tag⟩

/-! ## Conversions (R164) -/

/-- Element `e` of a packed register in a format (04 R73). -/
def element (f : Fmt) (x : Word32) (e : Nat) : Nat := x.toNat / 2 ^ (f.width * e) % 2 ^ f.width

/-- A conversion produces a NaN: in a float format none of whose sources is one; a NaN converted to e2m1 (04 R76, R80). -/
def convProduced (f : Fmt) (code : Nat) (src : FVal) : Bool :=
  if f = fmtE2m1 then src.isNan else produced f code [src]

/-- VCVTF. -/
def execVcvtf (o : Wide) (s : State) : Out :=
  let from_ := fmtOf (o.fn.extractLsb' 0 4).toNat
  let dst := fmtOf o.t.toNat
  laneWordN (.vcvtf o) s fun c sl k acc =>
    let a := sl.readV c o.va k
    let x := from_.read sl.ftz (element from_ a.v (o.fn.extractLsb' 4 3).toNat)
    let (code, acc') := acc.rounded o.rm k fun st => dst.round o.rm.toNat st (o.fn.getLsbD 7) sl.ftz x
    (acc'.writeV c latFloat o.vd k ⟨BitVec.ofNat 32 code, a.tag⟩, convProduced dst code x)

/-- VCVTFI. -/
def execVcvtfi (o : Wide) (s : State) : Out :=
  laneWord (.vcvtfi o) s fun c sl k acc =>
    let a := sl.readV c o.va k
    let x := sl.srcF32 a.v 0
    let t := o.t.toNat
    let y := toIntSat o.rm.toNat (acc.lfsrOf k).toNat (intMin t) (intMax t) x
    (acc.draw o.rm k).writeT c latFloat o.t o.vd k ⟨intReg t y, a.tag⟩

/-- VCVTIF. -/
def execVcvtif (o : Wide) (s : State) : Out :=
  let src : BitVec 4 := o.fn.extractLsb' 0 4
  let dst := fmtOf o.t.toNat
  laneWord (.vcvtif o) s fun c sl k acc =>
    let a := sl.readT c src o.va k
    let (code, acc') := acc.rounded o.rm k fun st => dst.round o.rm.toNat st false sl.ftz (ofInt (intOf src.toNat a.v))
    acc'.writeV c latFloat o.vd k ⟨BitVec.ofNat 32 code, a.tag⟩

/-! ## Packs (R165, R166) -/

/-- A lane's conversions produce a NaN: in a float format while none of the lane's sources is one; any NaN converted to e2m1 (R76). -/
def packProduced (f : Fmt) (codes : List Nat) (xs : List FVal) : Bool :=
  if f = fmtE2m1 then xs.any FVal.isNan else codes.any fun code => produced f code xs

/-- Convert f32 elements in order, stepping the LFSR under SR; the codes, and whether a NaN was produced. -/
def Slice.packAll (acc : Slice) (o : Wide) (k : Nat) (f : Fmt) (nsat ftz : Bool) (xs : List FVal) :
    List Nat × Bool × Slice :=
  let r := xs.foldl
    (fun (p : List Nat × Slice) x =>
      let (code, acc') := p.2.rounded o.rm k fun st => f.round o.rm.toNat st nsat ftz x
      (p.1 ++ [code], acc')) ([], acc)
  (r.1, packProduced f r.1 xs, r.2)

/-- Codes packed from the low end. -/
def packCodes (width : Nat) (codes : List Nat) : Nat := codes.foldr (fun c acc => c + 2 ^ width * acc) 0

/-- VPACK2. -/
def execVpack2 (o : Wide) (s : State) : Out :=
  laneWordN (.vpack2 o) s fun c sl k acc =>
    let a := sl.readV c o.va k
    let b := sl.readV c o.vb k
    let r := acc.packAll o k (fmtOf o.t.toNat) false sl.ftz [sl.srcF32 a.v 0, sl.srcF32 b.v 0]
    (r.2.2.writeV c latFloat o.vd k ⟨BitVec.ofNat 32 (packCodes 16 r.1), a.tag || b.tag⟩, r.2.1)

/-- VPACK4: four sources, the last in parcel 2; for e2m1 half of VD is kept. -/
def execVpack4 (o : Wide) (s : State) : Out :=
  let f := fmtOf o.t.toNat
  laneWordN (.vpack4 o) s fun c sl k acc =>
    let rs := [o.va, o.vb, o.vc, o.imm.extractLsb' 0 6].map fun v => sl.readV c v k
    let tag := rs.any LVal.tag
    let r := acc.packAll o k f (o.fn.getLsbD 7) sl.ftz (rs.map fun x => sl.srcF32 x.v 0)
    let x := packCodes f.width r.1
    if o.t = 13 then
      let d := sl.readV c o.vd k
      let y := if o.fn.getLsbD 0 then (d.v &&& 0x0000FFFF) ||| BitVec.ofNat 32 (65536 * x)
        else (d.v &&& 0xFFFF0000) ||| BitVec.ofNat 32 x
      (r.2.2.writeV c latFloat o.vd k ⟨y, tag || d.tag⟩, r.2.1)
    else (r.2.2.writeV c latFloat o.vd k ⟨BitVec.ofNat 32 x, tag⟩, r.2.1)

/-- VUNPK: every element widened to f32 exactly; a NaN becomes the canonical one and never traps. -/
def execVunpk (o : Wide) (s : State) : Out :=
  let f := fmtOf o.t.toNat
  laneWord (.vunpk o) s fun c sl k acc =>
    let a := sl.readV c o.va k
    (List.range (32 / f.width)).foldl
      (fun acc e =>
        let x := f.read sl.ftz (element f a.v e)
        acc.writeV c latFloat (o.vd + BitVec.ofNat 6 e) k ⟨BitVec.ofNat 32 (fmtF32.round 0 0 false false x), a.tag⟩) acc

/-! ## Dot products (R167) -/

/-- The exact sum of terms: NaN and infinities as R167 gives; a zero sum is −0 when every term is −0, or under RDN when the
terms have both signs. -/
def sumTerms (down : Bool) (ts : List FVal) : FVal :=
  if ts.any FVal.isNan then .nan
  else
    let infs := ts.filter fun t => match t with
      | .inf _ => true
      | _ => false
    match infs with
    | t :: _ => if infs.all fun u => u.isNeg == t.isNeg then .inf t.isNeg else .nan
    | [] =>
      let x := ts.foldl (FVal.add false) (.fin (ts.all FVal.isNeg) 0 0)
      match x with
      | .fin _ 0 e => .fin (ts.all FVal.isNeg || (down && ts.any FVal.isNeg)) 0 e
      | x => x

/-- VFDOT2 and VFDOT4. -/
def dotWord (i : Instr) (o : Wide) (s : State) : Out :=
  let f := fmtOf o.t.toNat
  laneWordN i s fun c sl k acc =>
    let a := sl.readV c o.va k
    let b := sl.readV c o.vb k
    let d := sl.readV c o.vc k
    let es := List.range (32 / f.width)
    let xs := es.map fun e => f.read sl.ftz (element f a.v e)
    let ys := es.map fun e => f.read sl.ftz (element f b.v e)
    let z := sl.srcF32 d.v 0
    let ts := (xs.zip ys).map (fun p => p.1.mul p.2) ++ [z]
    acc.floatResult c latFloat o k (a.tag || b.tag || d.tag) (xs ++ ys ++ [z])
      fun st => fmtF32.round o.rm.toNat st false sl.ftz (sumTerms (isDown o) ts)

def execVfdot2 (o : Wide) (s : State) : Out := dotWord (.vfdot2 o) o s
def execVfdot4 (o : Wide) (s : State) : Out := dotWord (.vfdot4 o) o s

end Sys2Proof.Machine
end

