-- ==== Sys2Proof/Machine/Cross.lean ====
section
/-! DEFINITION. Cross-lane words (07 R168 to R171). -/

namespace Sys2Proof.Machine

/-- A lane word whose lanes read the whole gang. -/
def crossWord (i : Instr) (s : State) (f : Gang → RCtx → Slice → Nat → Slice → Slice) : Out :=
  runWord i s fun g s =>
    let c := s.rctx g
    .next (s.wordDone (g.mapSlices fun sl =>
      ((lanesOf (sl.act c (pmOf i))).foldl (fun acc k => f g c sl k acc) sl).advance (wordBytes i) (regionEnding i)))

def latMove : Lat := .fixed 4
def latFold : Lat := .fixed 8

/-- VPERM: the source lane from VB, whose tag joins the OR. -/
def execVperm (o : Wide) (s : State) : Out :=
  crossWord (.vperm o) s fun g c sl k acc =>
    let b := sl.readT c o.t o.vb k
    let x := g.laneSource c o.t o.va (b.v.extractLsb' 0 5).toNat
    acc.writeT c latMove o.t o.vd k ⟨x.v, x.tag || b.tag⟩

/-- The source lane of VSHFL: XOR, UP, DOWN as 0 to 2; none outside 0 to 31. -/
def shuffleLane (kind l k : Nat) : Option Nat :=
  match kind with
  | 0 => some (l ^^^ k)
  | 1 => if l < k then none else some (l - k)
  | _ => if 31 < l + k then none else some (l + k)

/-- VSHFL. -/
def execVshfl (o : Wide) (s : State) : Out :=
  crossWord (.vshfl o) s fun g c sl k acc =>
    let x := match shuffleLane o.fn.toNat (sl.laneIx k) (o.imm.extractLsb' 0 5).toNat with
      | some j => g.laneSource c o.t o.va j
      | none => sl.readT c o.t o.va k
    acc.writeT c latMove o.t o.vd k x

/-- VBCAST: the source lane from imm32, or from the slice's ss, whose tag joins the OR. -/
def execVbcast (o : Wide) (s : State) : Out :=
  crossWord (.vbcast o) s fun g c sl k acc =>
    let r := sl.readS c o.ss
    let j := if o.fn = 0 then (o.imm.extractLsb' 0 5).toNat else (r.v.extractLsb' 0 5).toNat
    let x := g.laneSource c o.t o.va j
    acc.writeT c latMove o.t o.vd k ⟨x.v, x.tag || (o.fn != 0 && r.tag)⟩

/-! ## Folds (R170) -/

/-- A value in a fold: integer bits, or an f32 value; its tag; a NaN among the values folded. -/
structure Folded where
  v : Word64
  f : FVal
  tag : Bool
  nan : Bool
  deriving DecidableEq, Repr

/-- The active lanes of a gang in lane order, with their slices. -/
def Gang.activeLanes (g : Gang) (c : RCtx) (pm : Pm) : List (Slice × Nat) :=
  g.slices.flatMap fun sl => (lanesOf (sl.act c pm)).map fun k => (sl, k)

/-- The integer operation of a fold. -/
def foldOp (t : BitVec 4) (op : Nat) : AluOp :=
  match op with
  | 0 => .add
  | 1 => byType t .min .minn
  | 2 => byType t .max .maxn
  | 3 => .and
  | 4 => .or
  | _ => .xor

/-- The identity of an operation: for MIN and MAX the largest and smallest value of T. -/
def foldIdentity (t : BitVec 4) (op : Nat) : Folded :=
  let int := fun (x : Int) => (⟨BitVec.ofInt 64 x, .nan, false, false⟩ : Folded)
  match op with
  | 1 => int (intMax t.toNat)
  | 2 => int (intMin t.toNat)
  | 3 => int (-1)
  | 8 => ⟨0, .fin false 0 0, false, false⟩
  | 9 => ⟨0, .inf false, false, false⟩
  | 10 => ⟨0, .inf true, false, false⟩
  | _ => int 0

/-- One step of a fold: the lane that holds the added value rounds with its own LFSR, and its slice's FTZ holds for the step, whatever the
slices that the result goes to have (log 81, DESIGN CHOICE). -/
def foldStep (o : Wide) (ftz : Bool) (st : Nat) (a x : Folded) : Folded :=
  let op := (o.fn.extractLsb' 0 7).toNat
  let tag := a.tag || x.tag
  let nan := a.nan || x.nan
  match op with
  | 8 => ⟨0, fmtF32.decode (fmtF32.round o.rm.toNat st false ftz (a.f.add (isDown o) x.f)), tag, nan⟩
  | 9 => ⟨0, a.f.min x.f, tag, nan⟩
  | 10 => ⟨0, a.f.max x.f, tag, nan⟩
  | _ => ⟨(foldOp o.t op).evalT o.t a.v x.v, .nan, tag, nan⟩

/-- The value that a lane brings to a fold. -/
def foldSource (o : Wide) (c : RCtx) (p : Slice × Nat) : Folded :=
  let x := p.1.readT c o.t o.va p.2
  let f := p.1.srcF32 (x.v.setWidth 32) 0
  ⟨x.v, f, x.tag, f.isNan⟩

/-- The folds over x0 to xi for every i, each step with FTZ of the slice whose lane it adds (log 81, DESIGN CHOICE). -/
def prefixes (o : Wide) (c : RCtx) : Folded → List (Slice × Nat) → List Folded
  | a, [] => [a]
  | a, p :: ps => a :: prefixes o c (foldStep o p.1.ftz (p.1.lfsrOf p.2).toNat a (foldSource o c p)) ps

/-- The folds of a word over the gang's active lanes. -/
def Gang.folds (g : Gang) (o : Wide) (c : RCtx) : List Folded :=
  match g.activeLanes c o.pm with
  | [] => []
  | p :: ps => prefixes o c (foldSource o c p) ps

/-- A fold's result as register bits. -/
def Folded.bits (o : Wide) (x : Folded) : Word64 :=
  if o.t = 8 then BitVec.ofNat 64 (fmtF32.round 0 0 false false x.f) else x.v

/-- VREDUCE and VSCAN: `pick` gives the i-th active lane's result. Under SR every lane after the first steps once. -/
def foldWord (i : Instr) (o : Wide) (s : State) (pick : List Folded → Nat → Folded) : Out :=
  runWord i s fun g s =>
    let c := s.rctx g
    let lanes := g.activeLanes c o.pm
    let fs := g.folds o c
    let res := lanes.zipIdx.map fun p => (p.1, pick fs p.2, p.2)
    let bad := res.filter fun r => o.t == 8 && r.2.1.f.isNan && !r.2.1.nan && r.1.1.nantrap
    if !bad.isEmpty then
      .next (s.trapped g ⟨Cause.nanProduced, BitVec.ofNat 64 (bad.map fun r => 2 ^ r.1.1.laneIx r.1.2).sum⟩)
    else
      let put := fun (q : List Slice × Nat) (sl : Slice) =>
        let mine := lanesOf (sl.act c o.pm)
        let sl' := mine.zipIdx.foldl
          (fun acc r =>
            let x := pick fs (q.2 + r.2)
            let acc := acc.writeT c latFold o.t o.vd r.1 ⟨x.bits o, x.tag⟩
            if q.2 + r.2 = 0 || o.t != 8 then acc else acc.draw o.rm r.1) sl
        (q.1 ++ [sl'.advance (wordBytes i) (regionEnding i)], q.2 + mine.length)
      .next (s.wordDone { g with slices := (g.slices.foldl put ([], 0)).1 })

/-- VREDUCE: the whole fold in every active lane. -/
def execVreduce (o : Wide) (s : State) : Out :=
  foldWord (.vreduce o) o s fun fs _ => fs.getLastD (foldIdentity o.t (o.fn.extractLsb' 0 7).toNat)

/-- VSCAN: the fold up to the lane; with EXCL up to the lane before, the identity in the first. -/
def execVscan (o : Wide) (s : State) : Out :=
  let ident := foldIdentity o.t (o.fn.extractLsb' 0 7).toNat
  foldWord (.vscan o) o s fun fs n =>
    if o.fn.getLsbD 7 then (if n = 0 then ident else fs.getD (n - 1) ident) else fs.getD n ident

/-! ## Ballot and vote (R171) -/

/-- The active lanes whose element is nonzero, and the OR of the active lanes' tags. -/
def Gang.ballot (g : Gang) (o : Wide) (c : RCtx) : Nat × Bool :=
  let ls := (g.activeLanes c o.pm).map fun p => (p.1.laneIx p.2, p.1.readV c o.va p.2)
  (((ls.filter fun p => p.2.v != 0).map fun p => 2 ^ p.1).sum, ls.any fun p => p.2.tag)

/-- VBALLOT. -/
def execVballot (o : Wide) (s : State) : Out :=
  ssWord (.vballot o) o latFold s fun g c =>
    let (b, tag) := g.ballot o c
    ⟨BitVec.ofNat 64 b, tag⟩

/-- VVOTE: ANY (0) or ALL (1). -/
def execVvote (o : Wide) (s : State) : Out :=
  ssWord (.vvote o) o latFold s fun g c =>
    let (b, tag) := g.ballot o c
    let all := ((g.activeLanes c o.pm).map fun p => 2 ^ p.1.laneIx p.2).sum
    ⟨if o.fn = 0 then ofTruth (decide (b ≠ 0)) else ofTruth (decide (b = all)), tag⟩

end Sys2Proof.Machine
end

