-- ==== Sys2Proof/Machine/Access.lean ====
section
/-! DEFINITION. A strand's accesses to memory: the checks of 06 R130 in their order, the read or write itself through the
L1, at home or in the scratchpad, loads and home stores that are performed later (09 R199 to R205), the undo log and store
signatures of 21 R437 and R440. -/

namespace Sys2Proof.Machine

/-- Where an access is performed. -/
inductive Where where
  /-- Through the core's L1: PRIVATE, CELLAR and READONLY pages. -/
  | l1 (pa : Nat) (ro : Bool)
  /-- At the home slice: HOME pages and space 1. -/
  | home (pa : Nat)
  /-- In the core's scratchpad. -/
  | scratch (off : Nat)
  deriving DecidableEq, Repr

/-- An access that has passed its checks. -/
structure Access where
  loc : Where
  size : Nat
  /-- A page with POR reads as poisoned (11 R247). -/
  por : Bool
  /-- The generic address, for the store signature. -/
  gen : Word64
  deriving DecidableEq, Repr

/-- How one part of a word comes out of its checks. -/
inductive Check where
  | ok (a : Access)
  | trap (t : Trap)
  | fault (f : FaultRec)
  deriving DecidableEq, Repr

/-- What kind of access it is. -/
inductive AccKind where
  | load | store | atomic | cellRead | cellWrite
  deriving DecidableEq, Repr

/-- The permissions an access needs (11 R247). -/
def AccKind.need (k : AccKind) (user : Bool) : Need :=
  match k with
  | .load => { r := true, user := user }
  | .store => { w := true, user := user }
  | .atomic => { r := true, w := true, user := user }
  | .cellRead => { r := true, cell := true, user := user }
  | .cellWrite => { r := true, w := true, cell := true, user := user }

/-- ACC of the fault record (11 R253). -/
def AccKind.acc : AccKind → Nat
  | .load => 0
  | .store => 1
  | _ => 2

/-- Cells on which some strand is parked, by physical address: the cells whose WAITER is nonzero (01 R13, R17). -/
def State.waitedCells (s : State) : List Nat :=
  (s.gangs ++ s.cur.toList).flatMap fun g =>
    match g.park with
    | .await cs _ => cs
    | _ => []

/-- A write that touches a cell with a nonzero WAITER (01 R17). -/
def State.hitsWaiter (s : State) (pa n : Nat) : Bool := (unitsOf 16 pa n).any fun u => s.waitedCells.contains (16 * u)

/-- A fault record of a strand's access. -/
def faultOf (g : Gang) (va acc why level : Nat) (since : Nat) (entryAt : Nat) (pool : Bool) : FaultRec :=
  { token := 0, part := g.part, ctx := g.ctx, va := va, acc := acc, why := why, level := level, entryAt := entryAt
    pool := pool, units := [], unitno := g.core, stage := .new, since := since }

/-- Steps 5 and 6 of 06 R130 for a place: translation and permission; a write to a waited cell raises PROTECTION. -/
def State.resolvePlace (s : State) (g : Gang) (user : Bool) (k : AccKind) (gen : Word64) (size : Nat) (p : Place) :
    Check × State :=
  match p with
  | .scratch off =>
    match k with
    | .cellRead | .cellWrite => (.trap ⟨Cause.addressHole, gen⟩, s)
    | _ => (.ok { loc := .scratch off, size := size, por := false, gen := gen }, s)
  | .virt va =>
    let (x, s') := s.xlate g.core g.part g.ctx va (k.need user)
    match x with
    | .fault why lv e pool => (.fault (faultOf g va k.acc why lv s.cycle e pool), s')
    | .denied => (.trap ⟨Cause.protection, gen⟩, s')
    | .ok pa l =>
      if k != .load && k != .cellRead && k != .cellWrite && s'.hitsWaiter pa size then (.trap ⟨Cause.protection, gen⟩, s')
      else if l.kind = 2 || k == .atomic then
        (.ok { loc := .home pa, size := size, por := l.por, gen := gen }, s')
      else (.ok { loc := .l1 pa (l.kind == 1), size := size, por := l.por, gen := gen }, s')

/-- All the checks of one generic address (06 R130 steps 2 to 6). -/
def State.resolve (s : State) (g : Gang) (sl : Slice) (k : AccKind) (a : Word64) (size : Nat) : Check × State :=
  match sl.segs.place a size size with
  | .error t => (.trap t, s)
  | .ok p => s.resolvePlace g (!sl.priv) k a size p

/-! ## Reading -/

/-- The bytes at a place, and whether they are poisoned: as a strand's access, of one atomic unit, or as an engine's (09 R198). -/
def State.readPlace (s : State) (core : Nat) (w : Where) (n : Nat) (unit : Bool) : List Byte × Bool × State :=
  match w with
  | .l1 pa ro => s.readL1 core pa n ro unit
  | .home pa => (s.bytesAt pa n, s.poisonedAt pa n, s.touchHome pa)
  | .scratch off =>
    let (bs, bad) := s.readScratch core off n
    (bs, bad, s)

/-- The bytes a strand's access reads. -/
def State.readAt (s : State) (core : Nat) (w : Where) (n : Nat) : List Byte × Bool × State := s.readPlace core w n true

/-- Extend loaded bytes: to 64 bits by sign or by zeros. -/
def extend (signed : Bool) (bs : List Byte) : Word64 :=
  let x := natOfBytes bs
  if signed then (BitVec.ofNat (8 * bs.length) x).signExtend 64 else BitVec.ofNat 64 x

/-! ## Posted home stores and deferred loads (09 R199, R202, R205) -/

/-- Ranges that share a byte. -/
def overlap (a n b m : Nat) : Bool := decide (a < b + m) && decide (b < a + n)

/-- Perform posted stores that satisfy a test, in order. -/
def State.performPosted (s : State) (p : Posted → Bool) : State :=
  let s1 := (s.posted.filter p).foldl (fun s e => s.writeHome e.addr e.data) s
  { s1 with posted := s.posted.filter fun e => !p e }

/-- Before the source of an edge a gang's home stores have been performed (R205). -/
def State.drain (s : State) (gid : Nat) : State := s.performPosted fun e => e.gid == gid

/-- Posted stores, those among them that must come before an access of bytes apart: they satisfy a test and share a byte with the access,
or with a later one that must come before it (R202). -/
def splitPosted (p : Posted → Bool) (addr n : Nat) (es : List Posted) : List Posted × List Posted :=
  let r := es.foldr
    (fun e (q : List Posted × List Posted × List (Nat × Nat)) =>
      if p e && q.2.2.any (fun r => overlap e.addr e.data.length r.1 r.2) then (e :: q.1, q.2.1, (e.addr, e.data.length) :: q.2.2)
      else (q.1, e :: q.2.1, q.2.2)) ([], [], [(addr, n)])
  (r.1, r.2.1)

/-- Perform the posted stores that must come before an access of bytes. -/
def State.performBefore (s : State) (p : Posted → Bool) (addr n : Nat) : State :=
  let (due, rest) := splitPosted p addr n s.posted
  { due.foldl (fun s e => s.writeHome e.addr e.data) s with posted := rest }

/-- The place that a deferred load names. -/
def Deferred.loc (d : Deferred) : Where :=
  match d.space with
  | 0 => .l1 d.addr d.ro
  | 1 => .home d.addr
  | _ => .scratch d.addr

/-- Perform one deferred load: the value of its target, written unless a later word has written it. -/
def State.performLoad (s : State) (core : Nat) (sl : Slice) (p : Pending) (d : Deferred) : Slice × State :=
  let (bs, bad, s') := s.readAt core d.loc d.size
  let x := extend d.signed bs
  let x := if d.half = 0 then x else x >>> 32
  let tag := bad || d.por
  let sl' := match p.targ with
    | .scalar k => { sl with scal := if p.passed then sl.scal else Map.set {} sl.scal k ⟨x, tag⟩ }
    | .lane r k =>
      { sl with lane := if p.passed then sl.lane else Map.set {} sl.lane (4 * r + k) ⟨x.setWidth 32, tag⟩ }
    | .mask _ _ => sl
  ({ sl' with pending := sl'.pending.map fun q =>
      if q == p then { q with load := none, new := ⟨x, tag⟩ } else q }, s')

/-- Perform the deferred loads of a slice that satisfy a test. -/
def State.performLoads (s : State) (core : Nat) (sl : Slice) (test : Pending → Bool) : Slice × State :=
  sl.pending.foldl
    (fun (q : Slice × State) p =>
      match p.load with
      | some d => if test p then q.2.performLoad core q.1 p d else q
      | none => q) (sl, s)

/-- Perform the deferred loads of one word of a gang, in slice order. -/
def State.performWord (s : State) (g : Gang) (n : Nat) : Gang × State :=
  let r := g.slices.foldl
    (fun (p : List Slice × State) sl =>
      let (sl', s') := p.2.performLoads g.core sl fun q => q.n == n
      (p.1 ++ [sl'], s')) ([], s)
  ({ g with slices := r.1 }, r.2)

/-- Perform the deferred loads of some words of a gang. -/
def State.performWords (s : State) (g : Gang) (ns : List Nat) : Gang × State :=
  ns.foldl (fun p n => p.2.performWord p.1 n) (g, s)

/-- Words of a gang with deferred loads that satisfy a test, in the order in which they issued. -/
def Gang.loadWords (g : Gang) (test : Deferred → Bool) : List Nat :=
  (g.slices.flatMap fun sl => sl.pending.filterMap fun p =>
    match p.load with
    | some d => if test d then some p.n else none
    | none => none).foldl NatSet.put []

/-- A deferred load must come before a later access of its gang: the access writes its bytes (R9), or both read them in one order, on a
HOME page or in scratchpad (R202). -/
def Deferred.before (d : Deferred) (writes : Bool) (a : Access) : Bool :=
  let (space, addr) := match a.loc with
    | .l1 pa _ => (0, pa)
    | .home pa => (1, pa)
    | .scratch off => (2, off)
  ((d.space == 2) == (space == 2)) && overlap d.addr d.size addr a.size && (writes || d.space != 0)

/-- Before a word of a gang performs its accesses, the deferred loads of the words that must come before them are performed: a gang
is one strand (01 R11, 09 R196). -/
def State.orderLoads (s : State) (g : Gang) (as : List Access) (writes : Bool) : Gang × State :=
  s.performWords g (g.loadWords fun d => as.any fun a => d.before writes a)

/-- Perform every deferred load of a gang: at a fork edge, a load that stands before it does not read what comes after (R199). -/
def State.performAll (s : State) (g : Gang) : Gang × State := s.performWords g (g.loadWords fun _ => true)

/-- Before an access of a gang at a place, its posted stores of the bytes come first (R196, R202). -/
def State.orderPosted (s : State) (g : Gang) (w : Where) (n : Nat) : State :=
  match w with
  | .l1 pa _ | .home pa => s.performBefore (fun e => e.gid == g.gid) pa n
  | .scratch _ => s

/-! ## Writing -/

/-- CRC-64 of ECMA-182, one byte (21 R440). -/
def crcByte (c : BitVec 64) (b : Byte) : BitVec 64 :=
  (List.range 8).foldl
    (fun c _ => if c.getLsbD 63 then (c <<< 1) ^^^ 0x42F0E1EBA9EA3693#64 else c <<< 1)
    (c ^^^ (b.setWidth 64 <<< 56))

/-- What one store part appends to the signature: its generic address, size and data. -/
def sigAppend (c : BitVec 64) (a : Word64) (bs : List Byte) : BitVec 64 :=
  (toBytes a 8 ++ [BitVec.ofNat 8 bs.length] ++ bs).foldl crcByte c

/-- The crew record of a gang. -/
def State.crewOf (s : State) (g : Gang) : Option Crew :=
  match g.crew with
  | some k => Map.find? s.crews k
  | none => none

/-- A shadow of a twin pair, whose irrevocable effects do not leave the crew (21 R439). -/
def State.isShadow (s : State) (g : Gang) : Bool := ((s.crewOf g).map Crew.shadow).getD false

/-- The gang and slice that a twin shadow's slice is paired with (21 R439). -/
def State.primaryOf (s : State) (g : Gang) (sl : Slice) : Option (Gang × Slice) :=
  match s.crewOf g with
  | some c =>
    if c.shadow then
      s.gangs.findSome? fun h =>
        if h.crew == c.partner then (h.slices.find? fun x => x.index == sl.index).map fun x => (h, x) else none
    else none
  | none => none

/-- A slice of a twin primary notes a value that it read. -/
def Slice.note (sl : Slice) (v : SVal) : Slice := { sl with noted := sl.noted.take sl.notePos ++ [v], notePos := sl.notePos + 1 }

/-- The primary's slice has not yet noted the next `n` values for a shadow's slice. -/
def State.lacksNotes (s : State) (g : Gang) (sl : Slice) (n : Nat) : Bool :=
  s.isShadow g && ((s.primaryOf g sl).map fun q => decide (q.2.noted.length < sl.notePos + n)).getD false

/-- What a shadow's slices still lack of the values that a word reads, by a count for each. -/
def State.needed (s : State) (g : Gang) (n : Slice → Nat) : List (Nat × Nat) :=
  (g.slices.filter fun sl => s.lacksNotes g sl (n sl)).map fun sl => (sl.sid, n sl)

/-- The next value that a shadow's slice takes from its primary's, and the slice after it. -/
def Slice.takeNote (sl primary : Slice) : SVal × Slice := (primary.noted.getD sl.notePos {}, { sl with notePos := sl.notePos + 1 })

/-- The gang runs in a twin crew. -/
def State.twin (s : State) (g : Gang) : Bool := ((s.crewOf g).map Crew.twin).getD false

/-- The lines that an access through the L1 touches. -/
def Access.lines (a : Access) : List Nat :=
  match a.loc with
  | .l1 pa _ => unitsOf 128 pa a.size
  | _ => []

/-- The L1 of a core has room for lines that are to be held: lines that it has, free ones, or ones that may go. -/
def State.roomFor (s : State) (core : Nat) (ks : List Nat) : Bool :=
  let l1 := (s.core core).l1
  let more := (ks.filter fun k => (Map.find? l1 k).isNone).eraseDups.length
  let goers := (l1.filter fun e => e.2.held == 0 && !ks.contains e.1).length
  decide (more + l1.length ≤ s.l1Lines core + goers)

/-- The lines of a twin crew's stores for which the L1 has no line but held ones; none where there is room. -/
def State.lineless (s : State) (g : Gang) (as : List Access) : List Nat :=
  let ks := as.flatMap Access.lines
  if s.twin g && !s.roomFor g.core ks then ks else []

/-- The slices paired with a gang's wait at this word for a check point that R441 forces. -/
def State.pairForced (s : State) (g : Gang) : Bool :=
  s.gangs.any fun h => h.park == .twin true && h.pc == g.pc && h.slices.map Slice.index == g.slices.map Slice.index &&
    ((s.crewOf g).map fun c => h.crew.isSome && h.crew == c.partner).getD false

/-- A check point comes before the stores of a twin crew's word: they would bring the lines that the crew holds above 1 MiB, find no line but by
evicting a held one, or the pair waits for it there (21 R441, R442). -/
def State.overHeld (s : State) (g : Gang) (as : List Access) : Bool :=
  s.twin g && !g.cleared &&
    let mine := ((s.gangs ++ s.cur.toList).filter fun h => h.crew == g.crew).flatMap fun h => h.slices.flatMap fun sl => sl.heldAt.map (· / 128)
    decide (8192 < ((mine ++ as.flatMap Access.lines).foldl NatSet.put []).length) || !(s.lineless g as).isEmpty || s.pairForced g

/-- Entries of an undo log (21 R437). -/
def logCapacity : Nat := 8192

/-- Note a granule in a crew's undo log before it changes, once in an interval (21 R437). A full log makes the interval
unrecoverable. -/
def State.logGranule (s : State) (crew : Option Nat) (core gr : Nat) : State :=
  match crew with
  | none => s
  | some k =>
    match Map.find? s.crews k with
    | none => s
    | some c =>
      if !c.rb || c.log.any (fun e => e.granule == gr) then s
      else if logCapacity ≤ c.log.length then { s with crews := s.crews.put k { c with recoverable := false } }
      else
        let co := s.core core
        let e : LogEntry :=
          { granule := gr, empty := co.empty.contains gr, bytes := Map.getMany 0 co.scratch (16 * gr) 16
            bad := co.scratchBad.filter fun u => u / 2 == gr }
        { s with crews := s.crews.put k { c with log := e :: c.log } }

/-- Write scratchpad bytes of a crew, logged. -/
def State.writeScratchOf (s : State) (crew : Option Nat) (core off : Nat) (bs : List Byte) : State :=
  ((granulesOf off bs.length).foldl (fun s gr => s.logGranule crew core gr) s).writeScratch core off bs

/-- Perform one store part of a slice. A home store may be posted when the word is issued late (09 R205). Before a store that is
held, what the core has of its bytes to write back goes home, so that a rollback loses the interval's stores alone (21 R441). -/
def State.storePart (s : State) (g : Gang) (sl : Slice) (a : Access) (bs : List Byte) : Slice × State :=
  let s1 := s.orderPosted g a.loc a.size
  let tw := s1.twin g
  match a.loc with
  | .l1 pa _ =>
    let sl2 := if tw then
        { sl with sig := sigAppend sl.sig a.gen bs
                  heldAt := (List.range bs.length).foldl (fun m i => m.put (pa + i)) sl.heldAt }
      else sl
    let s2 := if tw then s1.writeBackRange g.core pa bs.length else s1
    (sl2, s2.writeL1 g.core pa bs tw)
  | .home pa =>
    if s1.isShadow g then (sl, s1)
    else if s1.late then (sl, { s1 with posted := s1.posted ++ [{ gid := g.gid, addr := pa, data := bs }] })
    else (sl, s1.writeHome pa bs)
  | .scratch off =>
    (if tw then { sl with sig := sigAppend sl.sig a.gen bs } else sl, s1.writeScratchOf g.crew g.core off bs)

/-- The unloaded figure of a load of bytes (08 R189): scratchpad, an L1 hit, and for the words that miss the slowest of a hit in L2 by the distance
of the slice that serves it, an HBM miss, the Cellar. Atomics on scratchpad and LDX in space 2 take the scratchpad's figure (log 66). -/
def State.loadFigure (s : State) (core : Nat) (w : Where) (n : Nat) : Nat :=
  let far := fun (pa : Nat) =>
    if !(s.slice (homeOf pa)).home.contains (pa / 128) then (if inCellar pa then 1500 else 520)
    else if homeOf pa = groupOf core then 180
    else if homeOf pa / 4 = dieOf core then 260 else 340
  match w with
  | .scratch _ => 20
  | .home pa => far pa
  | .l1 pa ro =>
    let c := s.core core
    let l := ((Map.find? c.l1 (pa / 128)).getD (Line.init c.cgen ro)).retag c.cgen ro
    let ws := if unit8 pa n then l.missingUnit c.cgen (pa % 128) else l.missing c.cgen (pa % 128) n
    ws.foldl (fun t k =>
      let a := pa / 128 * 128 + 4 * k
      max t (if (s.slice (groupOf core)).hit a then 180 else far a)) 28

/-- An atomic at home: the issuing core first writes back and drops its own copies of the bytes (06 R131, 11 R241). -/
def State.prepareAtomic (s : State) (core pa n : Nat) : State :=
  ((s.writeBackRange core pa n).invalidateRange core pa n false).dropRemote core pa n

end Sys2Proof.Machine
end

