-- ==== Sys2Proof/Machine/Stores.lean ====
section
/-! DEFINITION. The partition's store rooms as LDX and STX reach them (06 R132): where the Larder storage (16 R348) and
the Loft (18 R376) lie, and what a write of a pass descriptor's STATE byte does (16 R350). -/

namespace Sys2Proof.Machine

def Part.init : Part := { Part.reset with dies := [], larderSize := 0, regs := [] }

def State.part (s : State) (p : Nat) : Part := Map.get Part.init s.parts p
def State.setPart (s : State) (p : Nat) (x : Part) : State := { s with parts := s.parts.put p x }

/-- The stack groups of a partition, in increasing order (22 R460). -/
def Part.groups (p : Part) : List Nat := p.dies.flatMap fun d => (List.range 4).map (4 * d + ·)

/-- Bytes of the Loft. -/
def loftSize : Nat := 0x4000000

/-- Where a unit's Larder share begins: the top of its stack's populated HBM. -/
def Part.shareBase (p : Part) (group : Nat) : Nat := group * stackWindow + stackBytes - p.larderSize

/-- The physical address of a space-4 offset: shares in increasing stack-group order (16 R348). -/
def Part.larderAddr (p : Part) (off : Nat) : Option Nat :=
  if p.larderSize = 0 then none
  else (p.groups[off / p.larderSize]?).map fun g => p.shareBase g + off % p.larderSize

/-- The physical address of a Loft offset: directly below the Larder storage of the lowest stack group (18 R376). -/
def Part.loftAddr (p : Part) (off : Nat) : Option Nat :=
  if off < loftSize then (p.groups.head?).map fun g => p.shareBase g - loftSize + off else none

/-- Free a pass: its slots, record area and grid are discarded (16 R350). -/
def Part.freePass (p : Part) (pass : Nat) : Part :=
  { p with slots := p.slots.filter (fun e => e.1 / 2 ^ 24 != pass), shares := p.shares.filter (fun h => h.pass != pass) }

/-- The passes whose STATE byte a space-4 write sets to 0. -/
def passesFreed (off : Nat) (bs : List Byte) : List Nat :=
  (List.range bs.length).filterMap fun i =>
    if (off + i) % 128 = 0 ∧ off + i < 0x8000 ∧ bs.getD i 1 = 0 then some ((off + i) / 128) else none

/-- A space-4 write: bytes at their home; a 0 in a STATE byte frees the pass. -/
def State.writeLarder (s : State) (part off : Nat) (bs : List Byte) : State :=
  match (s.part part).larderAddr off with
  | none => s
  | some pa =>
    let s1 := s.writeVertices pa bs
    s1.setPart part ((passesFreed off bs).foldl Part.freePass (s1.part part))

end Sys2Proof.Machine
end

