-- ==== Sys2Proof/Machine/ScalarMem.lean ====
section
/-! DEFINITION. Scalar memory (06 R130 to R134): LD, ST, AMO, LDX, STX and the range walks. A word's slices are checked
before any is performed; slices whose translation faults park the gang and are performed after service (10 R226). -/

namespace Sys2Proof.Machine

/-- The slice's scalar part is still to be performed. -/
def Slice.scalarDue (sl : Slice) : Bool :=
  match sl.unfin with
  | none => true
  | some p => p.scalar

/-- Check every slice that has its part to do, in position order, threading the translation buffers. -/
def State.checkSlices (s : State) (g : Gang) (f : State → Slice → Check × State) : List (Slice × Option Check) × State :=
  g.slices.foldl
    (fun p sl =>
      if sl.scalarDue then
        let (c, s') := f p.2 sl
        (p.1 ++ [(sl, some c)], s')
      else (p.1 ++ [(sl, none)], p.2)) ([], s)

/-- A slice's tags are checked before its access: the trap that decides is the lowest-positioned slice's (06 R121, R130). -/
def tagFirst (tags : Slice → Option Trap) (check : State → Slice → Check × State) (s : State) (sl : Slice) : Check × State :=
  match tags sl with
  | some t => (.trap t, s)
  | none => check s sl

/-- The first trap among checks. -/
def firstTrapOf (cs : List (Slice × Option Check)) : Option Trap :=
  cs.findSome? fun p =>
    match p.2 with
    | some (.trap t) => some t
    | _ => none

/-- The first translation fault among checks. -/
def firstFaultOf (cs : List (Slice × Option Check)) : Option FaultRec :=
  cs.findSome? fun p =>
    match p.2 with
    | some (.fault f) => some f
    | _ => none

/-- A part of the word at hand has stored to a HOME page. -/
def Slice.homeDone (sl : Slice) : Bool := (sl.unfin.map Parts.home).getD false

/-- Perform the checked parts in position order; a performed slice is marked done. Each check stands with its slice as the word reads it,
`sls` are the slices as they have become. -/
def State.performSlices (s : State) (cs : List (Slice × Option Check)) (sls : List Slice) (home : Bool)
    (f : State → Slice → Slice → Access → Slice × State) : List Slice × State :=
  (cs.zip sls).foldl
    (fun p q =>
      match q.1.2 with
      | some (.ok a) =>
        let (sl, s') := f p.2 q.1.1 q.2 a
        (p.1 ++ [{ sl with unfin := some { scalar := false, lanes := 0, home := home } }], s')
      | some _ => (p.1 ++ [{ q.2 with unfin := some { scalar := true, lanes := 0, home := home } }], p.2)
      | none => (p.1 ++ [q.2], p.2)) ([], s)

/-- The accesses that passed their checks. -/
def accessesOf (cs : List (Slice × Option Check)) : List Access :=
  cs.filterMap fun p => match p.2 with
    | some (.ok a) => some a
    | _ => none

/-- A store to a HOME page among the accesses: the word ends its region (05 R110). -/
def homeStore (cs : List (Slice × Option Check)) : Bool :=
  cs.any fun p =>
    match p.2 with
    | some (.ok a) => match a.loc with
      | .home _ => true
      | _ => false
    | _ => false

/-- An irrevocable effect of a crew with rollback makes its interval unrecoverable (21 R436). -/
def State.irrevocable (s : State) (g : Gang) : State :=
  match s.rbCrew g with
  | some (k, c) => { s with crews := s.crews.put k { c with recoverable := false } }
  | none => s

/-- Park the present gang on a translation fault. -/
def State.parkFault (s : State) (g : Gang) (f : FaultRec) (entry : Option Word64 := none) : State :=
  let (tok, s') := s.addFault f (.strand g.gid)
  s'.setCur { g with park := .fault tok f.va entry }

/-- AMO and VATOM, whose results at home a shadow takes from its primary (21 R442). -/
def isAtomic : Instr → Bool
  | .amo _ | .vatom _ => true
  | _ => false

/-- How a twin crew's word waits before its stores: for a check point, before an irrevocable one or where R441 forces it; after it, for the lines
that its stores will hold (21 R441, R442). -/
def storeWait (home forced : Bool) (ks : List Nat) (s : State) (g : Gang) : Option Gang :=
  if s.twin g && !g.cleared && home then some { g with park := .twin false }
  else if forced then some { g with park := .twin true }
  else if ks.isEmpty then none
  else some { g with park := .held (.room ks), waiting := true }

/-- A scalar memory word: tags, checks of every slice, then the parts. `store` says that a home access is a HOME store, `writes` that the word
writes memory. A part is performed from the slice as the word reads it to the slice as it has become. -/
def scalarMem (i : Instr) (s : State) (store writes : Bool) (tags : RCtx → Slice → Option Trap)
    (check : Gang → RCtx → State → Slice → Check × State)
    (perform : Gang → RCtx → State → Slice → Slice → Access → Slice × State) : Out :=
  runWord i s fun g s =>
    let c := s.rctx g
    let (cs, s1) := s.checkSlices g (tagFirst (tags c) (check g c))
    match firstTrapOf cs with
    | some t => .next (s1.trapped g t)
    | none =>
      let home := store && (homeStore cs || g.slices.any Slice.homeDone)
      let wait := storeWait home (store && s1.overHeld g (accessesOf cs)) (s1.lineless g (accessesOf cs)) s1 g
      if let some g1 := wait then .next (s1.setCur g1)
      else if home && isAtomic i && g.slices.any (fun sl => s1.lacksNotes g sl 1) then .next (s1.holdWord g (.notes (s1.needed g fun _ => 1)))
      else
        let s2 := if home then s1.irrevocable g else s1
        let (g1, s2) := s2.orderLoads g (accessesOf cs) writes
        let (sls, s3) := s2.performSlices cs g1.slices home (perform g c)
        match firstFaultOf cs with
        | some f => .next (s3.parkFault { g with slices := sls } f)
        | none =>
          .next (s3.wordDone { g with slices := sls.map (·.advance (wordBytes i) (regionEnding i || home)) })

/-- Bytes of a size code. -/
def sizeBytes (size : BitVec 2) : Nat := 2 ^ size.toNat

/-- The result of a load part: at once, or when it returns if the word is issued late. -/
def State.loadScalar (s : State) (g : Gang) (c : RCtx) (sl : Slice) (a : Access) (d : SReg) (signed : Bool) : Slice × State :=
  let lat := Lat.variable (s.loadFigure g.core a.loc a.size)
  let s1 := s.orderPosted g a.loc a.size
  if s1.late && d != 0 then
    let (space, addr, ro) := match a.loc with
      | .l1 pa ro => (0, pa, ro)
      | .home pa => (1, pa, false)
      | .scratch off => (2, off, false)
    let sl2 := sl.writeS c lat d (sl.scalNow d)
    let k := sl.scalKey d
    let req : Deferred := { space := space, addr := addr, size := a.size, signed := signed, half := 0, por := a.por, ro := ro }
    ({ sl2 with pending := sl2.pending.map fun p =>
        if p.n == c.word && p.targ == .scalar k then { p with load := some req } else p }, s1)
  else
    let (bs, bad, s2) := s1.readAt g.core a.loc a.size
    (sl.writeS c lat d ⟨extend signed bs, bad || a.por⟩, s2)

/-- The address of LD and ST (06 R130). -/
def nmAddr (o : FormNM) (rd : ReadS) : Word64 := (rd o.sa).v + o.off.signExtend 64

/-- LD (06 R130). -/
def execLd (o : FormNM) (s : State) : Out :=
  scalarMem (.ld o) s false false (fun c sl => poisonTrap (sl.readS c) [o.sa])
    (fun g c s sl => s.resolve g sl .load (nmAddr o (sl.readS c)) (sizeBytes o.size))
    (fun g c s _ acc a => s.loadScalar g c acc a o.sd o.sx)

/-- ST (06 R130): the low bytes of the register in the sd field. -/
def execSt (o : FormNM) (s : State) : Out :=
  scalarMem (.st o) s true true (fun c sl => poisonTrap (sl.readS c) [o.sd, o.sa])
    (fun g c s sl => s.resolve g sl .store (nmAddr o (sl.readS c)) (sizeBytes o.size))
    (fun g c s sl acc a => s.storePart g acc a (toBytes (sl.readS c o.sd).v a.size))

/-! ## Atomics (06 R131) -/

/-- The atomic operations: ADD, AND, OR, XOR, MIN, MAX, MINN, MAXN, SWAP, CAS as 0 to 9. -/
def atomicNew {n : Nat} (op : Nat) (old x cmp : BitVec n) : BitVec n :=
  match op with
  | 0 => old + x
  | 1 => old &&& x
  | 2 => old ||| x
  | 3 => old ^^^ x
  | 4 => if old.slt x then old else x
  | 5 => if old.slt x then x else old
  | 6 => if old.ult x then old else x
  | 7 => if old.ult x then x else old
  | 8 => x
  | _ => if old = cmp then x else old

/-- The value an atomic of `size` bytes leaves, from the bytes it finds. -/
def atomicBytes (op size : Nat) (old : List Byte) (x cmp : Word64) : List Byte :=
  toBytes (atomicNew op (BitVec.ofNat (8 * size) (natOfBytes old)) (x.setWidth (8 * size)) (cmp.setWidth (8 * size))) size

/-- Perform one atomic at its place: the old bytes, whether they were poisoned, and the state. -/
def State.atomicAt (s : State) (g : Gang) (sl : Slice) (a : Access) (op : Nat) (x cmp : Word64) :
    List Byte × Bool × Slice × State :=
  let s1 := s.orderPosted g a.loc a.size
  match a.loc with
  | .scratch off =>
    let (old, bad) := s1.readScratch g.core off a.size
    (old, bad, sl, s1.writeScratchOf g.crew g.core off (atomicBytes op a.size old x cmp))
  | .home pa | .l1 pa _ =>
    match s1.primaryOf g sl with
    | some (_, p) =>
      let (v, sl1) := sl.takeNote p
      (toBytes v.v a.size, v.tag, sl1, s1)
    | none =>
      let s2 := s1.prepareAtomic g.core pa a.size
      let old := s2.bytesAt pa a.size
      let bad := s2.poisonedAt pa a.size || a.por
      (old, bad, if s2.twin g then sl.note ⟨extend false old, bad⟩ else sl, s2.writeHome pa (atomicBytes op a.size old x cmp))

/-- AMO (06 R131). -/
def execAmo (o : FormNR) (s : State) : Out :=
  let op := (o.fn.extractLsb' 0 4).toNat
  let size := 2 ^ (o.fn.extractLsb' 4 2).toNat
  scalarMem (.amo o) s true true
    (fun c sl => poisonTrap (sl.readS c) (if op = 9 then [o.sd, o.sa, o.sb] else [o.sa, o.sb]))
    (fun g c s sl => s.resolve g sl .atomic (sl.readS c o.sa).v size)
    (fun g c s sl acc a =>
      let (old, bad, sl1, s1) := s.atomicAt g acc a op (sl.readS c o.sb).v (sl.readS c o.sd).v
      (sl1.writeS c (.variable (s.loadFigure g.core a.loc a.size)) o.sd ⟨extend true old, bad⟩, s1))

/-! ## LDX and STX (06 R132) -/

/-- The address of LDX and STX. -/
def nxAddr (o : FormNX) (rd : ReadS) : Word64 := (rd o.sa).v + o.off.signExtend 64

/-- The checks of LDX and STX by space (06 R132): the row of the space that replaces step 2 of R130, then alignment, then the rest of the row in
the place of step 4, then translation and permission. -/
def State.resolveX (s : State) (g : Gang) (sl : Slice) (k : AccKind) (space : Nat) (a : Word64) (size : Nat) : Check × State :=
  let hole : Check × State := (.trap ⟨Cause.addressHole, a⟩, s)
  let bad : Check × State := (.trap ⟨Cause.misaligned, a⟩, s)
  let room : Option Nat := match space with
    | 4 => (s.part g.part).larderAddr a.toNat
    | _ => (s.part g.part).loftAddr a.toNat
  let outside : Bool := match space with
    | 0 | 3 => decide (2 ^ 56 ≤ a.toNat)
    | 1 => decide (2 ^ 52 ≤ a.toNat)
    | 2 => decide (scratchSize ≤ a.toNat)
    | _ => room.isNone
  if outside then hole
  else if a.toNat % size ≠ 0 then bad
  else
    match space with
    | 0 => s.resolvePlace g (!sl.priv) k a size (.virt a.toNat)
    | 1 =>
      if k == .store && s.owned g.part a.toNat size && s.hitsWaiter a.toNat size then (.trap ⟨Cause.protection, a⟩, s)
      else (.ok { loc := .home a.toNat, size := size, por := false, gen := a }, s)
    | 2 => if scratchSize < a.toNat + size then hole else (.ok { loc := .scratch a.toNat, size := size, por := false, gen := a }, s)
    | 3 =>
      if 2 ^ 56 < sl.stkb.toNat + a.toNat + size then hole
      else s.resolvePlace g (!sl.priv) k a size (.virt (sl.stkb.toNat + a.toNat))
    | _ => (.ok { loc := .home (room.getD 0), size := size, por := false, gen := a }, s)

/-- A space-1 access of a physical address that holds nothing of the partition's: there is no memory (11 R243), or it is another
partition's, which no access reaches (22 R460; log 14). -/
def State.atHole (s : State) (part space : Nat) (a : Access) : Bool :=
  space == 1 &&
    match a.loc with
    | .home pa => !s.owned part pa a.size
    | _ => false

/-- What a load of a physical address that holds nothing writes: a free value with a free tag (log 14). -/
def Slice.loadHole (sl : Slice) (c : RCtx) (lat : Lat) (d : SReg) (signed : Bool) (size : Nat) : Slice :=
  sl.writeS c lat d ⟨extend signed ((List.range size).map (Config.holeByte c.word sl.sid)), Config.holeTag c.word sl.sid⟩

/-- LDX (06 R132, privileged). -/
def execLdx (o : FormNX) (s : State) : Out :=
  scalarMem (.ldx o) s false false (fun c sl => poisonTrap (sl.readS c) [o.sa])
    (fun g c s sl => s.resolveX g sl .load o.space.toNat (nxAddr o (sl.readS c)) (sizeBytes o.size))
    (fun g c s _ acc a =>
      if s.atHole g.part o.space.toNat a then (acc.loadHole c (.variable (s.loadFigure g.core a.loc a.size)) o.sd o.sx a.size, s)
      else s.loadScalar g c acc a o.sd o.sx)

/-- STX (06 R132, privileged): space 1 counts as a store to a HOME page, and stores nothing where nothing is (log 14); a space-4 store may free a
pass (16 R350). -/
def execStx (o : FormNX) (s : State) : Out :=
  scalarMem (.stx o) s (decide (o.space.toNat < 4)) true (fun c sl => poisonTrap (sl.readS c) [o.sd, o.sa])
    (fun g c s sl => s.resolveX g sl .store o.space.toNat (nxAddr o (sl.readS c)) (sizeBytes o.size))
    (fun g c s sl acc a =>
      let bs := toBytes (sl.readS c o.sd).v a.size
      if s.atHole g.part o.space.toNat a then (acc, s)
      else if o.space.toNat = 4 then (acc, (s.orderPosted g a.loc a.size).writeLarder g.part (nxAddr o (sl.readS c)).toNat bs)
      else s.storePart g acc a bs)

/-! ## Range maintenance (06 R133, R134) -/

/-- The range checks: first and last byte in one aperture, and within its limit. TVAL is SA whichever byte fails (log 85, DESIGN CHOICE). -/
def rangeTrap (g : Segs) (a len : Word64) : Option Trap :=
  if len = 0 then none
  else
    let last := a + len - 1
    if apertureOf a = none ∨ apertureOf a ≠ apertureOf last ∨ last.toNat < a.toNat then some ⟨Cause.addressHole, a⟩
    else
      match apertureOf a with
      | none => some ⟨Cause.addressHole, a⟩
      | some ap =>
        match g.limit ap a len.toNat with
        | .error t => some t
        | .ok _ => none

/-- The virtual range of a maintenance word, none for a scratchpad range or a length of 0. -/
def rangePlace (g : Segs) (a len : Word64) : Option (Nat × Nat) :=
  if len = 0 then none
  else
    match apertureOf a with
    | some ap =>
      match g.limit ap a len.toNat with
      | .ok (.virt va) => some (va, len.toNat)
      | _ => none
    | none => none

/-- What the walker does to the bytes of one page's part of the range, by physical address. -/
inductive WalkKind where
  | cwb (inv : Bool) | cinv | icinv
  deriving DecidableEq, Repr

def State.walkRange (s : State) (core : Nat) (k : WalkKind) (pa n : Nat) : State :=
  match k with
  | .cwb inv =>
    let s1 := s.writeBackRange core pa n
    if inv then (s1.invalidateRange core pa n false).dropRemote core pa n else s1
  | .cinv => (s.invalidateRange core pa n true).dropRemote core pa n
  | .icinv => (s.dropCode core pa n).dropRemote core (pa / 128 * 128) ((pa + n + 127) / 128 * 128 - pa / 128 * 128)

/-- The lines the walker visits that some cache of the core holds: the only lines on which it has an effect. -/
def State.heldLines (s : State) (core : Nat) : List Nat :=
  let c := s.core core
  c.l1.map Prod.fst ++ c.code.map Prod.fst ++ (s.slice (groupOf core)).remote.map Prod.fst

/-- The translation that the walker uses: pages that are not mapped, not resident or, unless `home`, of kind HOME are skipped, and no
fault is raised. -/
def State.peekPage (s : State) (g : Gang) (home : Bool) (va : Nat) : Option Leaf :=
  match (s.xlate g.core g.part g.ctx va { user := false }).1 with
  | .ok _ l => if l.kind = 2 && !home then none else some l
  | _ => none

/-- The pages of a virtual range, found by steps of one leaf or of 4 KiB. -/
def State.pagesOf (s : State) (g : Gang) (home : Bool) : Nat → Nat → Nat → List (Nat × Nat)
  | 0, _, _ => []
  | fuel + 1, va, n =>
    if n = 0 then []
    else
      match s.peekPage g home va with
      | some l =>
        let k := min n (l.vbase + l.size - va)
        (l.base + (va - l.vbase), k) :: s.pagesOf g home fuel (va + k) (n - k)
      | none =>
        let k := min n (4096 - va % 4096)
        s.pagesOf g home fuel (va + k) (n - k)

/-- Walk a range: the parts of it that lie in lines the caches hold, in increasing address order. -/
def State.walkVirtual (s : State) (g : Gang) (k : WalkKind) (va n : Nat) : State :=
  let lines := s.heldLines g.core
  (s.pagesOf g false (n / 4096 + 2) va n).foldl
    (fun s p =>
      let ks := (lines.filter fun l => overlap (128 * l) 128 p.1 p.2).foldl NatSet.put []
      ks.foldl
        (fun s l =>
          let a := max (128 * l) p.1
          let b := min (128 * l + 128) (p.1 + p.2)
          s.walkRange g.core k a (b - a)) s) s

/-- A gang's posted stores to the bytes of a virtual range are performed: an instruction fetch behind an ICINV of the range sees them
(09 R210, row Store HOME: refetch; 10 R218). -/
def State.landStores (s : State) (g : Gang) (va n : Nat) : State :=
  (s.pagesOf g true (n / 4096 + 2) va n).foldl (fun s p => s.performBefore (fun e => e.gid == g.gid) p.1 p.2) s

/-- A range-maintenance word: the walk of every slice in position order, then the gang parks until it completes. -/
def rangeWord (i : Instr) (s : State) (o : FormNR) (k : WalkKind) : Out :=
  runWord i s fun g s =>
    let c := s.rctx g
    let check := fun (sl : Slice) =>
      (poisonTrap (sl.readS c) [o.sa, o.sb]).orElse fun _ => rangeTrap sl.segs (sl.readS c o.sa).v (sl.readS c o.sb).v
    match g.firstTrap check with
    | some t => .next (s.trapped g t)
    | none =>
      let s1 := g.slices.foldl
        (fun s sl =>
          match rangePlace sl.segs (sl.readS c o.sa).v (sl.readS c o.sb).v with
          | some (va, n) => (if k == .icinv then s.landStores g va n else s).walkVirtual g k va n
          | none => s) s
      let done := g.slices.filterMap fun sl =>
        (rangePlace sl.segs (sl.readS c o.sa).v (sl.readS c o.sb).v).map fun p => (p.1, p.2, s1.nextId + 1)
      let g' := { g.mapSlices (·.advance (wordBytes i) (regionEnding i)) with park := .walk }
      if k == .icinv then .next ({ s1 with nextId := s1.nextId + 1 }.wordDone { g' with icinvs := g'.icinvs ++ done })
      else .next (s1.wordDone g')

def execCwb (o : FormNR) (s : State) : Out := rangeWord (.cwb o) s o (.cwb (o.fn.getLsbD 0))
def execCinv (o : FormNR) (s : State) : Out := rangeWord (.cinv o) s o .cinv
def execIcinv (o : FormNR) (s : State) : Out := rangeWord (.icinv o) s o .icinv

end Sys2Proof.Machine
end

