-- ==== Sys2Proof/Machine/Cells.lean ====
section
/-! DEFINITION. Completion cells (01 R13 to R28; 06 R136 to R140): the cell's fields, signals in the cell's single order
at home, the release of parked strands, and the span of an edge. -/

namespace Sys2Proof.Machine

/-! ## Spans (01 R20) -/

/-- The smallest tier that holds a source and a quadrant: Q, C, K, D, P as 0 to 4. -/
def Src.span (a : Src) (q : Nat) : Nat :=
  let core := q / 4
  match a with
  | .quad p => if p = q then 0 else if p / 4 = core then 1 else if p / 48 = q / 48 then 2 else 3
  | .core c => if c = core then 1 else if c / 12 = core / 12 then 2 else 3
  | .group g => if g = core / 12 then 2 else 3
  | .pod => 4

/-- The widest span of several sources. -/
def spanOf (as : List Src) (q : Nat) : Nat := (as.map (Src.span · q)).foldl max 0

/-- The device-wide number of a gang's quadrant (00 R4). -/
def Gang.quadNo (g : Gang) : Nat := 4 * g.core + g.quad

/-! ## The cell's fields (01 R13) -/

/-- COUNT, signed. -/
def State.cellCount (s : State) (pa : Nat) : Int := (BitVec.ofNat 32 (s.wordAt pa 4)).toInt

/-- The byte that holds STATUS in bits 1:0 and NARROW in bit 7. -/
def State.cellFlags (s : State) (pa : Nat) : Byte := s.byteAt (pa + 4)

def State.cellStatus (s : State) (pa : Nat) : Nat := (s.cellFlags pa).toNat % 4
def State.cellNarrow (s : State) (pa : Nat) : Bool := (s.cellFlags pa).getLsbD 7

/-- Status codes (01 R14). -/
def statusOk : Nat := 0
def statusDiscarded : Nat := 1
def statusCancelled : Nat := 2
def statusFaulted : Nat := 3

/-- COUNT − amount, saturated to 32 bits signed (01 R15). -/
def saturate32 (x : Int) : Int := max (-2147483648) (min 2147483647 x)

/-- Release every strand parked on a cell whose COUNT is zero or below: WAITER returns to 0; a gang whose last cell this was
is ready, pinned when the cell's NARROW is 1 (01 R15, R23; 06 R121). -/
def State.releaseCell (s : State) (pa : Nat) : State :=
  if 0 < s.cellCount pa then s
  else
    let srcs := Map.get [] s.cellSrc pa
    let narrow := s.cellNarrow pa
    let rel := fun (g : Gang) =>
      match g.park with
      | .await cs lean =>
        if cs.contains pa then
          let cs' := NatSet.drop cs pa
          { g with
            park := if cs'.isEmpty then .none else .await cs' lean
            ready := cs'.isEmpty
            pinned := g.pinned || narrow
            srcs := if lean then [] else g.srcs ++ srcs }
        else g
      | _ => g
    let s1 := if s.waitedCells.contains pa then s.writeHome (pa + 8) (List.replicate 8 0) else s
    { s1 with gangs := s1.gangs.map rel, cur := s1.cur.map rel }

/-- One signal, in the cell's single order (01 R14, R15): COUNT less the amount, the larger status kept, NARROW set by a
source that reconciled at span C or narrower; then the release. -/
def State.signalCell (s : State) (pa : Nat) (amount : Int) (code : Nat) (narrow : Bool) (src : Src) : State :=
  let count := saturate32 (s.cellCount pa - amount)
  let f := s.cellFlags pa
  let st := max (s.cellStatus pa) code
  let f' : Byte := (f &&& 0x7C) ||| BitVec.ofNat 8 st ||| (if narrow || s.cellNarrow pa then 0x80 else 0)
  let s1 := s.writeHome pa (toBytes (BitVec.ofInt 32 count) 4 ++ [f'])
  let s2 := { s1 with cellSrc := s1.cellSrc.put pa (Map.get [] s1.cellSrc pa ++ [src]) }
  s2.releaseCell pa

/-- CELLINIT at home (06 R138): COUNT set, STATUS, NARROW and WAITER 0, the other bits kept; refused while strands wait. -/
def State.initCell (s : State) (pa : Nat) (count : BitVec 32) : State :=
  let s1 := s.writeHome pa (toBytes count 4 ++ [s.cellFlags pa &&& 0x7C])
  let s2 := s1.writeHome (pa + 8) (List.replicate 8 0)
  { s2 with cellSrc := s2.cellSrc.erase pa }

/-- A nonzero WAITER handle. -/
def waiterOf (word : Nat) : BitVec 64 := if Config.waiterHandle word = 0 then 1 else Config.waiterHandle word

/-- Mark a cell as having a parked strand. -/
def State.markWaiter (s : State) (pa : Nat) : State := s.writeHome (pa + 8) (toBytes (waiterOf s.free) 8)

/-! ## The checks of a cell address -/

/-- The checks of a cell instruction (01 R13, R17; 06 R130): a scratchpad address raises ADDRESS_HOLE. The aperture is tested before R13's
alignment, an order that the spec does not give (log 58, DESIGN CHOICE). -/
def State.resolveCell (s : State) (g : Gang) (sl : Slice) (k : AccKind) (a : Word64) : Check × State :=
  if apertureOf a = some .scratch then (.trap ⟨Cause.addressHole, a⟩, s) else s.resolve g sl k a 16

/-- The physical address of a checked access. -/
def Access.pa (a : Access) : Nat :=
  match a.loc with
  | .l1 pa _ | .home pa => pa
  | .scratch off => off

/-- The core's dirty copies of a cell are written back before the home slice acts on it, so that a strand's cell operation
follows its own earlier stores (01 R9); stores that have been posted to the cell come before it, so that none comes to a cell on which a
strand has parked since (01 R17). -/
def State.flushCell (s : State) (core pa : Nat) : State := (s.performBefore (fun _ => true) pa 16).prepareAtomic core pa 16

/-- How a signal that no cell instruction makes reaches its cell (01 R17). -/
inductive Reach where
  | at (pa : Nat)
  | fault (why level entryAt : Nat) (pool : Bool) (va : Nat)
  | cannot
  deriving DecidableEq, Repr

/-- The cell of an engine's signal, with the rights the operation carries (01 R17, 11 R247). -/
def State.reachCell (s : State) (unit part ctx : Nat) (g : Segs) (a : Word64) : Reach × State :=
  if a.toNat % 16 ≠ 0 then (.cannot, s)
  else
    match apertureOf a with
    | none | some .scratch => (.cannot, s)
    | some ap =>
      match g.limit ap a 16 with
      | .ok (.virt va) =>
        let (x, s') := s.xlate unit part ctx va { r := true, w := true, cell := true, user := g.user }
        match x with
        | .ok pa _ => (.at pa, s')
        | .denied => (.cannot, s')
        | .fault w l e p => (.fault w l e p va, s')
      | _ => (.cannot, s)

end Sys2Proof.Machine
end

