-- ==== Sys2Proof/Machine/Branch.lean ====
section
/-! DEFINITION. Transfers of control: checked targets (03 R48, R49), BR and J (06 R128), CALL, CALLR and the windows' spill
(05 R101 to R105, 06 R129). -/

namespace Sys2Proof.Machine

/-! ## Looking at code without fetching it (03 R49) -/

/-- The bytes at a physical address as instruction fetch would find them: the instruction cache, the local slice's copy,
or home; nothing is filled. -/
def State.peekCode (s : State) (core pa n : Nat) : List Byte :=
  let c := s.core core
  match Map.find? c.code (pa / 128) with
  | some l => Map.getMany 0 l.data (pa % 128) n
  | none =>
    let l := s.slice (groupOf core)
    if homeOf pa = groupOf core then s.bytesAt pa n
    else if l.hit pa then (List.range n).map fun i => l.byte (pa + i)
    else s.bytesAt pa n

/-- A parcel of code at a virtual address, none when it cannot be read for the test of R49. -/
def State.peekParcel (s : State) (g : Gang) (user : Bool) (a : Word64) : Option Parcel :=
  if 2 ^ 56 ≤ a.toNat then none
  else
    match (s.xlate g.core g.part g.ctx a.toNat { x := true, user := user }).1 with
    | .ok pa l => if l.por || s.poisonedAt pa 4 then none else some (ofBytes 32 (s.peekCode g.core pa 4))
    | _ => none

/-- A parcel that would make a target lie inside a wide word: bit 31 set (R49). -/
def State.blocksTarget (s : State) (g : Gang) (user : Bool) (a : Word64) : Bool :=
  match s.peekParcel g user a with
  | some p => isWide p
  | none => false

/-- The tests of a checked target: alignment (R48), then the parcels at a − 8 and a − 4 (R49). -/
def State.targetTrap (s : State) (g : Gang) (user : Bool) (a : Word64) : Option Trap :=
  if a.extractLsb' 0 2 ≠ 0 || s.blocksTarget g user (a - 8) || s.blocksTarget g user (a - 4) then
    some ⟨Cause.misalignedFetch, a⟩
  else none

/-- A displacement in parcels from the word's first parcel (R48). -/
def dispTarget {n : Nat} (pc : Word64) (d : BitVec n) : Word64 := pc + 4 * d.signExtend 64

/-! ## BR and J (06 R128) -/

/-- Conditions on a signed 64-bit value: EQZ, NEZ, LTZ, GEZ, GTZ, LEZ, ALW as 0 to 6. -/
def condition (cc : BitVec 3) (x : Word64) : Bool :=
  match cc.toNat with
  | 0 => x == 0
  | 1 => x != 0
  | 2 => x.slt 0
  | 3 => !x.slt 0
  | 4 => (0 : Word64).slt x
  | 5 => !(0 : Word64).slt x
  | _ => true

/-- A word in which each slice goes on at its own next address, after a check that may trap. -/
def jumpWord (i : Instr) (s : State) (check : Gang → RCtx → Slice → Option Trap) (next : RCtx → Slice → Word64) : Out :=
  runWord i s fun g s =>
    let c := s.rctx g
    match g.firstTrap (check g c) with
    | some t => .next (s.trapped g t)
    | none => .next (s.wordDone (g.mapSlices fun sl => sl.after (next c sl) (regionEnding i)))

/-- BR: the branch condition's tag traps; a taken target is checked. -/
def execBr (o : FormNB) (s : State) : Out :=
  jumpWord (.br o) s
    (fun g c sl =>
      (poisonTrap (sl.readS c) [o.sa]).orElse fun _ =>
        if condition o.c (sl.readS c o.sa).v then s.targetTrap g (!sl.priv) (dispTarget sl.pc o.x) else none)
    (fun c sl => if condition o.c (sl.readS c o.sa).v then dispTarget sl.pc o.x else sl.pc + 4)

/-- J always jumps, to a checked target. -/
def execJ (o : FormNJ) (s : State) : Out :=
  jumpWord (.j o) s (fun g _ sl => s.targetTrap g (!sl.priv) (dispTarget sl.pc o.x)) (fun _ sl => dispTarget sl.pc o.x)

/-! ## Windows and the Attic spill (05 R101 to R105) -/

/-- A hidden group with the ring positions of its entries: the caller's window bases (R102). -/
structure Group where
  link : Link
  wb : Nat
  lb : Nat
  deriving DecidableEq, Repr

/-- The resident groups, newest first, from the window bases that the newest one's caller had. -/
def groupsFrom (lregs : Nat) : List Link → Nat → Nat → List Group
  | [], _, _ => []
  | l :: ls, wb, lb =>
    let wb' := (wb + 56 - 2 * l.kS) % 56
    let lb' := (lb + lregs - 4 * l.kV % lregs) % lregs
    { link := l, wb := wb', lb := lb' } :: groupsFrom lregs ls wb' lb'

/-- Bytes of a group's record (R103). -/
def recordSize (l : Link) : Nat := 16 * l.kS + 64 * l.kV + 8 * ((l.kV + 3) / 4) + 16

/-- The limits of R102 on the resident groups. -/
def limitsHold (lregs : Nat) (ls : List Link) : Bool :=
  decide (ls.length ≤ 16) && decide (24 + (ls.map fun l => 2 * l.kS).sum ≤ 56) &&
    decide (64 + (ls.map fun l => 4 * l.kV).sum ≤ lregs)

/-- How many of the newest groups stay resident: the oldest are spilled until the limits hold. -/
def keepCount (lregs : Nat) (ls : List Link) : Nat → Nat
  | 0 => 0
  | n + 1 => if limitsHold lregs (ls.take (n + 1)) then n + 1 else keepCount lregs ls n

/-- A bit vector from bits, lowest first. -/
def ofBits (bs : List Bool) : Nat := bs.foldr (fun b n => (if b then 1 else 0) + 2 * n) 0

/-- The tag nibbles of a group's lane registers, register j in byte j/2, the low nibble for even j, padded with zeros. -/
def laneTagBytes (sl : Slice) (lregs lb kV : Nat) : List Byte :=
  let nib := fun (j : Nat) =>
    if j < 4 * kV then ofBits ((List.range 4).map fun k => (Map.get ({} : LVal) sl.lane (4 * ((lb + j) % lregs) + k)).tag) else 0
  (List.range (8 * ((kV + 3) / 4))).map fun b => BitVec.ofNat 8 (nib (2 * b) + 16 * nib (2 * b + 1))

/-- The record of a group (R103). -/
def Slice.record (sl : Slice) (lregs : Nat) (gr : Group) : List Byte :=
  let scal := (List.range (2 * gr.link.kS)).map fun i => Map.get ({} : SVal) sl.scal (8 + (gr.wb + i) % 56)
  let lane := (List.range (4 * gr.link.kV)).flatMap fun j =>
    (List.range 4).map fun k => Map.get ({} : LVal) sl.lane (4 * ((gr.lb + j) % lregs) + k)
  scal.flatMap (fun x => toBytes x.v 8) ++ lane.flatMap (fun x => toBytes x.v 4) ++
    laneTagBytes sl lregs gr.lb gr.link.kV ++
    toBytes (BitVec.ofNat 64 (ofBits (scal.map SVal.tag))) 8 ++
    toBytes (BitVec.ofNat 64 ((offsetOf gr.link.ret) + 2 ^ 56 * (gr.link.kS + 16 * gr.link.kV))) 8

/-- The spill limit (R104): the offset of sp when sp is an Attic address at most STKL, STKL otherwise. -/
def Slice.spillLimit (sl : Slice) : Nat :=
  let sp := (sl.scalNow 2).v
  if apertureOf sp = some .attic ∧ offsetOf sp ≤ sl.stkl.toNat then offsetOf sp else sl.stkl.toNat

/-- What a call of a slice would do: links kept, bytes spilled. -/
structure CallPlan where
  links : List Link
  spill : List Byte
  groups : Nat
  deriving DecidableEq, Repr

/-- The plan of a call with slides kS and kV (R102). -/
def Slice.callPlan (sl : Slice) (lregs : Nat) (new : Link) : CallPlan :=
  let links := new :: sl.link
  let keep := keepCount lregs links links.length
  let groups := { link := new, wb := sl.wb, lb := sl.lb : Group } :: groupsFrom lregs sl.link sl.wb sl.lb
  let out := (groups.drop keep).reverse
  { links := links.take keep, spill := out.flatMap (sl.record lregs), groups := out.length }

/-- The 8-byte words of a range. -/
def words8 (a n : Nat) : List Nat := (List.range (n / 8)).map fun i => a + 8 * i

/-- Check the Attic accesses of a spill or refill, 8 bytes each: the first that traps or faults. -/
def State.checkAttic (s : State) (g : Gang) (sl : Slice) (k : AccKind) (off n : Nat) : Option Check × List Access × State :=
  (words8 off n).foldl
    (fun p a =>
      match p.1 with
      | some _ => p
      | none =>
        let (c, s') := p.2.2.resolvePlace g (!sl.priv) k (BitVec.ofNat 64 (0xFD * 2 ^ 56 + a)) 8 (.virt (sl.stkb.toNat + a))
        match c with
        | .ok acc => (none, p.2.1 ++ [acc], s')
        | c => (some c, p.2.1, s')) (none, [], s)

/-- Spilled bytes of one slice, stored through its L1 like its stores. -/
def State.spillBytes (s : State) (g : Gang) (sl : Slice) (as : List Access) (bs : List Byte) : Slice × State :=
  (as.foldl
    (fun (p : List Byte × Slice × State) a =>
      let (sl', s') := p.2.2.storePart g p.2.1 a (p.1.take 8)
      (p.1.drop 8, sl', s')) (bs, sl, s)).2

/-- A CALL or CALLR of one slice: its check, then its effect. -/
def State.callCheck (s : State) (g : Gang) (sl : Slice) (kS kV : Nat) : Check × State :=
  let plan := sl.callPlan g.lregs { ret := sl.pc + 4, kS := kS, kV := kV }
  let n := plan.spill.length
  if n ≠ 0 ∧ sl.spillLimit < sl.spillp.toNat + n then (.trap ⟨Cause.atticOverflow, sl.spillp⟩, s)
  else
    let (bad, _, s') := s.checkAttic g sl .store sl.spillp.toNat n
    (bad.getD (.ok { loc := .scratch 0, size := 0, por := false, gen := 0 }), s')

/-- One slice of a call, whose target has been checked. -/
def State.callSlice (s : State) (g : Gang) (sl : Slice) (kS kV : Nat) (target : Word64) : Slice × State :=
  let plan := sl.callPlan g.lregs { ret := sl.pc + 4, kS := kS, kV := kV }
  let n := plan.spill.length
  let (_, as, s1) := s.checkAttic g sl .store sl.spillp.toNat n
  let (sl1, s2) := s1.spillBytes g sl as plan.spill
  ({ sl1.after target true with
      link := plan.links
      spillp := sl.spillp + BitVec.ofNat 64 n
      spilled := sl.spilled + plan.groups
      wb := (sl.wb + 2 * kS) % 56
      lb := (sl.lb + 4 * kV) % g.lregs }, s2)

/-- A call of a slice spills a group. -/
def Slice.spills (sl : Slice) (lregs kS kV : Nat) : Bool := !(sl.callPlan lregs { ret := sl.pc + 4, kS := kS, kV := kV }).spill.isEmpty

/-- A call: targets checked, spills checked, then every slice slides and goes on at its target. A spill stores registers, so that the gang's
deferred loads are performed before it. -/
def callWord (i : Instr) (s : State) (o : FormNC) (tags : RCtx → Slice → Option Trap) (target : RCtx → Slice → Word64) : Out :=
  runWord i s fun g s =>
    let c := s.rctx g
    let tags := fun sl => (tags c sl).orElse fun _ => s.targetTrap g (!sl.priv) (target c sl)
    let (cs, s1) := s.checkSlices g (tagFirst tags fun s sl => s.callCheck g sl o.kS.toNat o.kV.toNat)
    match firstTrapOf cs, firstFaultOf cs with
    | some t, _ => .next (s1.trapped g t)
    | none, some f => .next (s1.parkFault g f)
    | none, none =>
      let (g1, s1) := if g.slices.any (·.spills g.lregs o.kS.toNat o.kV.toNat) then s1.performAll g else (g, s1)
      let (sls, s2) := (g.slices.zip g1.slices).foldl
        (fun (p : List Slice × State) x =>
          let (sl', s') := p.2.callSlice g x.2 o.kS.toNat o.kV.toNat (target c x.1)
          (p.1 ++ [sl'], s')) ([], s1)
      .next (s2.wordDone { g with slices := sls })

/-- CALL (06 R129). -/
def execCall (o : FormNC) (s : State) : Out :=
  callWord (.call o) s o (fun _ _ => none) (fun _ sl => dispTarget sl.pc o.x)

/-- CALLR: the target register is in [15:11] (03 R53, 06 R129). -/
def execCallr (o : FormNC) (s : State) : Out :=
  let r : SReg := o.x.extractLsb' 11 5
  callWord (.callr o) s o (fun c sl => poisonTrap (sl.readS c) [r]) (fun c sl => (sl.readS c r).v)

/-! ## RET: the newest group comes back (05 R105) -/

/-- Undo a slide. -/
def Slice.slideBack (sl : Slice) (lregs : Nat) (l : Link) : Slice :=
  { sl with wb := (sl.wb + 56 - 2 * l.kS) % 56, lb := (sl.lb + lregs - 4 * l.kV % lregs) % lregs }

/-- A refilled register loses its outstanding results of before. -/
def Slice.refillS (sl : Slice) (key : Nat) (x : SVal) : Slice :=
  { sl with scal := Map.set {} sl.scal key x, pending := sl.pending.filter fun p => p.targ != .scalar key }

def Slice.refillV (sl : Slice) (ring k : Nat) (x : LVal) : Slice :=
  { sl with lane := Map.set {} sl.lane (4 * ring + k) x, pending := sl.pending.filter fun p => p.targ != .lane ring k }

/-- Put a record's bytes back into the ring at the caller's window bases; `bad` tells which 8-byte words of the record lie
in poisoned units: their registers, and those whose tags they hold, are refilled tagged (R105). Of a tag field of more than 8 bytes the words count
one by one (log 84, DESIGN CHOICE). -/
def Slice.refill (sl : Slice) (lregs : Nat) (l : Link) (bs : List Byte) (bad : List Bool) : Slice :=
  let sz := recordSize l
  let tagsAt := 16 * l.kS + 64 * l.kV
  let byteBad := fun (b : Nat) => bad.getD (b / 8) false
  let scalTags := natOfBytes ((bs.drop (sz - 16)).take 8)
  let s1 := (List.range (2 * l.kS)).foldl
    (fun sl i =>
      let v : Word64 := ofBytes 64 ((bs.drop (8 * i)).take 8)
      sl.refillS (8 + (sl.wb + i) % 56) ⟨v, scalTags.testBit i || byteBad (8 * i) || byteBad (sz - 16)⟩) sl
  (List.range (4 * l.kV)).foldl
    (fun sl j =>
      (List.range 4).foldl
        (fun sl k =>
          let off := 16 * l.kS + 16 * j + 4 * k
          let v : Word32 := ofBytes 32 ((bs.drop off).take 4)
          let tb := tagsAt + j / 2
          let tag := (bs.getD tb 0).getLsbD (4 * (j % 2) + k)
          sl.refillV ((sl.lb + j) % lregs) k ⟨v, tag || byteBad off || byteBad tb⟩) sl) s1

/-- How a RET of one slice comes out. -/
inductive RetPlan where
  /-- The link stack is empty and nothing is spilled: the strand ends (03 R60). -/
  | ends
  /-- The newest group is resident. -/
  | resident (l : Link)
  /-- The newest group is refilled from the Attic: its link, the record's bytes, its poisoned words. -/
  | refill (l : Link) (bs : List Byte) (bad : List Bool)
  | stop (c : Check)
  deriving DecidableEq, Repr

/-- Read 8-byte words of the Attic as loads do. -/
def State.readWords (s : State) (g : Gang) (as : List Access) : List Byte × List Bool × State :=
  as.foldl
    (fun p a =>
      let (bs, bad, s') := (p.2.2.orderPosted g a.loc 8).readAt g.core a.loc 8
      (p.1 ++ bs, p.2.1 ++ [bad || a.por], s')) ([], [], s)

/-- RET reads the Attic in this slice. -/
def Slice.refills (sl : Slice) : Bool := sl.link.isEmpty && sl.spilled != 0

/-- Decide what RET does in a slice (R105). A return address that is no multiple of 4 traps before anything is popped (03 R48). -/
def State.retPlan (s : State) (g : Gang) (sl : Slice) : RetPlan × State :=
  match sl.link with
  | l :: _ => (.resident l, s)
  | [] =>
    if sl.spilled = 0 then (.ends, s)
    else
      let (bad, as, s1) := s.checkAttic g sl .load (sl.spillp.toNat - 8) 8
      match bad with
      | some c => (.stop c, s1)
      | none =>
        let (lb, pb, s2) := s1.readWords g as
        if pb.any id then (.stop (.trap ⟨Cause.poisonUse, 32⟩), s2)
        else
          let e := natOfBytes lb
          let l : Link := { ret := BitVec.ofNat 64 (e % 2 ^ 56), kS := e / 2 ^ 56 % 16, kV := e / 2 ^ 60 % 16 }
          if l.ret.extractLsb' 0 2 ≠ 0 then (.stop (.trap ⟨Cause.misalignedFetch, l.ret⟩), s2) else
          let n := recordSize l
          let (bad, as, s3) := s2.checkAttic g sl .load (sl.spillp.toNat - n) n
          match bad with
          | some c => (.stop c, s3)
          | none =>
            let (bs, pb, s4) := s3.readWords g as
            (.refill l bs pb, s4)

/-- A slice after a RET that does not end it. -/
def Slice.retDone (sl : Slice) (lregs : Nat) : RetPlan → Slice
  | .resident l => { (sl.slideBack lregs l).after l.ret true with link := sl.link.drop 1 }
  | .refill l bs bad =>
    let sl1 := (sl.slideBack lregs l).refill lregs l bs bad
    { sl1.after l.ret true with
      spillp := sl.spillp - BitVec.ofNat 64 (recordSize l), spilled := sl.spilled - 1 }
  | _ => sl

end Sys2Proof.Machine
end

