-- ==== Sys2Proof/Machine/Records.lean ====
section
/-! DEFINITION. The fault record (22 R453), MSI-X vectors (R451), and the check-interval register (21 R431). -/

namespace Sys2Proof.Machine

/-- Raise a vector of a partition: 1 to 63; 0 raises nothing (R451). A vector that the MSI-X table masks sets its pending bit instead. -/
def State.raiseVector (s : State) (part : Nat) (v : Word64) : State :=
  match Map.find? s.parts part with
  | none => s
  | some p =>
    if v = 0 ∨ 64 ≤ v.toNat then s
    else if p.unmasked.contains v.toNat then { s with msix := s.msix ++ [(part, v.toNat)] }
    else s.setPart part { p with pending := p.pending.put v.toNat }

/-- The mask bit of a vector is written: a vector unmasked while its pending bit is set is sent, and the bit cleared (R451). -/
def State.maskVector (s : State) (part v : Nat) (masked : Bool) : State :=
  match Map.find? s.parts part with
  | none => s
  | some p =>
    if masked then s.setPart part { p with unmasked := p.unmasked.drop v }
    else
      let s1 := s.setPart part { p with unmasked := p.unmasked.put v, pending := p.pending.drop v }
      if p.pending.contains v then { s1 with msix := s1.msix ++ [(part, v)] } else s1

/-- A register of BAR0. -/
def State.reg (s : State) (part off : Nat) : Word64 := Map.get 0 (s.part part).regs off

def State.setReg (s : State) (part off : Nat) (v : Word64) : State :=
  s.setPart part { s.part part with regs := Map.set 0 (s.part part).regs off v }

def regFrecBase : Nat := 0x10000
def regFrecSize : Nat := 0x10008
def regFrecHead : Nat := 0x10010
def regFrecTail : Nat := 0x10018
def regFrecVec : Nat := 0x10020

def regFatalStat : Nat := 0x68200

/-- A Tlaow port of the partition, four for each of its dies (22 R460), takes work: one at least is not fenced (21 R445). -/
def Part.port (p : Part) : Bool := p.dies.any fun d => (List.range 4).any fun i => !p.fenced.contains (65536 * 6 + 4 * d + i)

/-- The fabric's requests reach a partition: it is not off, no fatal error has stopped it, and its ports are enabled (21 R446; 22 R459,
R460), not all of them fenced (21 R445). -/
def State.portsUp (s : State) (part : Nat) : Bool :=
  s.device.ports && decide ((s.part part).power < 2) && s.reg part regFatalStat == 0 && (s.part part).port

/-- A launch or a fabric request ends IDLE (22 R459). -/
def State.wake (s : State) (part : Nat) : State :=
  match Map.find? s.parts part with
  | some p => if p.power = 1 then s.setPart part { p with power := 0 } else s
  | none => s

/-- The fields of a fault record. -/
structure Record where
  kind : Nat
  cause : Nat
  ctx : Nat
  unit : Nat := 0
  op8 : Nat := 0
  addr1 : Word64 := 0
  addr2 : Word64 := 0
  info : Word64 := 0
  graph : Nat := 0
  node : Nat := 0xFFFF
  deriving DecidableEq, Repr

/-- The bytes of a record; DROPPED tells that records were dropped before it. -/
def Record.bytes (r : Record) (dropped : Bool) : List Byte :=
  let where_ := r.graph % 1024 + 65536 * (r.node % 65536) + if dropped then 2 ^ 63 else 0
  [BitVec.ofNat 8 r.kind, BitVec.ofNat 8 r.cause] ++ toBytes (BitVec.ofNat 16 (r.ctx % 4096)) 2 ++
    toBytes (BitVec.ofNat 16 r.unit) 2 ++ [BitVec.ofNat 8 r.op8, 0] ++ toBytes r.addr1 8 ++ toBytes r.addr2 8 ++
    toBytes r.info 8 ++ toBytes (BitVec.ofNat 64 where_) 8 ++ List.replicate 24 0

/-- Write one record to the partition's ring in host memory: dropped when the ring has no size or is full, which DROPPED of the next one tells. -/
def State.record (s : State) (part : Nat) (r : Record) : State :=
  let size := (s.reg part regFrecSize).toNat
  let tail := (s.reg part regFrecTail).toNat
  let next := if size = 0 then 0 else (tail + 1) % size
  if size = 0 ∨ next = (s.reg part regFrecHead).toNat then s.setPart part { s.part part with dropped := true }
  else
    let at_ := (s.reg part regFrecBase).toNat + 64 * tail
    let s1 := { s with host := Map.setMany 0 s.host at_ (r.bytes (s.part part).dropped) }
    let s2 := s1.setPart part { s1.part part with dropped := false }
    (s2.setReg part regFrecTail (BitVec.ofNat 64 next)).raiseVector part (s2.reg part regFrecVec)

/-! ## The check-interval register (21 R431, R432) -/

/-- CHKIV of a context. -/
def State.chkiv (s : State) (ctx : Nat) : Word64 :=
  match Map.find? s.ctxs ctx with
  | some c => c.chkiv
  | none => 0

def State.setChkiv (s : State) (ctx : Nat) (v : Word64) : State :=
  match Map.find? s.ctxs ctx with
  | some c => { s with ctxs := s.ctxs.put ctx { c with chkiv := v } }
  | none => s

/-- COUNT + 1, saturating at 0xFFFF, and some sticky bits set (R431). -/
def chkivSet (v : Word64) (bits : Nat) : Word64 :=
  let count := min 0xFFFF ((v.toNat / 65536) % 65536 + 1)
  BitVec.ofNat 64 (count * 65536) ||| (v &&& 0x7F) ||| BitVec.ofNat 64 bits

/-- An engine of a context consumes poison (R430, R432): its consumption bit. -/
def State.consume (s : State) (ctx bit : Nat) : State := s.setChkiv ctx (chkivSet (s.chkiv ctx) (2 ^ bit))

/-- The consumption bits. -/
def chkCopy : Nat := 0
def chkMatrix : Nat := 1
def chkRay : Nat := 2
def chkLarder : Nat := 3
def chkFabric : Nat := 4

end Sys2Proof.Machine
end

