-- ==== Sys2Proof/Machine/Cmds.lean ====
section
/-! DEFINITION. Guard slots and guarded commands (03 R67 to R69): how a command is queued, waits on its slot, and is
discarded. -/

namespace Sys2Proof.Machine

/-- The engine whose queue a command joins. -/
inductive Engine where
  | copy | matrix | ray | larder | fabric
  deriving DecidableEq, Repr

def CmdOp.engine : CmdOp → Engine
  | .cpy | .cpy2 | .cpyg | .feset => .copy
  | .mwld | .mtile | .mq => .matrix
  | .trace | .march | .tex => .ray
  | .larder => .larder
  | .coll | .fput | .fget => .fabric

/-- The position of CELL in a command's operand block (12 R263, 13 R295, 15 R342, 19 R413); MTILE and MQ have it in their
record (13 R302). -/
def CmdOp.cellIx : CmdOp → Option Nat
  | .cpy => some 3
  | .cpy2 | .cpyg | .mwld | .coll => some 5
  | .feset => some 2
  | .march | .fput | .fget => some 4
  | _ => none

/-- The command's completion cell, 0 for none. -/
def Cmd.cell (c : Cmd) : Word64 := (c.op.cellIx.map fun k => c.regs.getD k 0).getD 0

/-- The state of a guard slot (03 R68). -/
def Slice.guardState (sl : Slice) (k : Nat) : GuardState := Map.get .unresolved sl.guards k

def Slice.setGuard (sl : Slice) (k : Nat) (x : GuardState) : Slice :=
  { sl with guards := Map.set .unresolved sl.guards k x }

/-- Where an engine's operation ends its edges (01 R20). -/
def Cmd.src (c : Cmd) : Src :=
  match c.op.engine with
  | .copy | .ray => .core c.core
  | .matrix => .quad c.quad
  | .larder => .group (groupOf c.core)
  | .fabric => .pod

/-! ## What every engine does with memory (11 R247, R251) -/

/-- How an engine's access comes out. -/
inductive Reached where
  | ok (w : Where) (por : Bool)
  | denied
  | fault (f : FaultRec)
  deriving DecidableEq, Repr

/-- Translate one address of an engine's access of `n` bytes, with the rights its command carries (11 R247). A write to a cell
with a nonzero WAITER is refused (01 R17). -/
def State.engineReach (s : State) (c : Cmd) (write : Bool) (unit : Nat) (p : Place) (n : Nat) : Reached × State :=
  match p with
  | .scratch off => (.ok (.scratch off) false, s)
  | .virt va =>
    let (x, s') := s.xlate c.core c.part c.ctx va { r := !write, w := write, user := c.segs.user }
    match x with
    | .fault why lv e pool =>
      (.fault { token := 0, part := c.part, ctx := c.ctx, va := va, acc := if write then 5 else 4, why := why, level := lv
                entryAt := e, pool := pool, units := [], unitno := unit, stage := .new, since := s.cycle }, s')
    | .denied => (.denied, s')
    | .ok pa l =>
      if write && s'.hitsWaiter pa n then (.denied, s')
      else (.ok (if l.kind = 2 then .home pa else .l1 pa (l.kind == 1)) l.por, s')

/-- Bytes read by an engine, with poison found, or what stops it. -/
inductive EngineRead where
  | ok (bs : List Byte) (bad : Bool)
  | stop (at_ : Word64)
  | fault (f : FaultRec)
  deriving DecidableEq, Repr

/-- Read bytes at a generic address through the core's L1, page by page; checked against the segments that the command
carries. -/
def State.engineRead (s : State) (c : Cmd) (unit : Nat) (a : Word64) (n : Nat) : EngineRead × State :=
  if n = 0 then (.ok [] false, s)
  else
    match apertureOf a with
    | none => (.stop a, s)
    | some ap =>
      match c.segs.limit ap a n with
      | .error _ => (.stop a, s)
      | .ok p =>
        let base := match p with
          | .virt va => va
          | .scratch off => off
        (pieces 4096 (n / 4096 + 2) base n).foldl
          (fun q x =>
            match q.1 with
            | .ok bs bad =>
              let place := match p with
                | .virt _ => Place.virt x.1
                | .scratch _ => Place.scratch x.1
              let (r, s1) := q.2.engineReach c false unit place x.2
              match r with
              | .ok w por =>
                let (b, bd, s2) := s1.readPlace c.core w x.2 false
                (.ok (bs ++ b) (bad || bd || por), s2)
              | .denied => (.stop (a + BitVec.ofNat 64 (x.1 - base)), s1)
              | .fault f => (.fault f, s1)
            | e => (e, q.2)) (.ok [] false, s)

/-- OP8 of an engine command (03 R66). -/
def CmdOp.op8 : CmdOp → Nat
  | .cpy => 0x90
  | .cpy2 => 0x91
  | .cpyg => 0x92
  | .feset => 0x93
  | .mwld => 0x98
  | .mtile => 0x99
  | .mq => 0x9A
  | .trace => 0xA0
  | .march => 0xA4
  | .tex => 0xA5
  | .larder => 0xA8
  | .coll => 0xB8
  | .fput => 0xBB
  | .fget => 0xBC

/-- Record an engine fault (22 R453). -/
def State.engineRecord (s : State) (c : Cmd) (cause unit : Nat) (addr1 addr2 info : Word64) : State :=
  s.record c.part { kind := 2, cause := cause, ctx := c.ctx, unit := unit, op8 := c.op.op8, addr1 := addr1, addr2 := addr2, info := info }

/-- Signal a finished operation's cell by 1 (R271): a cell that cannot be signalled is an engine fault and none is signalled;
a translation fault at the cell waits. The Bool tells that the operation is over. -/
def State.finishCmd (s : State) (c : Cmd) (cell : Word64) (status unit : Nat) (u : FaultUnit) : Bool × State :=
  if cell = 0 then (true, s)
  else
    let (r, s1) := s.reachCell c.core c.part c.ctx c.segs cell
    match r with
    | .at pa => (true, s1.signalCell pa 1 status false c.src)
    | .cannot => (true, s1.engineRecord c 0x0F unit 0 cell 0)
    | .fault why lv e pool va =>
      (false, (s1.addFault { token := 0, part := c.part, ctx := c.ctx, va := va, acc := 2, why := why, level := lv, entryAt := e
                             pool := pool, units := [], unitno := unit, stage := .new, since := s.cycle } u).2)

/-! ## Engine work that may stop -/

/-- What stops a piece of engine work: a permission, aperture or segment failure at an address; a translation fault; an empty
granule. -/
inductive Halt where
  | stop (at_ : Word64)
  | fault (f : FaultRec)
  | wait
  deriving DecidableEq, Repr

/-- Engine work: it threads the state and notes whether poison was read, and may stop. -/
abbrev Eng := ExceptT Halt (StateM (State × Bool))

/-- Run engine work from a state. -/
def State.run {α : Type} (s : State) (e : Eng α) : Except Halt α × State × Bool := e.run (s, false)

/-- Stop. -/
def halt {α : Type} (h : Halt) : Eng α := fun p => (.error h, p)

/-- Read the state. -/
def looking {α : Type} (f : State → α) : Eng α := fun p => (.ok (f p.1), p)

/-- Note that poison was read. -/
def noting (b : Bool) : Eng Unit := fun p => (.ok (), (p.1, p.2 || b))

/-- Change the state. -/
def doing (f : State → State) : Eng Unit := fun p => (.ok (), (f p.1, p.2))

/-- Read through the core's L1. -/
def readE (c : Cmd) (unit : Nat) (a : Word64) (n : Nat) : Eng (List Byte) := fun p =>
  match p.1.engineRead c unit a n with
  | (.ok bs b, s) => (.ok bs, (s, p.2 || b))
  | (.stop at_, s) => (.error (.stop at_), (s, p.2))
  | (.fault f, s) => (.error (.fault f), (s, p.2))

/-- Where each page's part of a range lies, for a read or a write: address of the part in the range, place, length. -/
def reachE (c : Cmd) (write : Bool) (unit : Nat) (a : Word64) (n : Nat) : Eng (List (Nat × Where × Nat)) :=
  if n = 0 then pure []
  else
    match apertureOf a with
    | none => halt (.stop a)
    | some ap =>
      match c.segs.limit ap a n with
      | .error _ => halt (.stop a)
      | .ok p =>
        let base := match p with
          | .virt va => va
          | .scratch off => off
        (pieces 4096 (n / 4096 + 2) base n).mapM fun x => fun q =>
          let place := match p with
            | .virt _ => Place.virt x.1
            | .scratch _ => Place.scratch x.1
          match q.1.engineReach c write unit place x.2 with
          | (.ok w por, s) => (.ok (x.1 - base, w, x.2), (s, q.2 || (por && !write)))
          | (.denied, s) => (.error (.stop (a + BitVec.ofNat 64 (x.1 - base))), (s, q.2))
          | (.fault f, s) => (.error (.fault f), (s, q.2))

/-- Read at home, as agents without an L1 do (11 R241). -/
def readHomeE (c : Cmd) (unit : Nat) (a : Word64) (n : Nat) : Eng (List Byte) := do
  let ps ← reachE c false unit a n
  let bss ← ps.mapM fun x => fun (q : State × Bool) =>
    match x.2.1 with
    | .l1 pa _ | .home pa => (.ok (q.1.bytesAt pa x.2.2), (q.1, q.2 || q.1.poisonedAt pa x.2.2))
    | .scratch off => (.ok (q.1.readScratch c.core off x.2.2).1, (q.1, q.2 || (q.1.readScratch c.core off x.2.2).2))
  pure bss.flatten

/-- The offsets in a list of parts read of the bytes that lie in a poisoned unit at home, or on a page that reads as poisoned. -/
def State.badBytes (s : State) (ps : List (Nat × Where × Nat × Bool)) : NatSet :=
  (ps.flatMap fun x => (List.range x.2.2.1).filterMap fun i =>
    let bad := x.2.2.2 || match x.2.1 with
      | .l1 pa _ | .home pa => s.poisonedAt (pa + i) 1
      | .scratch _ => false
    if bad then some (x.1 + i) else none).foldl NatSet.put []

/-- Read at home, with the bytes that were read with an uncorrectable error (19 R423). -/
def readMarkedE (c : Cmd) (unit : Nat) (a : Word64) (n : Nat) : Eng (List Byte × NatSet) := do
  let xs ← (pieces 4096 (n / 4096 + 2) a.toNat n).mapM fun x => fun (q : State × Bool) =>
    match (reachE c false unit (BitVec.ofNat 64 x.1) x.2).run (q.1, false) with
    | (.ok ps, s, por) => (.ok (ps.map fun y => (x.1 - a.toNat + y.1, y.2.1, y.2.2, por)), (s, q.2 || por))
    | (.error h, s, por) => (.error h, (s, q.2 || por))
  let bs ← readHomeE c unit a n
  let bad ← looking fun s => s.badBytes xs.flatten
  pure (bs, bad)

/-- Engine work whose reads are checked and not made. -/
def uncountedE {α : Type} (e : Eng α) : Eng α := fun p =>
  match e.run p with
  | (x, s, _) => (x, (s, p.2))

/-- Write bytes at places that have been reached: through the L1, at home on a HOME page, or into scratchpad, logged. -/
def State.engineStore (s : State) (c : Cmd) (w : Where) (bs : List Byte) : State :=
  match w with
  | .l1 pa _ => s.writeL1 c.core pa bs false
  | .home pa => s.writeHome pa bs
  | .scratch off => s.writeScratchOf c.crew c.core off bs

/-- Write bytes at home. -/
def State.homeStore (s : State) (c : Cmd) (w : Where) (bs : List Byte) : State :=
  match w with
  | .l1 pa _ | .home pa => s.writeHome pa bs
  | .scratch off => s.writeScratchOf c.crew c.core off bs

/-- Write a range of which every page has been reached. -/
def State.storeAll (s : State) (c : Cmd) (home : Bool) (ps : List (Nat × Where × Nat)) (bs : List Byte) : State :=
  ps.foldl (fun s x => (if home then State.homeStore else State.engineStore) s c x.2.1 ((bs.drop x.1).take x.2.2)) s

/-- Translate every page of a range, then write it. -/
def writeE (c : Cmd) (unit : Nat) (home : Bool) (a : Word64) (bs : List Byte) : Eng Unit := do
  let ps ← reachE c true unit a bs.length
  doing fun s => s.storeAll c home ps bs

/-- Write at home what a strand of the same core is to read after the AWAIT (13 R307, R311): a join of span Q bumps no generation, so that the
core's own copies of the words go, written back first, so that no older byte comes home after this write. -/
def writeSeenE (c : Cmd) (unit : Nat) (a : Word64) (bs : List Byte) : Eng Unit := do
  let ps ← reachE c true unit a bs.length
  doing fun s => (ps.foldl (fun s x =>
    match x.2.1 with
    | .l1 pa _ | .home pa => s.prepareAtomic c.core pa x.2.2
    | .scratch _ => s) s).storeAll c true ps bs

/-- A translation fault of an agent is in service: the agent waits (11 R251). -/
def State.engineWaits (s : State) (u : FaultUnit) : Bool := s.faults.any fun f => f.units.contains u

/-! ## Records that MQ hands to the task engine (13 R297, R302) -/

/-- What a record's address names (14 R307): a byte of a crew's scratchpad, or a virtual address. -/
def Cmd.recordKey (c : Cmd) (a : Word64) : Nat × Option Nat × Nat :=
  match apertureOf a with
  | some .scratch => (c.ctx, c.crew, offsetOf a)
  | some ap =>
    match c.segs.limit ap a 128 with
    | .ok (.virt va) => (c.ctx, none, va)
    | _ => (c.ctx, none, a.toNat)
  | none => (c.ctx, none, a.toNat)

/-- The key of a saved tile in its context's frame store: its record's address (14 R307). -/
def SavedTile.key (x : SavedTile) : Nat × Option Nat × Nat := x.cmd.recordKey x.at_

/-- The unit that waits on a translation fault of a queued command. -/
def Cmd.unit (c : Cmd) : FaultUnit :=
  match c.op.engine with
  | .copy => .copy c.id
  | .matrix => .matrix c.id
  | .ray => .ray c.id
  | .larder => .larder c.id
  | .fabric => .fabric c.id

/-- The number of the engine that a command runs on (00 R4). -/
def Cmd.unitNo (c : Cmd) : Nat :=
  match c.op.engine with
  | .matrix => c.quad
  | _ => c.core

/-- Take a command out of its queue. -/
def State.dropCmd (s : State) (id : Nat) : State := { s with cmds := s.cmds.filter fun x => x.id != id }

/-- A record that cannot be read: an engine fault record that names the record address alone (R308). -/
def State.unreadable (s : State) (c : Cmd) : State :=
  (s.engineRecord c 0x0F c.unitNo (c.regs.getD 0 0) 0 0).dropCmd c.id

/-- PRED of a record at home. -/
def State.predAt (s : State) (pa : Nat) : Nat := s.wordAt (pa + 6) 2

/-- What a registration carries after its address and tier: the chain length of a restored tile, and the TILE node. -/
def mqExtra (len : Option Nat) (node : Option (Nat × Nat)) : List Word64 :=
  [BitVec.ofNat 64 ((len.map (· + 1)).getD 0), BitVec.ofNat 64 ((node.map fun p => p.1 + 1).getD 0), BitVec.ofNat 64 ((node.map Prod.snd).getD 0)]

def Cmd.mqLen (c : Cmd) : Option Nat := if c.regs.getD 2 0 = 0 then none else some ((c.regs.getD 2 0).toNat - 1)
def Cmd.mqNode (c : Cmd) : Option (Nat × Nat) :=
  if c.regs.getD 3 0 = 0 then none else some ((c.regs.getD 3 0).toNat - 1, (c.regs.getD 4 0).toNat)

/-- Register a record at its home (R297): it is ready at once when its PRED is 0, or when it is a saved tile's (R304). A TILE node takes
the record's own tier. A record in scratchpad has no home, and only a restored tile waits with it. -/
def State.registerMq (s : State) (c : Cmd) : State :=
  match s.run (do
    let ps ← reachE c false c.unitNo (c.regs.getD 0 0) 128
    match ps with
    | (_, .l1 pa _, _) :: _ | (_, .home pa, _) :: _ => fun q => (.ok (some pa), (q.1, q.2 || q.1.poisonedAt pa 128))
    | _ => if c.mqLen.isSome then pure none else halt (.stop (c.regs.getD 0 0))) with
  | (.error (.fault f), s1, _) => (s1.addFault f c.unit).2
  | (.error _, s1, _) => s1.unreadable c
  | (.ok pa, s1, true) => (s1.consume c.ctx chkMatrix).unreadable c
  | (.ok pa, s1, false) =>
    let tier := match c.mqNode, pa with
      | some _, some a => BitVec.ofNat 64 (s1.wordAt (a + 4) 1)
      | _, _ => c.regs.getD 1 0
    let m : MqRec := { cmd := { c with regs := [c.regs.getD 0 0, tier] }, pa := pa
                       ready := if pa.map s1.predAt = some 0 ∨ c.mqLen.isSome then some s1.nextId else none, len := c.mqLen, node := c.mqNode }
    { s1.dropCmd c.id with nextId := s1.nextId + 1, mqs := s1.mqs ++ [m] }

/-! ## Discarding (03 R69) -/

/-- Signal an operation's cell by 1, if it has one that can be signalled; a cell that cannot be is left. The signal's source
reconciles at span P (01 R17, R22). -/
def State.signalReached (s : State) (c : Cmd) (r : Reach) (code : Nat) : State :=
  match r with
  | .at pa => s.signalCell pa 1 code false c.src
  | _ => s

/-- A FALSE command whose cell waits on a translation fault. -/
def State.markFalse (s : State) (id : Nat) : State :=
  { s with cmds := s.cmds.map fun x => if x.id == id then { x with gstate := .false } else x }

/-- Signal DISCARDED at a cell and drop the command; a translation fault at the cell is served first (01 R17). -/
def State.discardAt (s : State) (c : Cmd) (cell : Word64) : State :=
  if cell = 0 then s.dropCmd c.id
  else
    match s.reachCell c.core c.part c.ctx c.segs cell with
    | (.fault why lv e pool va, s1) =>
      (s1.markFalse c.id).addFault { token := 0, part := c.part, ctx := c.ctx, va := va, acc := 2, why := why, level := lv
                                     entryAt := e, pool := pool, units := [], unitno := c.unitNo, stage := .new
                                     since := s.cycle } c.unit |>.2
    | (.cannot, s1) => (s1.engineRecord c 0x0F c.unitNo 0 cell 0).dropCmd c.id
    | (r, s1) => (s1.signalReached c r statusDiscarded).dropCmd c.id

/-- Discard a command: its cell is signalled with DISCARDED (R69). For MTILE and MQ the engine first reads CELL from the record
(13 R302). -/
def State.discardCmd (s : State) (c : Cmd) : State :=
  match c.op with
  | .mtile | .mq =>
    match s.run (readE c c.unitNo (c.regs.getD 0 0 + 0x60) 8) with
    | (.ok bs, s1, bad) => if bad then (s1.consume c.ctx chkMatrix).unreadable c else s1.discardAt c (ofBytes 64 bs)
    | (.error (.fault f), s1, _) => ((s1.markFalse c.id).addFault f c.unit).2
    | (.error _, s1, _) => s1.unreadable c
  | _ => s.discardAt c c.cell

/-- A command waits on its guard slot. -/
def Cmd.waits (c : Cmd) : Bool := c.guard.isSome && c.gstate == .unresolved

/-- Some command of the same strand for the same engine stands ahead of it and waits on a slot (03 R69). -/
def State.behindWaiting (s : State) (c : Cmd) : Bool :=
  (s.cmds.takeWhile fun x => x.id != c.id).any fun x =>
    x.sid == c.sid && x.op.engine == c.op.engine && (x.waits || x.gstate == .false)

/-- The context is saved: its engine operations stand at their preservation points (10 R230). -/
def State.ctxSaved (s : State) (ctx : Nat) : Bool := ((Map.find? s.ctxs ctx).map Ctx.saved).getD false

/-- Commands that wait in a quadrant's queue for its engine (13 R283): those that may not start yet, and those that have the engine still to
take. -/
def State.matrixQueue (s : State) (e : Nat) : Nat :=
  (s.cmds.filter fun c => c.op.engine == .matrix && c.op != .mq && c.quad == e && !s.ctxSaved c.ctx).length +
    (s.tiles.filter fun r => r.stage == .acquire && r.got == 0 && r.head == e).length

/-- A command may start: its guard is TRUE or it has none, and no waiting command of its strand stands ahead (R69). -/
def State.mayStart (s : State) (c : Cmd) : Bool := c.gstate == .true && !s.behindWaiting c && !s.ctxSaved c.ctx

/-! ## Rays in flight (15 R316) -/

/-- Rays in flight that an engine holds. -/
def Ray.inFlight (r : Ray) : Bool := !r.spilled && r.phase != .final

/-- Rays and lanes of marches in flight on a core, queued marches counted. -/
def State.raysInFlight (s : State) (core : Nat) : Nat :=
  (s.rays.filter fun r => r.cmd.core == core && r.inFlight).length +
    ((s.marches.filter fun m => m.cmd.core == core && !m.spilled).map fun m => m.lanes.length).sum +
    ((s.cmds.filter fun c => c.op == .march && c.core == core).map fun c => (c.regs.length - 6) / 9).sum

/-- Rays that an engine holds. -/
def rayCapacity : Nat := 256

/-- The engine cannot take every active lane of a word. -/
def State.raysFull (s : State) (g : Gang) (pm : Pm) : Bool :=
  decide (rayCapacity < s.raysInFlight g.core + (g.slices.map fun sl => (lanesOf (sl.act (s.rctx g) pm)).length).sum)

/-- Larder request entries of a core (16 R358). -/
def larderEntries : Nat := 64

/-- Operations in flight on a core. -/
def State.larderBusy (s : State) (core : Nat) : Nat := (s.larder.filter fun o => o.cmd.core == core).length

/-- The operations of a lane word of the Larder do not fit. -/
def State.larderCrowded (s : State) (g : Gang) (pm : Pm) : Bool :=
  decide (larderEntries < s.larderBusy g.core + (g.slices.map fun sl => (lanesOf (sl.act (s.rctx g) pm)).length).sum)

/-! ## The empty marks of an FE copy (12 R272, R273) -/

/-- Rows of a copy: count, bytes, and destination stride (R265 to R267). -/
def Cmd.rows (c : Cmd) : Nat × Nat × Int :=
  let r := fun k => c.regs.getD k 0
  let shape := fun (x : Word64) => ((x.extractLsb' 32 32).toNat, (x.extractLsb' 0 32).toNat)
  match c.op with
  | .cpy => (if r 2 = 0 then 0 else 1, (r 2).toNat, 0)
  | .cpy2 => ((shape (r 2)).1, (shape (r 2)).2, (r 3).toInt)
  | .cpyg => ((shape (r 3)).1, (shape (r 3)).2, (shape (r 3)).2)
  | .feset => (if r 1 = 0 then 0 else 1, (r 1).toNat, 0)
  | _ => (0, 0, 0)

/-- The generic address at which destination row `k` begins. -/
def Cmd.rowDst (c : Cmd) (k : Nat) : Word64 := c.regs.getD 0 0 + BitVec.ofInt 64 (c.rows.2.2 * k)

/-- The core-absolute scratchpad offset of a generic address, as bound at issue. -/
def Cmd.scratchOff (c : Cmd) (a : Word64) : Nat := c.segs.scrb.toNat + offsetOf a

/-- The scratchpad granules of a copy's destination. -/
def Cmd.dstGranules (c : Cmd) : List Nat :=
  let (nr, rb, _) := c.rows
  (List.range nr).flatMap fun k =>
    if apertureOf (c.rowDst k) = some .scratch then granulesOf (c.scratchOff (c.rowDst k)) rb else []

/-- An FPUT's or an FGET's packets of at most 192 bytes, cut at aligned 8 bytes of RADDR, so that each of these is carried by one packet (19 R399,
R401, R421); and the acknowledgements that an FPUT waits for, one of each and one of the remote signal (R400). -/
def Cmd.packets (c : Cmd) : Nat :=
  let n := (c.regs.getD 3 0).toNat
  if n = 0 then 0 else (n + (c.regs.getD 1 0).toNat % 8 + 191) / 192

/-- Where packet `k` begins in the range, and its bytes. -/
def Cmd.packetAt (c : Cmd) (k : Nat) : Nat := 192 * k - (c.regs.getD 1 0).toNat % 8
def Cmd.packetLen (c : Cmd) (k : Nat) : Nat := min (c.packetAt (k + 1)) (c.regs.getD 3 0).toNat - c.packetAt k

def Cmd.acks (c : Cmd) : Nat := c.packets + if c.regs.getD 5 0 = 0 then 0 else 1

/-- Add to a core's fabric acknowledgement counter, and take away from it. -/
def State.owe (s : State) (core n : Nat) : State :=
  let c := s.core core
  s.setCore core { c with ack := c.ack + BitVec.ofNat 32 n }
def State.paid (s : State) (core n : Nat) : State :=
  let c := s.core core
  s.setCore core { c with ack := c.ack - BitVec.ofNat 32 n }

/-- At its fork an FE copy marks every destination granule empty (R265, R273), and an FPUT adds to its core's counter (19
R400). -/
def State.atFork (s : State) (c : Cmd) : State :=
  match c.op with
  | .cpy | .cpy2 | .cpyg => if c.flag then s.setEmpty c.core c.dstGranules else s
  | .fput => s.owe c.core c.acks
  | _ => s

/-- The span at which a command's fork reconciles its source: C for copies, weights, tiles and marches; the word's tier for MQ;
P for the fabric (12 R270, 13 R297, 15 R342, 19 R417, R422). -/
def Cmd.forkSpan (c : Cmd) : Nat :=
  match c.op.engine with
  | .fabric => 4
  | .matrix => if c.op = .mq then (c.regs.getD 1 0).toNat else 1
  | _ => 1

/-- Register every MQ record that may be registered now: no waiting command of its strand stands ahead (R69, 13 R297). -/
def State.registerAll (s : State) : State :=
  (s.cmds.filter fun c => c.op == .mq).foldl
    (fun s c => if s.mayStart c && !s.engineWaits c.unit then s.registerMq c else s) s

/-- The commands of a strand that wait on a slot. -/
def State.waitingOn (s : State) (sid slot : Nat) : List Cmd :=
  s.cmds.filter fun c => c.sid == sid && c.guard == some slot && c.gstate == .unresolved

/-- RESOLVE of a slot in a strand: commands waiting on the slot start or are discarded (R69). -/
def State.resolveGuard (s : State) (sid slot : Nat) (t : Bool) : State :=
  let hit := fun (c : Cmd) => c.sid == sid && c.guard == some slot && c.gstate == .unresolved
  if t then
    ((s.cmds.filter hit).foldl State.atFork
      { s with cmds := s.cmds.map fun c => if hit c then { c with gstate := .true } else c }).registerAll
  else ((s.cmds.filter hit).foldl State.discardCmd s).registerAll

/-- When a strand exits, its commands waiting on slots are discarded (R69, 06 R146). -/
def State.discardWaiting (s : State) (sid : Nat) : State :=
  ((s.cmds.filter fun c => c.sid == sid && c.waits).foldl State.discardCmd s).registerAll

/-- Queue a command of a slice: a TRUE guard runs as unguarded, a FALSE one is discarded at once. R69's rows say the slot's state at issue and
its head the state when the command reaches the head of the strand's commands; the state is taken at issue, also behind a command that waits
(log 69, DESIGN CHOICE). -/
def State.queueCmd (s : State) (g : Gang) (sl : Slice) (op : CmdOp) (flag : Bool) (o : Wide) (regs : List Word64) : State :=
  let guard := if o.aux.getLsbD 5 then some (o.aux.extractLsb' 0 4).toNat else none
  let gs := match guard with
    | none => GuardState.true
    | some k => sl.guardState k
  let c : Cmd := { id := s.nextId, op := op, flag := flag, sid := sl.sid, part := g.part, ctx := g.ctx, core := g.core
                   quad := g.quadNo, crew := g.crew, segs := sl.segs, guard := guard, gstate := gs, regs := regs }
  let s1 := { s with nextId := s.nextId + 1, cmds := s.cmds ++ [c] }
  (if gs = .false then s1.discardCmd c else if gs = .true then s1.atFork c else s1).registerAll

/-- Change every slice that satisfies a test. -/
def State.mapSlicesOf (s : State) (p : Gang → Slice → Bool) (f : Slice → Slice) : State :=
  let h := fun (g : Gang) => g.mapSlices fun sl => if p g sl then f sl else sl
  { s with gangs := s.gangs.map h, cur := s.cur.map h }

/-- The crew of a twin pair's shadow that takes the results of a primary's command, with the slice's index (21 R442): those of
irrevocable commands, which the primary alone performs. -/
def State.twinOf (s : State) (c : Cmd) : Option (Nat × Nat) :=
  match c.crew.bind (Map.find? s.crews) with
  | some w =>
    if w.twin && !w.shadow && (c.op == .larder || c.op.engine == .fabric || c.cell != 0) then
      match w.partner, (s.gangs ++ s.cur.toList).findSome? fun g => g.slices.find? fun sl => sl.sid == c.sid with
      | some q, some sl => some (q, sl.index)
      | _, _ => none
    else none
  | none => none

/-- A shadow's slice takes a result: a register that waits for it, or the mail. -/
def Slice.shadowTake (sl : Slice) (t : Target) (x : SVal) : Slice :=
  match sl.pending.find? fun p => p.targ == t && p.engine with
  | some p => sl.engineWrite p.n t x
  | none => { sl with mail := sl.mail ++ [(t, x)] }

/-- A shadow's word takes the results that lie in the mail. -/
def Slice.takeMail (sl : Slice) (word : Nat) : Slice :=
  sl.mail.foldl
    (fun sl m => if sl.pending.any (fun p => p.n == word && p.targ == m.1 && p.engine) then
        { sl.engineWrite word m.1 m.2 with mail := sl.mail.erase m } else sl) sl

/-- Deliver a command's result to a register of its strand, and of the strand's shadow. -/
def State.deliverResult (s : State) (c : Cmd) (word : Nat) (t : Target) (x : SVal) : State :=
  let s1 := s.mapSlicesOf (fun _ sl => sl.sid == c.sid) fun sl => sl.engineWrite word t x
  match s.twinOf c with
  | some (q, ix) => s1.mapSlicesOf (fun g sl => g.crew == some q && sl.index == ix) fun sl => sl.shadowTake t x
  | none => s1

/-- Deliver values to lane `k` of the registers at ring entries. -/
def State.deliverLanes (s : State) (c : Cmd) (word k : Nat) (rings : List Nat) (vals : List LVal) : State :=
  (rings.zip vals).foldl (fun s p => s.deliverResult c word (.lane p.1 k) ⟨p.2.v.setWidth 64, p.2.tag⟩) s

end Sys2Proof.Machine
end

