-- ==== Sys2Proof/Machine/Nodes.lean ====
section
/-! DEFINITION. Launches and their nodes as the engines see them (18 R377, R384): the node cell, its signal by the task engine,
and the records of a TILE node. -/

namespace Sys2Proof.Machine

/-- A launch in flight. -/
def State.launch? (s : State) (l : Nat) : Option Launch := s.launches.find? fun x => x.id == l

def State.setLaunch (s : State) (l : Nat) (f : Launch → Launch) : State :=
  { s with launches := updFirst (fun x => x.id == l) f s.launches }

/-- Update a node of a launch. -/
def State.setNode (s : State) (l n : Nat) (f : Node → Node) : State :=
  s.setLaunch l fun x =>
    match Map.find? x.nodes n with
    | some y => { x with nodes := x.nodes.put n (f y) }
    | none => x

def State.node? (s : State) (l n : Nat) : Option Node := (s.launch? l).bind fun x => Map.find? x.nodes n

/-- The node cell's global virtual address (R377). -/
def Launch.cellVa (x : Launch) (n : Nat) : Word64 := BitVec.ofNat 64 (x.base + 2048 + 16 * n)

/-- The rights with which the task engine itself acts in a context: the whole global window. DEDUCED (log 23): no rule gives
it a mode, so it needs no USER permission. -/
def taskSegs : Segs :=
  { scrb := 0, scrl := 0, stkb := 0, stkl := 0, glbb := 0, glbl := BitVec.ofNat 64 (2 ^ 56), user := false }

/-- The rights of a root strand's accesses in a context: user mode, the whole global window (R387). -/
def rootSegs : Segs := { taskSegs with user := true }

/-- The task engine's translation unit in a partition. -/
def taskUnit (part : Nat) : Nat := 512 + part

/-- An access of the task engine in a context, as engine work carries it. -/
def taskCmd (id part ctx : Nat) : Cmd :=
  { id := id, op := .mq, flag := false, sid := 0, part := part, ctx := ctx, core := taskUnit part, quad := 0, crew := none
    segs := taskSegs, guard := none, gstate := .true, regs := [] }

/-- A translation fault that the task engine meets (11 R253: UNIT 6). -/
def State.taskFault (s : State) (part ctx why lv e : Nat) (pool : Bool) (va acc key : Nat) : State :=
  (s.addFault { token := 0, part := part, ctx := ctx, va := va, acc := acc, why := why, level := lv, entryAt := e, pool := pool
                units := [], unitno := 0, stage := .new, since := s.cycle } (.task key)).2

/-- The task engine signals a node cell by 1 (R384, R390); a translation fault is served first (01 R17). -/
def State.signalNode (s : State) (l n status : Nat) : State :=
  match s.launch? l with
  | none => s
  | some x =>
    match s.reachCell (taskUnit x.part) x.part x.ctx taskSegs (x.cellVa n) with
    | (.at pa, s1) => s1.signalCell pa 1 status false .pod
    | (.cannot, s1) => s1
    | (.fault why lv e pool va, s1) =>
      let k := s1.nextId
      let sig : NodeSignal := { id := k, launch := l, node := n, status := status }
      let s2 := { s1 with nextId := k + 1, signals := s1.signals ++ [sig] }
      s2.taskFault x.part x.ctx why lv e pool va 2 k

/-- A record of a TILE node has retired (R384): the last one signals the node cell, with the largest status among the records'
cells. -/
def State.recordRetired (s : State) (node : Option (Nat × Nat)) (status : Nat) : State :=
  match node with
  | none => s
  | some (l, n) =>
    let s1 := s.setNode l n fun y => { y with left := y.left - 1, status := max y.status status }
    match s1.node? l n with
    | some y => if y.left = 0 then s1.signalNode l n y.status else s1
    | none => s1

/-! ## Releases (18 R379, R395, R396) -/

/-- Release a node's retire or trigger successors: each remaining count falls by 1; a count that is 0 stays, and that release does not start the
node (R379, R385). -/
def State.releaseSuccs (s : State) (l n : Nat) (trig : Bool) (srcs : List Src) : State :=
  match s.node? l n with
  | none => s
  | some x =>
    (x.succ.filter fun e => e.2 == trig).foldl
      (fun s e => s.setNode l e.1 fun y =>
        if y.started ∨ y.remaining = 0 then y else { y with remaining := y.remaining - 1, preds := y.preds ++ [n], srcs := y.srcs ++ srcs }) s

/-- P2 of a node: the members of a KERNEL node. -/
def Node.members (x : Node) : Nat := fieldOf x.tcb 0x38 8

/-- A member of a KERNEL node is triggered: when it is the last one, the node releases its trigger successors. -/
def State.noteTrigger (s : State) (g : Gang) : State :=
  match g.node with
  | none => s
  | some (l, n) =>
    let ms := Map.get [] s.trig (65536 * l + n) ++ [Src.quad g.quadNo]
    let s1 := { s with trig := s.trig.put (65536 * l + n) ms }
    match s1.node? l n with
    | some x => if x.members = ms.length then (s1.releaseSuccs l n true ms).setNode l n fun y => { y with released := true } else s1
    | none => s1

end Sys2Proof.Machine
end

