-- ==== Sys2Proof/Machine/Sync.lean ====
section
/-! DEFINITION. Spawning, cells, barriers, REGANG, guards and the end of a strand (06 R135 to R146; 05 R95, R106 to R108;
03 R60). -/

namespace Sys2Proof.Machine

/-- Strands of a gang. -/
def Gang.sids (g : Gang) : List Nat := g.slices.map Slice.sid

/-- A word of a twin crew that must wait for its check point (21 R442). -/
def State.twinWaits (s : State) (g : Gang) : Bool := s.twin g && !g.cleared

/-- The source of an edge of the present gang: home stores performed (09 R205), the core reconciled at the span. -/
def State.edgeSource (s : State) (g : Gang) (span : Nat) : State := (s.drain g.gid).reconcileSource g.core span

/-! ## SPAWN (06 R135) -/

/-- cap(tier): 32 for Q, 128 for C, 2^31 − 1 for K, D and P. -/
def tierCap (tier : Nat) : Nat := if tier = 0 then 32 else if tier = 1 then 128 else 2 ^ 31 - 1

/-- How the header read comes out (05 R106, R107). -/
inductive Header where
  | ok (lregs : Nat)
  | bad
  | fault (f : FaultRec)
  deriving DecidableEq, Repr

/-- Read the entry header at E − 8 with the checks of instruction fetch (R107). -/
def State.readHeader (s : State) (g : Gang) (user : Bool) (e : Word64) : Header :=
  let parcel := fun (a : Word64) =>
    if 2 ^ 56 ≤ a.toNat then (none : Option (Except FaultRec Parcel))
    else
      match (s.xlate g.core g.part g.ctx a.toNat { x := true, user := user }).1 with
      | .fault w l at_ p => some (.error (faultOf g a.toNat 3 w l s.cycle at_ p))
      | .denied => none
      | .ok pa l => if l.por || s.poisonedAt pa 4 then none else some (.ok (ofBytes 32 (s.peekCode g.core pa 4)))
  match parcel (e - 8), parcel (e - 4) with
  | some (.error f), _ => .fault f
  | some (.ok _), some (.error f) => .fault f
  | some (.ok p), some (.ok q) =>
    let lregs := (p.extractLsb' 16 8).toNat
    if p.extractLsb' 24 8 = 0x2B ∧ p.extractLsb' 0 16 = 0 ∧ q = 0 ∧ 16 ≤ lregs ∧ lregs ≤ 64 then .ok (4 * lregs) else .bad
  | _, _ => .bad

/-- The checks of SPAWN's cell and entry, C before E (06 R135, 07 R185). -/
def State.spawnCheck (s : State) (g : Gang) (sl : Slice) (e c : Word64) : Check :=
  if c ≠ 0 ∧ c.extractLsb' 0 4 ≠ 0 then .trap ⟨Cause.misaligned, c⟩
  else
    match s.targetTrap g (!sl.priv) e with
    | some t => .trap t
    | none =>
      match s.readHeader g (!sl.priv) e with
      | .bad => .trap ⟨Cause.engineFault, e⟩
      | .fault f => .fault f
      | .ok n => .ok { loc := .scratch 0, size := n, por := false, gen := e }

/-- The entry of the first slice whose header read takes a translation fault. -/
def faultEntry (cs : List (Slice × Option Check)) (entry : Slice → Word64) : Option Word64 :=
  cs.findSome? fun p =>
    match p.2 with
    | some (.fault _) => some (entry p.1)
    | _ => none

/-- Queue a brood of a slice; the fork edge's source has been reconciled at the tier's span. -/
def State.queueSpawn (s : State) (g : Gang) (sl : Slice) (tier kib lregs count : Nat) (e arg cell : Word64) (args : List Word64) :
    State :=
  let q : Spawn :=
    { id := s.nextId, brood := s.nextId + 1, part := g.part, ctx := g.ctx, tier := tier, quad := g.quadNo, prio := g.prio
      node := none, launch := g.launch, stage := none, pc := e, cell := cell, arg := arg, args := args, count := count, next := 0, kib := kib, lregs := lregs
      ftz := sl.ftz, nantrap := sl.nantrap, priv := sl.priv, tvec := sl.tvec, glbb := sl.glbb, glbl := sl.glbl
      attic := g.attic, depth := 0, srcs := [.quad g.quadNo] }
  { s with nextId := s.nextId + 2, spawns := s.spawns ++ [q] }

/-- SPAWN: four registers E, P, N, C from sa, in every slice (06 R135). -/
def execSpawn (o : FormNB) (s : State) : Out :=
  runWord (.spawn o) s fun g s =>
    let c := s.rctx g
    let tier := o.c.toNat
    let r := fun (sl : Slice) (k : Nat) => (sl.readS c (o.sa + BitVec.ofNat 5 k)).v
    let check := fun (s : State) (sl : Slice) =>
      let n := (r sl 2).toNat
      if n = 0 then (Check.ok { loc := .scratch 0, size := 0, por := false, gen := 0 }, s)
      else if tierCap tier < n then (.trap ⟨Cause.engineFault, r sl 2⟩, s)
      else (s.spawnCheck g sl (r sl 0) (r sl 3), s)
    let (cs, s1) := s.checkSlices g (tagFirst (fun sl => poisonTrap (sl.readS c) (sblock o.sa 4)) check)
    match firstTrapOf cs, firstFaultOf cs with
    | some t, _ => .next (s1.trapped g t)
    | none, some f => .next (s1.parkFault g f (faultEntry cs fun sl => r sl 0))
    | none, none =>
      if s1.twinWaits g then .next (s1.setCur { g with park := .twin false })
      else if g.slices.all (fun sl => (r sl 2).toNat = 0) then .next ((s1.irrevocable g).wordDone (g.mapSlices (·.advance 4 true)))
      else if !s1.ackClear g.core tier then .next (s1.holdWord g .ack)
      else
        let s2 := (s1.edgeSource g tier).irrevocable g
        let s3 := if s2.isShadow g then s2 else cs.foldl
          (fun s p =>
            match p.2 with
            | some (.ok a) =>
              if (r p.1 2).toNat = 0 then s
              else s.queueSpawn g p.1 tier o.x.toNat a.size (r p.1 2).toNat (r p.1 0) (r p.1 1) (r p.1 3) []
            | _ => s) s2
        .next (s3.wordDone (g.mapSlices (·.advance 4 true)))

/-! ## Cell words -/

/-- A word over cells: poison, checks of every slice, then an effect on the whole gang with the cells' addresses, and those that lie on a page
with POR = 1. -/
def cellWord (i : Instr) (s : State) (k : AccKind) (tags : List SReg) (sa : SReg)
    (body : Gang → RCtx → State → List (Slice × Nat) → NatSet → Out) : Out :=
  runWord i s fun g s =>
    let c := s.rctx g
    let (cs, s1) := s.checkSlices g (tagFirst (fun sl => poisonTrap (sl.readS c) tags) fun s sl => s.resolveCell g sl k (sl.readS c sa).v)
    match firstTrapOf cs, firstFaultOf cs with
    | some t, _ => .next (s1.trapped g t)
    | none, some f => .next (s1.parkFault g f)
    | none, none =>
      let oks := cs.filterMap fun p =>
        match p.2 with
        | some (.ok a) => some (p.1, a)
        | _ => none
      let cells := oks.map fun p => (p.1, p.2.pa)
      let pors := (oks.filter fun p => p.2.por).foldl (fun m p => NatSet.put m p.2.pa) []
      body g c (cells.foldl (fun s p => s.flushCell g.core p.2) (s1.drain g.gid)) cells pors

/-- The strand may resume on another core (01 R28): tier K, D or P, no scratchpad, and not a lean wait. -/
def Gang.movable (g : Gang) (lean : Bool) : Bool := !lean && decide (2 ≤ g.tier) && g.crew.isNone

/-- AWAIT (06 R136): continue when every cell has completed, else park as a frame. -/
def execAwait (o : FormNB) (s : State) : Out :=
  cellWord (.await o) s .cellRead [o.sa] o.sa fun g _ s cells _ =>
    let lean := o.c.getLsbD 2
    let open_ := (cells.map Prod.snd).filter fun pa => decide (0 < s.cellCount pa)
    let srcs := (cells.map Prod.snd).flatMap fun pa => if open_.contains pa then [] else Map.get [] s.cellSrc pa
    let g' := g.mapSlices (·.advance 4 true)
    if open_.isEmpty then
      let s1 := if lean then s else s.reconcileDest g.core (spanOf srcs g.quadNo)
      .next (s1.wordDone g')
    else if g.movable lean && !s.ackClear g.core g.tier then .next (s.holdWord g .ack)
    else
      let s1 := if g.movable lean then s.reconcileSource g.core g.tier else s
      let s2 := open_.foldl State.markWaiter s1
      .next (s2.wordDone
        { g' with park := .await (open_.foldl NatSet.put []) lean, framed := true, pinned := !g.movable lean, srcs := if lean then [] else srcs
                  buf := [] })

/-- SIGNAL (06 R137): COUNT less sext(SB, 32) with status OK; without lean the source reconciles at span P. -/
def execSignal (o : FormNR) (s : State) : Out :=
  cellWord (.signal o) s .cellWrite [o.sa, o.sb] o.sa fun g c s cells _ =>
    let lean := o.fn.getLsbD 8
    if s.twinWaits g then .next (s.setCur { g with park := .twin false })
    else if !lean && !s.ackClear g.core 4 then .next (s.holdWord g .ack)
    else
      let s1 := (if lean then s else s.reconcileSource g.core 4).irrevocable g
      let s2 := if s1.isShadow g then s1 else cells.foldl
        (fun s p => s.signalCell p.2 ((p.1.readS c o.sb).v.setWidth 32).toInt statusOk false (.quad g.quadNo)) s1
      .next (s2.wordDone ((s2.cur.getD g).mapSlices (·.advance 4 true)))

/-- CELLINIT (06 R138): the gang parks until the home slice answers. -/
def execCellinit (o : FormNR) (s : State) : Out :=
  cellWord (.cellinit o) s .cellWrite [o.sa, o.sb] o.sa fun g c s cells _ =>
    if s.twinWaits g then .next (s.setCur { g with park := .twin false })
    else
      let cs := cells.map fun p => (p.2, (p.1.readS c o.sb).v.setWidth 32, (p.1.readS c o.sa).v)
      .next ((s.irrevocable g).setCur { g with park := .cellinit (if s.isShadow g then [] else cs) })

/-- CELLRD (06 R139): bits 39:0 of the cell, a racing read at home. -/
def execCellrd (o : FormNR) (s : State) : Out :=
  cellWord (.cellrd o) s .cellRead [o.sa] o.sa fun g c s cells pors =>
    let rd := fun (p : Slice × Nat) =>
      p.1.writeS c (.variable (s.loadFigure g.core (.home p.2) 5)) o.sd ⟨BitVec.ofNat 64 (s.wordAt p.2 5), s.poisonedAt p.2 5 || pors.contains p.2⟩
    .next (s.wordDone { g with slices := cells.map fun p => (rd p).advance 4 (regionEnding (.cellrd o)) })

/-! ## Barriers (06 R141 to R143) -/

def Barrier.init : Barrier := { expect := 0, arrived := 0, phase := 0, owner := none, marks := [] }

def State.barrier (s : State) (core id : Nat) : Barrier := Map.get Barrier.init (s.core core).bars id

def State.setBarrier (s : State) (core id : Nat) (b : Barrier) : State :=
  let c := s.core core
  s.setCore core { c with bars := Map.set Barrier.init c.bars id b }

/-- A gang waits on a barrier of a core. -/
def Gang.waitsOn (g : Gang) (core id : Nat) : Bool :=
  g.core == core &&
    match g.park with
    | .bar k _ => k == id
    | _ => false

/-- Strands that wait on a barrier. -/
def State.hasWaiters (s : State) (core id : Nat) : Bool := s.gangs.any (·.waitsOn core id)

/-- At a crew sync every slice of the crew that has not exited is parked at WAIT or SYNC on the barrier (21 R435); `me` is the gang whose SYNC
completes the phase. -/
def State.atSync (s : State) (crew core id : Nat) (me : Option Gang) : Bool :=
  match Map.find? s.crews crew with
  | some c => c.rb && (s.gangs.filter fun g => g.crew == some crew).all (·.waitsOn core id) && (me.isSome || s.cur.all fun g => g.crew != some crew)
  | none => false

/-- A crew's new interval: the shadows and the barriers taken, the log empty, recoverable (21 R435). -/
def State.newInterval (s : State) (crew : Nat) (shadows : List Gang) : State :=
  match Map.find? s.crews crew with
  | none => s
  | some c =>
    let fresh := fun (g : Gang) => if g.crew == some crew then g.mapSlices fun sl => { sl with sig := 0, heldAt := [], noted := [], notePos := 0, noteMark := 0 } else g
    { s with
      crews := s.crews.put crew { c with shadows := shadows.map fresh, barCopy := (s.core c.core).bars, log := [], recoverable := true
                                         rolled := false, since := s.nextId, syncDue := false }
      gangs := s.gangs.map fresh }

/-- A crew sync: a crew alone begins its new interval; a twin crew waits for its check point. `me` is the gang whose word completes
the phase. -/
def State.crewSync (s : State) (crew : Nat) (me : Option Gang) : State :=
  match Map.find? s.crews crew with
  | none => s
  | some c =>
    if c.twin then { s with crews := s.crews.put crew { c with syncDue := true } }
    else s.newInterval crew ((s.gangs.filter fun g => g.crew == some crew) ++ me.toList)

/-- A gang's crew waits for the check point of a crew sync. -/
def State.syncDue (s : State) (g : Gang) : Bool := ((s.crewOf g).map Crew.syncDue).getD false

/-- Complete a barrier's phase: release its waiters, PHASE + 1, ARRIVED 0, marks cleared (06 R141). A released strand is
ready on its core; at a crew sync of a twin crew it waits for the check point (21 R442). -/
def State.completeBarrier (s : State) (core id : Nat) (me : Option Gang) : State :=
  let b := s.barrier core id
  let s0 := s.setBarrier core id { b with phase := b.phase + 1, arrived := 0, marks := [] }
  let s1 := match b.owner with
    | some k => if s.atSync k core id me then s0.crewSync k me else s0
    | none => s0
  let rel := fun (g : Gang) =>
    if g.waitsOn core id then
      { g with park := if s1.syncDue g then .twin false else .none, ready := true, pinned := true, srcs := [Src.core core] }
    else g
  { s1 with gangs := s1.gangs.map rel }

/-- The lanes of a gang that are in EM, by strand and lane. -/
def Gang.emLanes (g : Gang) : List Nat := g.slices.flatMap fun sl => (lanesOf sl.em).map fun k => 4 * sl.sid + k

/-- Arrive: ARRIVED + a, the lanes marked; complete when ARRIVED reaches EXPECT. -/
def State.arrive (s : State) (g : Gang) (id : Nat) (me : Option Gang) : State :=
  let b := s.barrier g.core id
  let b' := { b with arrived := b.arrived + g.emLanes.length, marks := g.emLanes.foldl NatSet.put b.marks }
  let s1 := s.setBarrier g.core id b'
  if b'.expect ≤ b'.arrived then s1.completeBarrier g.core id me else s1

/-- Deduct exited lanes from the barriers of their crew (06 R142); an ARRIVED of 0 stays 0 (log 82, DESIGN CHOICE). -/
def Barrier.deduct (b : Barrier) (lane : Nat) : Barrier :=
  { b with
    expect := b.expect - 1
    arrived := if b.marks.contains lane then b.arrived - 1 else b.arrived
    marks := NatSet.drop b.marks lane }

/-- The exit of one lane of a crew: each barrier of the crew deducts it, then makes the completion test (06 R142). -/
def State.deductLane (s : State) (k core lane : Nat) : State :=
  ((s.core core).bars.filter fun e => e.2.owner == some k).foldl
    (fun s e =>
      let b := (s.barrier core e.1).deduct lane
      let s1 := s.setBarrier core e.1 b
      if decide (b.expect ≤ b.arrived) && (decide (0 < b.arrived) || s1.hasWaiters core e.1) then s1.completeBarrier core e.1 none else s1) s

/-- The exits of lanes, one after the other. -/
def State.deductLanes (s : State) (crew : Option Nat) (core : Nat) (lanes : List Nat) : State :=
  match crew with
  | none => s
  | some k => lanes.foldl (fun s l => s.deductLane k core l) s

/-- ENGINE_FAULT of a barrier word. -/
def barFault (id : Nat) : Trap := ⟨Cause.engineFault, BitVec.ofNat 64 id⟩

/-- BAR INIT (06 R141). -/
def execBarInit (o : FormBar) (s : State) : Out :=
  runWord (.barInit o) s fun g s =>
    let c := s.rctx g
    let id := o.id.toNat
    let b := s.barrier g.core id
    let count := fun (sl : Slice) => (sl.readS c o.cnt).v.toNat
    let check := fun (sl : Slice) =>
      (poisonTrap (sl.readS c) [o.cnt]).orElse fun _ =>
        if g.crew.isNone || s.hasWaiters g.core id || (b.owner.isSome && b.owner != g.crew) then some (barFault id)
        else if count sl = 0 ∨ 512 < count sl then some (barFault id)
        else none
    match g.firstTrap check with
    | some t => .next (s.trapped g t)
    | none =>
      let s1 := g.slices.foldl
        (fun s sl => s.setBarrier g.core id { s.barrier g.core id with owner := g.crew, expect := count sl, arrived := 0 }) s
      .next (s1.wordDone (g.mapSlices (·.advance 4 true)))

/-- ARRIVE, WAIT and SYNC need a member of OWNER (06 R141). -/
def State.barTrap (s : State) (g : Gang) (id : Nat) : Option Trap :=
  let b := s.barrier g.core id
  if b.owner.isNone || b.owner != g.crew then some (barFault id) else none

/-- Remember the arrival of every slice. -/
def Gang.remember (g : Gang) (id : Nat) (phase : BitVec 32) : Gang :=
  g.mapSlices fun sl => { sl with arrival := some (id, phase) }

/-- BAR ARRIVE. The arrival is the source of a join edge of span C (06 R143). -/
def execBarArrive (o : FormBar) (s : State) : Out :=
  runWord (.barArrive o) s fun g s =>
    let id := o.id.toNat
    match s.barTrap g id with
    | some t => .next (s.trapped g t)
    | none =>
      let g' := (g.remember id (s.barrier g.core id).phase).mapSlices (·.advance 4 true)
      .next (((s.edgeSource g 1).arrive g id none).wordDone g')

/-- Wait: continue when the last arrival's phase has completed, else park as a frame until the phase does. A release is the
destination of an edge of span C (06 R143). -/
def State.barWaitOn (s : State) (g : Gang) (id : Nat) : State :=
  let b := s.barrier g.core id
  let past := g.slices.all fun sl =>
    match sl.arrival with
    | some (k, p) => k == id && p != b.phase
    | none => false
  if past && s.syncDue g then
    s.wordDone { g with park := .twin false, framed := true, ready := true, pinned := true, srcs := [Src.core g.core], buf := [] }
  else if past then (s.reconcileDest g.core 1).wordDone g
  else s.wordDone { g with park := .bar id b.phase, framed := true, pinned := true, srcs := [], buf := [] }

/-- A barrier on which strands wait completes at once when its EXPECT has reached 0 (06 R142). -/
def State.releaseEmpty (s : State) (g : Gang) (id : Nat) : State :=
  let b := s.barrier g.core id
  if b.expect = 0 then
    match s.cur with
    | some h =>
      if h.waitsOn g.core id then
        let s1 := { s with gangs := s.gangs ++ [h], cur := none }
        let s2 := s1.completeBarrier g.core id none
        { s2 with cur := s2.gangs.find? (fun x => x.gid == h.gid), gangs := s2.gangs.filter fun x => x.gid != h.gid }
      else s
    | none => s
  else s

/-- BAR WAIT. -/
def execBarWait (o : FormBar) (s : State) : Out :=
  runWord (.barWait o) s fun g s =>
    let id := o.id.toNat
    match s.barTrap g id with
    | some t => .next (s.trapped g t)
    | none => .next (((s.drain g.gid).barWaitOn (g.mapSlices (·.advance 4 true)) id).releaseEmpty g id)

/-- BAR SYNC: ARRIVE, then WAIT. -/
def execBarSync (o : FormBar) (s : State) : Out :=
  runWord (.barSync o) s fun g s =>
    let id := o.id.toNat
    match s.barTrap g id with
    | some t => .next (s.trapped g t)
    | none =>
      let g' := (g.remember id (s.barrier g.core id).phase).mapSlices (·.advance 4 true)
      .next ((((s.edgeSource g 1).arrive g id (some { g' with park := .none, framed := true, ready := true, pinned := true
                                                              srcs := [Src.core g.core] })).barWaitOn g' id).releaseEmpty g id)

/-! ## REGANG (05 R95) -/

/-- The slices of an original gang that have not exited, the present gang apart. -/
def State.siblings (s : State) (g : Gang) : List Gang := s.gangs.filter fun h => h.og == g.og && h.gid != g.gid

/-- REGANG: released at once when the original gang has not parted; else the gang waits until every slice of the original gang that has not exited
waits too. It keeps its slots until its frame is moved. A gang that may have resumed apart from the others is the source of an edge to
the joined gang. -/
def execRegang (o : FormNS) (s : State) : Out :=
  runWord (.regang o) s fun g s =>
    let g' := g.mapSlices (·.advance 4 true)
    if (s.siblings g).isEmpty then .next (s.wordDone g')
    else if g.movable false && !s.ackClear g.core g.tier then .next (s.holdWord g .ack)
    else
      let s1 := if g.movable false then s.edgeSource g g.tier else s.drain g.gid
      .next (s1.wordDone { g' with park := .regang o.imm, buf := [] })

/-! ## Guards (06 R144) -/

/-- GUARD: the slot becomes UNRESOLVED. -/
def execGuard (o : FormNS) (s : State) : Out :=
  sliceWord (.guard o) s (fun _ _ => none) (fun _ sl => sl.setGuard (o.imm.extractLsb' 0 4).toNat .unresolved)

/-- RESOLVE: the slot from a register, then the commands that wait on it (03 R68, R69). It is their fork edge. -/
def execResolve (o : FormNS) (s : State) : Out :=
  runWord (.resolve o) s fun g s =>
    let c := s.rctx g
    let k := (o.imm.extractLsb' 0 4).toNat
    let r : SReg := o.imm.extractLsb' 4 5
    match g.firstTrap (fun sl => poisonTrap (sl.readS c) [r]) with
    | some t => .next (s.trapped g t)
    | none =>
      let truth := fun (sl : Slice) => (sl.readS c r).v != 0
      let span := ((g.slices.filter truth).flatMap fun sl => (s.waitingOn sl.sid k).map Cmd.forkSpan).foldl max 0
      if !s.ackClear g.core span then .next (s.holdWord g .ack) else
      let s1 := g.slices.foldl (fun s sl => s.resolveGuard sl.sid k (truth sl)) (s.edgeSource g span)
      .next (s1.wordDone ((s1.cur.getD g).mapSlices fun sl =>
        (sl.setGuard k (if truth sl then .true else .false)).advance 4 (regionEnding (.resolve o))))

/-! ## TRIGGER (18 R395) -/

/-- A slice that its node created and that is not yet triggered. -/
def Gang.untriggered (g : Gang) (sl : Slice) : Bool := g.node.isSome && !sl.triggered

/-- TRIGGER: the source reconciles as a non-lean SIGNAL does (09 R208). -/
def execTrigger (o : FormNS) (s : State) : Out :=
  runWord (.trigger o) s fun g s =>
    if s.twinWaits g then .next (s.setCur { g with park := .twin false })
    else if !s.ackClear g.core 4 then .next (s.holdWord g .ack)
    else
      let s1 := (s.edgeSource g 4).irrevocable g
      let s2 := if s1.isShadow g then s1 else
        (g.slices.filter g.untriggered).foldl (fun s _ => s.noteTrigger g) s1
      .next (s2.wordDone (g.mapSlices fun sl =>
        { sl.advance 4 true with triggered := sl.triggered || g.node.isSome }))

/-! ## The end of a strand (06 R146) -/

/-- The span at which a strand's exit reconciles: its brood's tier, P for a member of a node (01 R22). -/
def Gang.exitSpan (g : Gang) : Nat := if g.node.isSome || g.stage.isSome then 4 else g.tier

/-- The checks of the cell in g3 (06 R146). -/
def State.exitCheck (s : State) (g : Gang) (sl : Slice) : Check × State :=
  let a := sl.scalNow 3
  if a.v = 0 then (.ok { loc := .scratch 0, size := 0, por := false, gen := 0 }, s)
  else if a.tag then (.trap ⟨Cause.poisonUse, 3⟩, s)
  else s.resolveCell g sl .cellWrite a.v

/-- Give an Attic range back to its context's pool. -/
def State.freeAttic (s : State) (ctx : Nat) (r : Nat × Nat) : State :=
  match Map.find? s.ctxs ctx with
  | some c => { s with ctxs := s.ctxs.put ctx { c with free := c.free ++ [r] } }
  | none => s

/-- Some copy command of a crew is queued or active (12 R280). -/
def State.crewCopies (s : State) (k : Nat) : Bool :=
  s.copies.any (fun r => r.cmd.crew == some k) || s.cmds.any fun c => c.op.engine == .copy && c.crew == some k

/-- A crew whose last strand has exited: its barriers have no owner again, and once its copies are over its scratchpad goes
back to the L1 (06 R141, 11 R235, 12 R280). -/
def State.endCrew (s : State) (k : Nat) : State :=
  match Map.find? s.crews k with
  | none => s
  | some c =>
    let live := (s.gangs ++ s.cur.toList).any fun g => g.crew == some k
    if live then s
    else
      let co := s.core c.core
      let bars := co.bars.map fun e => if e.2.owner == some k then (e.1, { e.2 with owner := none }) else e
      let s1 := s.setCore c.core { co with bars := bars }
      if s1.crewCopies k then s1
      else
        let out := fun (a : Nat) => decide (a < c.base) || decide (c.base + c.bytes ≤ a)
        let co' := { s1.core c.core with
          scratch := co.scratch.filter fun e => out e.1
          scratchBad := co.scratchBad.filter fun u => out (8 * u)
          empty := co.empty.filter fun gr => out (16 * gr) }
        { s1.setCore c.core co' with crews := s1.crews.erase k }

/-- A command that was being discarded is no more: the crew that it named may go. -/
def State.endCrewOf (s : State) (c : Cmd) : State :=
  match c.crew with
  | some k => if s.cmds.any fun x => x.id == c.id then s else s.endCrew k
  | none => s

/-- End one strand, in the order of R146: it counts as triggered; its lanes are deducted from barriers; its waiting commands
are discarded; its cell is signalled by 1 with OK. Then its Attic is released. -/
def State.exitSlice (s : State) (g : Gang) (sl : Slice) (cell : Option Nat) : State :=
  let shadow := s.isShadow g
  let s1 := if !shadow && g.untriggered sl then s.noteTrigger g else s
  let s2 := s1.deductLanes g.crew g.core ((lanesOf (~~~sl.exited)).map fun k => 4 * sl.sid + k)
  let s3 := if shadow then s2 else s2.discardWaiting sl.sid
  let s4 := match cell with
    | some pa => if shadow then s3 else s3.signalCell pa 1 statusOk (decide (g.exitSpan < 2)) (.quad g.quadNo)
    | none => s3
  s4.freeAttic g.ctx sl.attic

/-- End the slices for which the cells have been checked; the others stay in the gang. -/
def State.exitSlices (s : State) (g : Gang) (cs : List (Slice × Option Check)) (stay : List Slice) : State :=
  let s0 := { (s.edgeSource g g.exitSpan).irrevocable g with cur := if stay.isEmpty then none else some { g with slices := stay } }
  let s1 := cs.foldl
    (fun s p =>
      s.exitSlice g p.1 (match p.2 with
        | some (.ok a) => if (p.1.scalNow 3).v = 0 then none else some a.pa
        | _ => none)) s0
  let s2 := match g.crew with
    | some k => s1.endCrew k
    | none => s1
  { s2 with free := s2.free + 1, performed := true }

/-- End some slices of the present gang after the checks of R146; `stay` are the slices that go on. -/
def State.endStrands (s : State) (g : Gang) (ending stay : List Slice) : Out :=
  let (cs, s1) := s.checkSlices { g with slices := ending } (fun s sl => s.exitCheck g sl)
  match firstTrapOf cs, firstFaultOf cs with
  | some t, _ => .next (s1.trapped g t)
  | none, some f => .next (s1.parkFault g f)
  | none, none =>
    if s1.twinWaits g then .next (s1.setCur { g with park := .twin false })
    else if !s1.ackClear g.core g.exitSpan then .next (s1.holdWord g .ack)
    else .next ((cs.foldl
      (fun s p => match p.2 with
        | some (.ok a) => if a.size = 0 then s else s.flushCell g.core a.pa
        | _ => s) s1).exitSlices g cs stay)

/-- EXIT (06 R146). -/
def execExit (o : FormNS) (s : State) : Out :=
  runWord (.exit o) s fun g s => s.endStrands g g.slices []

/-- RET: pops the newest group, or ends the strand when there is none (03 R60, 05 R105, 06 R129). -/
def execRet (o : FormNJ) (s : State) : Out :=
  runWord (.ret o) s fun g s =>
    let (g, s) := if g.slices.any Slice.refills then s.performAll g else (g, s)
    let (plans, s1) := g.slices.foldl
      (fun (p : List (Slice × RetPlan) × State) sl =>
        let (r, s') := p.2.retPlan g sl
        (p.1 ++ [(sl, r)], s')) ([], s)
    let stopped := plans.any fun p => match p.2 with
      | .stop _ => true
      | _ => false
    let cs := plans.map fun p =>
      (p.1, match p.2 with
        | .stop c => some c
        | .ends => if stopped then some (s1.exitCheck g p.1).1 else none
        | _ => none)
    let ending := (plans.filter fun p => p.2 == .ends).map Prod.fst
    let stay := (plans.filter fun p => p.2 != .ends).map fun p => p.1.retDone g.lregs p.2
    if !ending.isEmpty && g.outstanding s1.cycle then .next (s1.setCur { g with park := .settle, waiting := true })
    else
      match firstTrapOf cs, firstFaultOf cs with
      | some t, _ => .next (s1.trapped g t)
      | none, some f => .next (s1.parkFault g f)
      | none, none => if ending.isEmpty then .next (s1.wordDone { g with slices := stay }) else s1.endStrands g ending stay

/-- The slices that a VEXIT ends: those whose four lanes have then all exited (07 R181). -/
def Slice.exitLanes (c : RCtx) (sl : Slice) (pm : Pm) : Slice :=
  let a := sl.act c pm
  { sl with exited := sl.exited ||| a, em := sl.em &&& ~~~a }

/-- VEXIT (07 R181). Lanes of slices that go on are deducted from barriers; a slice that ends does what EXIT does,
and its lanes are deducted first (log 82, DESIGN CHOICE). -/
def execVexit (o : Wide) (s : State) : Out :=
  runWord (.vexit o) s fun g s =>
    let c := s.rctx g
    let ends := fun (sl : Slice) => (sl.exitLanes c o.pm).exited == 0xF && sl.exited != 0xF
    let ending := g.slices.filter ends
    let stay := (g.slices.filter fun sl => !ends sl).map fun sl => (sl.exitLanes c o.pm).advance 12 true
    let lanes := (g.slices.filter fun sl => !ends sl).flatMap fun sl =>
      (lanesOf (sl.act c o.pm)).map fun k => 4 * sl.sid + k
    if ending.isEmpty then .next ((s.deductLanes g.crew g.core lanes).wordDone { g with slices := stay })
    else if g.outstanding s.cycle then .next (s.setCur { g with park := .settle, waiting := true })
    else
      match s.endStrands g ending stay with
      | .next s' => .next (if s'.performed then s'.deductLanes g.crew g.core lanes else s')
      | r => r

end Sys2Proof.Machine
end

