-- ==== Sys2Proof/Machine/LaneMem.lean ====
section
/-! DEFINITION. Lane memory (07 R172 to R179): every lane is checked before any is performed; lanes whose translation faults
park the gang with their mask and are performed alone after service. -/

namespace Sys2Proof.Machine

/-- Bytes of an access by type (R172). -/
def laneSize (t : BitVec 4) : Nat :=
  match t.toNat with
  | 0 | 1 | 8 => 4
  | 2 | 3 | 9 | 10 => 2
  | 6 | 7 => 8
  | _ => 1

/-- Loads that extend by sign: i8, i16 and i32 (R172). -/
def laneSigned (t : BitVec 4) : Bool := t == 0 || t == 2 || t == 4

/-- The lanes of a slice that the word has still to perform (10 R226). -/
def Slice.lanesDue (sl : Slice) (c : RCtx) (pm : Pm) : List Nat :=
  let a := sl.act c pm
  lanesOf (match sl.unfin with
    | none => a
    | some p => a &&& p.lanes)

/-- A lane, by its slice's place in the gang, and its check. -/
structure LaneCheck where
  n : Nat
  k : Nat
  check : Check
  deriving DecidableEq, Repr

/-- Check every lane still to be performed, in increasing lane index. -/
def State.checkLanes (s : State) (g : Gang) (c : RCtx) (pm : Pm) (f : State → Slice → Nat → Check × State) :
    List LaneCheck × State :=
  g.slices.zipIdx.foldl
    (fun p x => (x.1.lanesDue c pm).foldl
      (fun q k =>
        let (r, s') := f q.2 x.1 k
        (q.1 ++ [⟨x.2, k, r⟩], s')) p) ([], s)

def laneTrap (cs : List LaneCheck) : Option Trap :=
  cs.findSome? fun p => match p.check with
    | .trap t => some t
    | _ => none

def laneFault (cs : List LaneCheck) : Option FaultRec :=
  cs.findSome? fun p => match p.check with
    | .fault f => some f
    | _ => none

/-- The accesses that passed, and those in scratchpad or on a HOME page. -/
def laneAccesses (cs : List LaneCheck) : List Access :=
  cs.filterMap fun p => match p.check with
    | .ok a => some a
    | _ => none

def isHome (a : Access) : Bool :=
  match a.loc with
  | .home _ => true
  | _ => false

/-- Perform the lanes that passed, in increasing lane index; each slice keeps the lanes still to be done. The function gets
the slice as the word reads it, from `pre`, and the slice as it has become. -/
def State.performLanes (s : State) (pre sls : List Slice) (cs : List LaneCheck) (home : Bool)
    (f : State → Slice → Slice → Nat → Access → Slice × State) : List Slice × State :=
  (pre.zip sls).zipIdx.foldl
    (fun p y =>
      let mine := cs.filter fun q => q.n == y.2
      let r := mine.foldl
        (fun (q : Slice × State × BitVec 4) x =>
          match x.check with
          | .ok a =>
            let (sl', s') := f q.2.1 y.1.1 q.1 x.k a
            (sl', s', q.2.2)
          | _ => (q.1, q.2.1, q.2.2 ||| (1#4 <<< x.k))) (y.1.2, p.2, 0)
      (p.1 ++ [{ r.1 with unfin := some { scalar := false, lanes := r.2.2, home := home } }], r.2.1)) ([], s)

/-- The trap of a lane's tags: 32 for the scalar base, else the lane index (R151). -/
def laneTag (sl : Slice) (k : Nat) (base other : Bool) : Option Trap :=
  if base then some ⟨Cause.poisonUse, 32⟩
  else if other then some ⟨Cause.poisonUse, BitVec.ofNat 64 (sl.laneIx k)⟩
  else none

/-- A lane memory word. `store` says that a HOME access ends the region and is irrevocable; `before` may park the word once
every lane has passed; `after` follows the last lane. -/
def laneMem (i : Instr) (s : State) (kind : AccKind) (size : Nat) (store : Bool)
    (tags : RCtx → Slice → Nat → Option Trap) (addr : RCtx → Slice → Nat → Word64)
    (before : Gang → State → List Access → Option State)
    (perform : Gang → RCtx → State → Slice → Slice → Nat → Access → Slice × State)
    (after : Gang → List Access → State → Gang → Gang × State) : Out :=
  runWord i s fun g s =>
    let c := s.rctx g
    let check := fun (s : State) (sl : Slice) (k : Nat) =>
      match tags c sl k with
      | some t => (Check.trap t, s)
      | none => s.resolve g sl kind (addr c sl k) size
    let (cs, s1) := s.checkLanes g c (pmOf i) check
    match laneTrap cs with
    | some t => .next (s1.trapped g t)
    | none =>
      let as := laneAccesses cs
      match before g s1 as with
      | some s' => .next s'
      | none =>
        let home := store && (as.any isHome || g.slices.any Slice.homeDone)
        let lanes := fun (sl : Slice) => (sl.lanesDue c (pmOf i)).length
        if let some g1 := storeWait home (store && s1.overHeld g as) (s1.lineless g as) s1 g then .next (s1.setCur g1)
        else if home && isAtomic i && g.slices.any (fun sl => s1.lacksNotes g sl (lanes sl)) then .next (s1.holdWord g (.notes (s1.needed g lanes)))
        else
          let s2 := if home then s1.irrevocable g else s1
          let (g1, s2) := s2.orderLoads g as (kind != .load)
          let (sls, s3) := s2.performLanes g.slices g1.slices cs home (perform g c)
          let (g', s4) := after g as s3 { g with slices := sls }
          match laneFault cs with
          | some f => .next (s4.parkFault g' f)
          | none => .next (s4.wordDone (g'.mapSlices (·.advance 12 (regionEnding i || home))))

/-- No wait before the word. -/
def noWait (_ : Gang) (_ : State) (_ : List Access) : Option State := none

/-- Nothing after the last lane. -/
def noMore (_ : Gang) (_ : List Access) (s : State) (g : Gang) : Gang × State := (g, s)

/-! ## Addresses -/

/-- SS + sext(VA, 32) × scale + sext(imm32, 32). -/
def gatherAddr (o : Wide) (scale : Nat) (c : RCtx) (sl : Slice) (k : Nat) : Word64 :=
  (sl.readS c o.ss).v + ((sl.readV c o.va k).v.signExtend 64 <<< scale) + o.imm.signExtend 64

/-- SS + l × sext(imm32, 32). -/
def blockAddr (o : Wide) (c : RCtx) (sl : Slice) (k : Nat) : Word64 :=
  (sl.readS c o.ss).v + BitVec.ofNat 64 (sl.laneIx k) * o.imm.signExtend 64

/-- SS + sext(imm32, 32) + l × size. -/
def rowAddr (o : Wide) (c : RCtx) (sl : Slice) (k : Nat) : Word64 :=
  (sl.readS c o.ss).v + o.imm.signExtend 64 + BitVec.ofNat 64 (sl.laneIx k * laneSize o.t)

/-- The scale of VLD, VST, VPREF, VATOM as a shift. -/
def scaleLow (o : Wide) : Nat := (o.fn.extractLsb' 0 2).toNat
def scaleAtom (o : Wide) : Nat := (o.fn.extractLsb' 4 2).toNat

/-! ## Loads and stores -/

/-- The value a lane's destination holds, whatever is outstanding. -/
def Slice.heldT (sl : Slice) (lregs : Nat) (t : BitVec 4) (v : VReg) (k : Nat) : SVal :=
  let lo := sl.laneNow lregs v k
  let hi := sl.laneNow lregs (v + 1) k
  if isPair t then ⟨hi.v ++ lo.v, lo.tag || hi.tag⟩ else ⟨lo.v.setWidth 64, lo.tag⟩

/-- One lane's load: at once, or when it returns if the word is issued late (09 R199). -/
def State.loadLane (s : State) (g : Gang) (c : RCtx) (acc : Slice) (o : Wide) (k : Nat) (a : Access) (late : Bool) :
    Slice × State :=
  let lat := Lat.variable (s.loadFigure g.core a.loc a.size)
  let s1 := s.orderPosted g a.loc a.size
  if late then
    let (space, addr, ro) := match a.loc with
      | .l1 pa ro => (0, pa, ro)
      | .home pa => (1, pa, false)
      | .scratch off => (2, off, false)
    let req := fun (half : Nat) =>
      ({ space := space, addr := addr, size := a.size, signed := laneSigned o.t, half := half, por := a.por, ro := ro } : Deferred)
    let sl2 := acc.writeT c lat o.t o.vd k (acc.heldT c.lregs o.t o.vd k)
    let lo := acc.laneRing c.lregs o.vd
    let hi := acc.laneRing c.lregs (o.vd + 1)
    let ps := sl2.pending.map fun p =>
      if p.n != c.word then p
      else if p.targ == .lane lo k then { p with load := some (req 0) }
      else if isPair o.t && p.targ == .lane hi k then { p with load := some (req 1) }
      else p
    ({ sl2 with pending := ps }, s1)
  else
    let (bs, bad, s2) := s1.readAt g.core a.loc a.size
    (acc.writeT c lat o.t o.vd k ⟨extend (laneSigned o.t) bs, bad || a.por⟩, s2)

/-- VLD. -/
def execVld (o : Wide) (s : State) : Out :=
  laneMem (.vld o) s .load (laneSize o.t) false
    (fun c sl k => laneTag sl k (sl.readS c o.ss).tag (sl.readV c o.va k).tag) (gatherAddr o (scaleLow o)) noWait
    (fun g c s _ acc k a => s.loadLane g c acc o k a s.late) noMore

/-- VLDB. -/
def execVldb (o : Wide) (s : State) : Out :=
  laneMem (.vldb o) s .load (laneSize o.t) false
    (fun c sl k => laneTag sl k (sl.readS c o.ss).tag false) (blockAddr o) noWait
    (fun g c s _ acc k a => s.loadLane g c acc o k a s.late) noMore

/-- A lane's store of vd. -/
def State.storeLane (s : State) (g : Gang) (c : RCtx) (sl acc : Slice) (o : Wide) (k : Nat) (a : Access) : Slice × State :=
  s.storePart g acc a (toBytes (sl.readT c o.t o.vd k).v a.size)

/-- VST. -/
def execVst (o : Wide) (s : State) : Out :=
  laneMem (.vst o) s .store (laneSize o.t) true
    (fun c sl k => laneTag sl k (sl.readS c o.ss).tag ((sl.readV c o.va k).tag || (sl.readT c o.t o.vd k).tag))
    (gatherAddr o (scaleLow o)) noWait (fun g c s sl acc k a => s.storeLane g c sl acc o k a) noMore

/-- VSTB. -/
def execVstb (o : Wide) (s : State) : Out :=
  laneMem (.vstb o) s .store (laneSize o.t) true
    (fun c sl k => laneTag sl k (sl.readS c o.ss).tag (sl.readT c o.t o.vd k).tag) (blockAddr o) noWait
    (fun g c s sl acc k a => s.storeLane g c sl acc o k a) noMore

/-- VATOM (R175): per lane the AMO of 06 R131. -/
def execVatom (o : Wide) (s : State) : Out :=
  let op := (o.fn.extractLsb' 0 4).toNat
  laneMem (.vatom o) s .atomic (laneSize o.t) true
    (fun c sl k => laneTag sl k (sl.readS c o.ss).tag
      ((sl.readV c o.va k).tag || (sl.readT c o.t o.vb k).tag || (decide (op = 9) && (sl.readT c o.t o.vc k).tag)))
    (gatherAddr o (scaleAtom o)) noWait
    (fun g c s sl acc k a =>
      let (old, bad, sl1, s1) := s.atomicAt g acc a op (sl.readT c o.t o.vb k).v (sl.readT c o.t o.vc k).v
      (sl1.writeT c (.variable (s.loadFigure g.core a.loc a.size)) o.t o.vd k ⟨extend true old, bad⟩, s1))
    noMore

/-! ## Full-empty granules (R176 to R178) -/

/-- The scratchpad granules of some accesses. -/
def granulesIn (as : List Access) : NatSet :=
  (as.flatMap fun a => match a.loc with
    | .scratch off => granulesOf off a.size
    | _ => []).foldl NatSet.put []

/-- A hold-off begins (R178). -/
def Gang.holdOff (g : Gang) : Gang := g.mapSlices fun sl => { sl with holdoff := true }

/-- VLDC (R176): the gang parks while a granule is empty; then the loads and the take are one step. -/
def execVldc (o : Wide) (s : State) : Out :=
  let take := o.fn.getLsbD 0
  laneMem (.vldc o) s .load (laneSize o.t) false
    (fun c sl k => laneTag sl k (sl.readS c o.ss).tag false) (rowAddr o)
    (fun g s as =>
      let gs := granulesIn as
      if gs.any (s.core g.core).empty.contains then some (s.setCur { g with park := .granules gs }) else none)
    (fun g c s _ acc k a => s.loadLane g c acc o k a false)
    (fun _ as s g =>
      let gs := granulesIn as
      if take && !gs.isEmpty then
        (g.holdOff, (gs.foldl (fun s gr => s.logGranule g.crew g.core gr) s).setEmpty g.core gs)
      else (g, s))

/-- VSTF (R177): the block store, then its granules are set full. -/
def execVstf (o : Wide) (s : State) : Out :=
  laneMem (.vstf o) s .store (laneSize o.t) true
    (fun c sl k => laneTag sl k (sl.readS c o.ss).tag (sl.readT c o.t o.vd k).tag) (rowAddr o) noWait
    (fun g c s sl acc k a => s.storeLane g c sl acc o k a)
    (fun _ as s g =>
      let gs := granulesIn as
      if gs.isEmpty then (g, s) else (g.holdOff, s.setFull g.core gs))

/-- VPREF has no effect that a word can see; the device may drop all of it (R179). -/
def execVpref (o : Wide) (s : State) : Out :=
  sliceWord (.vpref o) s (fun _ _ => none) (fun _ sl => sl)

end Sys2Proof.Machine
end

