-- ==== Sys2Proof/Machine/System.lean ====
section
/-! DEFINITION. The SYS words that only touch the strand (06 R145), CSR access (05 R118 to R120, 06 R147), segments (R148),
TLBI (11 R249), REGION (05 R109) and LIVEV (07 R184). -/

namespace Sys2Proof.Machine

/-! ## SYS words -/

/-- NOP has no effect. -/
def execNop (o : FormNS) (s : State) : Out := sliceWord (.nop o) s (fun _ _ => none) (fun _ sl => sl)

/-- YIELD: the gang becomes the youngest of its quadrant (08 R190). -/
def execYield (o : FormNS) (s : State) : Out :=
  runWord (.yield o) s fun g s =>
    .next ({ s with nextId := s.nextId + 1 }.wordDone { g.mapSlices (·.advance 4 false) with age := s.nextId })

/-- FETCHB: the fetch buffer is discarded (10 R217). -/
def execFetchb (o : FormNS) (s : State) : Out :=
  runWord (.fetchb o) s fun g s => .next (s.wordDone { g.mapSlices (·.advance 4 false) with buf := [], floors := g.floors ++ g.icinvs, icinvs := [] })

/-- TRAP: TRAP_INSTRUCTION with the word's code. -/
def execTrap (o : FormNS) (s : State) : Out :=
  runWord (.trap o) s fun g s => .next (s.trapped g ⟨Cause.trapInstruction, o.imm.setWidth 64⟩)

/-- A debugger is attached to a partition: its debug state is AUTHORISED or OPEN (22 R456), in RUN or IDLE (R459). -/
def State.debugged (s : State) (part : Nat) : Bool :=
  let p := s.part part
  decide (0 < p.debug) && decide (p.power < 2)

def regDbgctl : Nat := 0x30040

/-- Stop every gang of a context, and its placements (10 R232). -/
def State.stopContext (s : State) (ctx : Nat) : State :=
  let stop := fun (g : Gang) => if g.ctx == ctx then { g with stopped := true } else g
  { s with gangs := s.gangs.map stop, cur := s.cur.map stop
           ctxs := s.ctxs.map fun e => if e.1 = ctx then (e.1, { e.2 with stopAll := true }) else e }

/-- What a breakpoint of a gang stops: in stop-all mode the whole context (10 R231, R232). -/
def State.breakStops (s : State) (g : Gang) : State := if (s.reg g.part regDbgctl).getLsbD 0 then s.stopContext g.ctx else s

/-- BRK stops the gang before it under an attached debugger (10 R231), and traps otherwise. A gang that the debugger has
resumed or stepped at this word goes past it. -/
def execBrk (o : FormNS) (s : State) : Out :=
  runWord (.brk o) s fun g s =>
    if s.debugged g.part then
      if g.passStop then .next (s.wordDone (g.mapSlices (·.advance 4 false)))
      else .next ((s.setCur { g with stopped := true }).breakStops g)
    else .next (s.trapped g ⟨Cause.breakpoint, 0⟩)

/-- ERET (10 R223). -/
def execEret (o : FormNS) (s : State) : Out :=
  runWord (.eret o) s fun g s =>
    match g.firstTrap fun sl => if sl.tepc.extractLsb' 0 2 ≠ 0 then some ⟨Cause.misalignedFetch, sl.tepc⟩ else none with
    | some t => .next (s.trapped g t)
    | none => .next (s.wordDone { g.mapSlices Slice.eret with buf := [] })

/-! ## CHKERR (21 R432) -/

/-- CHKERR reads and clears CHKIV in one step, slice by slice in position order (R432). -/
def execChkerr (o : FormNS) (s : State) : Out :=
  runWord (.chkerr o) s fun g s =>
    let c := s.rctx g
    let r := g.slices.foldl
      (fun (p : List Slice × State) sl =>
        let v := p.2.chkiv g.ctx
        (p.1 ++ [(sl.writeS c (.variable 180) (o.imm.extractLsb' 0 5) ⟨v, false⟩).advance 4 (regionEnding (.chkerr o))],
         p.2.setChkiv g.ctx 0)) ([], s)
    .next (r.2.wordDone { g with slices := r.1 })

/-! ## CSRs (05 R118) -/

/-- COREID of a place. -/
def coreId (core quad : Nat) : Word64 :=
  BitVec.ofNat 64 (core + 256 * quad + 1024 * groupOf core + 16384 * dieOf core)

/-- EM or a mask as the gang reads it: bits of absent positions are 0 (05 R93). -/
def Gang.gather (g : Gang) (f : Slice → BitVec 4) : Nat := (g.slices.map fun sl => (f sl).toNat * 2 ^ (4 * sl.pos)).sum

/-- The value of a CSR in a slice. -/
def State.csr (s : State) (g : Gang) (sl : Slice) (n : Nat) : Word64 :=
  let nat := fun (k : Nat) => BitVec.ofNat 64 k
  let bit := fun (b : Bool) (k : Nat) => nat (if b then 2 ^ k else 0)
  match n with
  | 0x000 => bit sl.ppriv 2 ||| bit sl.priv 1 ||| bit sl.regangfail 0
  | 0x001 => bit sl.nantrap 1 ||| bit sl.ftz 0
  | 0x002 => sl.lfsr.a0.setWidth 64
  | 0x003 => nat (g.gather Slice.em)
  | 0x004 => bit (s.quad g.quadNo).rr 0
  | 0x005 => s.chkiv g.ctx
  | 0x008 => sl.tvec
  | 0x009 => sl.tcause
  | 0x00A => sl.tval
  | 0x00B => sl.tepc
  | 0x010 => sl.spillp
  | 0x011 => nat (sl.link.length + 65536 * min sl.spilled 65535)
  | 0x012 => nat sl.recon.length
  | 0x013 => nat g.lregs
  | 0x014 => sl.regionpc
  | 0x015 => sl.lives.setWidth 64
  | 0x016 => (sl.livev.extractLsb' 0 32).setWidth 64
  | 0x017 => (sl.livev.extractLsb' 32 32).setWidth 64
  | 0x018 => nat sl.index
  | 0x019 => nat (sl.pos + 256 * g.positions)
  | 0x01A => coreId g.core g.quad
  | 0x01B => nat ((s.part g.part).devid.toNat + 4096 * g.part)
  | 0x01C => nat s.cycle
  | 0x020 => sl.scrb
  | 0x021 => sl.scrl
  | 0x022 => sl.stkb
  | 0x023 => sl.stkl
  | 0x024 => sl.glbb
  | 0x025 => sl.glbl
  | _ => 0

/-- The latency of a CSRR (08 R189). -/
def csrLat (n : Nat) : Lat := if n = 5 then .variable 180 else .fixed 1

/-- A value that the slices of a twin pair read as one: the primary's slice notes what it reads, and its shadow's slice takes that (21 R439,
R442). -/
def State.pairedRead (s : State) (g : Gang) (sl : Slice) (v : SVal) : SVal × Slice :=
  if !s.twin g then (v, sl)
  else
    match s.primaryOf g sl with
    | some (_, p) => sl.takeNote p
    | none => (v, sl.note v)

/-- CSRR (06 R147). A shadow's CSRR of COREID or CYCLE waits until its primary has read it (21 R439). -/
def execCsrr (o : FormNI) (s : State) : Out :=
  runWord (.csrr o) s fun g s =>
    let c := s.rctx g
    let n := csrOf o
    let done := fun (sl : Slice) (v : SVal) => (sl.writeS c (csrLat n) o.sd ⟨v.v, false⟩).advance 4 (regionEnding (.csrr o))
    if n = 0x01A ∨ n = 0x01C then
      if g.slices.any fun sl => s.lacksNotes g sl 1 then .next (s.holdWord g (.notes (s.needed g fun _ => 1)))
      else .next (s.wordDone (g.mapSlices fun sl =>
        let (v, sl1) := s.pairedRead g sl ⟨s.csr g sl n, false⟩
        done sl1 v))
    else .next (s.wordDone (g.mapSlices fun sl => done sl ⟨s.csr g sl n, false⟩))

/-- The LFSR state that a seed gives to lane index `l` (04 R79). -/
def seedLane (w : Word64) (l : Nat) : BitVec 16 :=
  let x := w.setWidth 16 ^^^ BitVec.ofNat 16 (0x0101 * l)
  if x = 0 then 1 else x

/-- CSRW's effect on a slice: fields marked R ignore the write, PPRIV in user mode too; a 1 leaves REGANGFAIL (R119); EM
never regains an exited lane (R99). -/
def Slice.csrWrite (sl : Slice) (n : Nat) (v : Word64) : Slice :=
  match n with
  | 0x000 => { sl with ppriv := if sl.priv then v.getLsbD 2 else sl.ppriv, regangfail := sl.regangfail && v.getLsbD 0 }
  | 0x001 => { sl with nantrap := v.getLsbD 1, ftz := v.getLsbD 0 }
  | 0x002 =>
    let f := fun k => seedLane v (4 * sl.pos + k)
    { sl with lfsr := ⟨f 0, f 1, f 2, f 3⟩ }
  | 0x003 => { sl with em := v.extractLsb' (4 * sl.pos) 4 &&& ~~~sl.exited }
  | 0x008 => { sl with tvec := v }
  | 0x009 => { sl with tcause := v }
  | 0x00A => { sl with tval := v }
  | 0x00B => { sl with tepc := v }
  | _ => sl

/-- A CSRW of one slice: the CSR's value as the lower slices have left it goes into sd (06 R121, R147). A shadow takes ISSUEPOL's from its primary,
which alone writes it (21 R442). -/
def State.csrwSlice (s : State) (g : Gang) (c : RCtx) (o : FormNI) (sl : Slice) (k : Nat) : Slice × Gang × State :=
  let n := csrOf o
  let v := (sl.readS c o.sa).v
  let (old, sl1) := if n = 4 then s.pairedRead g sl ⟨s.csr g sl n, false⟩ else (⟨s.csr g sl n, false⟩, sl)
  let out := ((sl1.csrWrite n v).writeS c (csrLat n) o.sd ⟨old.v, false⟩).advance 4 true
  let g' := { g with slices := g.slices.modify k (·.csrWrite n v) }
  (out, g', if n = 4 ∧ ¬ s.isShadow g then s.setQuad g.quadNo { s.quad g.quadNo with rr := v.getLsbD 0 } else s)

/-- CSRW (06 R147): the old value into sd, with the latency of a CSRR (log 59). ISSUEPOL belongs to the quadrant (08 R192), and its write is
irrevocable (21 R436). -/
def execCsrw (o : FormNI) (s : State) : Out :=
  runWord (.csrw o) s fun g s =>
    let c := s.rctx g
    let n := csrOf o
    match g.firstTrap (fun sl => poisonTrap (sl.readS c) [o.sa]) with
    | some t => .next (s.trapped g t)
    | none =>
      if n = 4 ∧ s.twinWaits g then .next (s.setCur { g with park := .twin false })
      else if n = 4 ∧ g.slices.any (fun sl => s.lacksNotes g sl 1) then .next (s.holdWord g (.notes (s.needed g fun _ => 1)))
      else
        let s1 := if n = 4 then s.irrevocable g else s
        let r := g.slices.zipIdx.foldl
          (fun (p : List Slice × Gang × State) x =>
            let (out, g', s') := p.2.2.csrwSlice p.2.1 c o x.1 x.2
            (p.1 ++ [out], g', s')) ([], g, s1)
        .next (r.2.2.wordDone { g with slices := r.1 })

/-- SEGW's effect: the selected segment register (06 R148). -/
def Slice.segWrite (sl : Slice) (k : Nat) (v : Word64) : Slice :=
  match k with
  | 0 => { sl with scrb := v }
  | 1 => { sl with scrl := v }
  | 2 => { sl with stkb := v }
  | 3 => { sl with stkl := v }
  | 4 => { sl with glbb := v }
  | 5 => { sl with glbl := v }
  | _ => sl

/-- SEGW. -/
def execSegw (o : FormNR) (s : State) : Out :=
  runWord (.segw o) s fun g s =>
    let c := s.rctx g
    match g.firstTrap (fun sl => poisonTrap (sl.readS c) [o.sa]) with
    | some t => .next (s.trapped g t)
    | none =>
      if s.twinWaits g then .next (s.setCur { g with park := .twin false })
      else .next ((s.irrevocable g).wordDone (g.mapSlices fun sl =>
        (sl.segWrite (o.fn.extractLsb' 0 3).toNat (sl.readS c o.sa).v).advance 4 true))

/-! ## TLBI (11 R249) -/

/-- TLBI: removal at once in every unit; the gang parks until they confirm. -/
def execTlbi (o : FormNR) (s : State) : Out :=
  runWord (.tlbi o) s fun g s =>
    let c := s.rctx g
    let all := o.fn.getLsbD 0
    let check := fun (sl : Slice) =>
      if all then none
      else (poisonTrap (sl.readS c) [o.sa]).orElse fun _ =>
        if (sl.readS c o.sa).v.extractLsb' 56 8 ≠ 0 then some ⟨Cause.addressHole, (sl.readS c o.sa).v⟩ else none
    match g.firstTrap check with
    | some t => .next (s.trapped g t)
    | none =>
      if s.twinWaits g then .next (s.setCur { g with park := .twin false })
      else
        let s1 := g.slices.foldl
          (fun s sl => s.tlbRemove g.ctx (if all then none else some (sl.readS c o.sa).v.toNat)) (s.irrevocable g)
        .next (s1.wordDone { g.mapSlices (·.advance 4 false) with park := .tlbi })

/-! ## Regions -/

/-- REGION of one slice (05 R109): the entry address, the mask, the snapshot; a pre-emption hold-off ends (07 R178). -/
def Slice.openRegion (sl : Slice) (mask : BitVec 24) : Slice :=
  { sl with
    noteMark := sl.notePos
    regionpc := sl.pc
    lives := mask
    livev := 0
    snap := { em := sl.em, masks := sl.masks, recon := sl.recon }
    between := false
    justRegion := true
    holdoff := false
    unfin := none
    pc := sl.pc + 4 }

def execRegion (o : FormNJ) (s : State) : Out :=
  runWord (.region o) s fun g s => .next (s.wordDone (g.mapSlices (·.openRegion o.x)))

/-- LIVEV's mask lies in parcels 1 and 2 (03 R56). -/
def livevMask (o : Wide) : BitVec 64 := o.imm ++ o.parcel1

def execLivev (o : Wide) (s : State) : Out :=
  sliceWord (.livev o) s (fun _ _ => none) (fun _ sl => { sl with livev := livevMask o })

end Sys2Proof.Machine
end

