-- ==== Sys2Proof/Machine/Mask.lean ====
section
/-! DEFINITION. Lane branches (05 R96 to R98, 07 R180), mask words and EMSET (07 R182, R183), spawning from lanes (07
R185). -/

namespace Sys2Proof.Machine

/-! ## VBR -/

/-- The target and the reconvergence point of VBR, from its first parcel (03 R56). -/
def vbrTarget (o : Wide) (pc : Word64) : Word64 := dispTarget pc (o.imm.extractLsb' 16 16)
def vbrJoin (o : Wide) (pc : Word64) : Word64 := dispTarget pc (o.imm.extractLsb' 0 16)

/-- How the gang's EM divides: none taken, all taken, or a divergence. -/
inductive Split where
  | none | all | some
  deriving DecidableEq, Repr

def Gang.split (g : Gang) (c : RCtx) (pm : Pm) : Split :=
  if g.slices.all fun sl => sl.act c pm == 0 then .none
  else if g.slices.all fun sl => sl.act c pm == sl.em then .all
  else .some

/-- A divergence in one slice: the join entry, the pending entry, EM the taken lanes (R96). -/
def Slice.diverge (sl : Slice) (c : RCtx) (o : Wide) : Slice :=
  let taken := sl.act c o.pm
  let r := vbrJoin o sl.pc
  { sl.after (vbrTarget o sl.pc) false with
    recon := { rpc := r, pc := sl.pc + 12, mask := sl.em &&& ~~~taken } :: { rpc := r, pc := r, mask := sl.em } :: sl.recon
    em := taken }

/-- The traps of a taken VBR: a full stack, which matters only to a divergence (R98), then the target and the reconvergence
point. -/
def State.vbrTrap (s : State) (g : Gang) (o : Wide) (sp : Split) (sl : Slice) : Option Trap :=
  match sp with
  | .none => none
  | .all => s.targetTrap g (!sl.priv) (vbrTarget o sl.pc)
  | .some =>
    if 63 ≤ sl.recon.length then some ⟨Cause.engineFault, sl.pc⟩
    else (s.targetTrap g (!sl.priv) (vbrTarget o sl.pc)).orElse fun _ => s.targetTrap g (!sl.priv) (vbrJoin o sl.pc)

/-- VBR (R96). -/
def execVbr (o : Wide) (s : State) : Out :=
  runWord (.vbr o) s fun g s =>
    let c := s.rctx g
    let sp := g.split c o.pm
    match g.firstTrap (s.vbrTrap g o sp) with
    | some t => .next (s.trapped g t)
    | none =>
      .next (s.wordDone (g.mapSlices fun sl =>
        match sp with
        | .none => sl.advance 12 false
        | .all => sl.after (vbrTarget o sl.pc) false
        | .some => sl.diverge c o))

/-! ## Mask words (R182) -/

/-- The mask register in a register field. -/
def maskField (v : VReg) : Nat := (v.extractLsb' 0 3).toNat

/-- Write a whole segment of a mask register. -/
def Slice.writeMask (sl : Slice) (c : RCtx) (m : Nat) (x : BitVec 4) : Slice :=
  (List.range 4).foldl (fun acc k => acc.writeM c (.fixed 1) m k (x.getLsbD k)) sl

/-- MSET, from imm32 or from the slice's ss, whose tag traps. -/
def execMset (o : Wide) (s : State) : Out :=
  sliceWord (.mset o) s
    (fun c sl => if o.fn ≠ 0 ∧ (sl.readS c o.ss).tag then some ⟨Cause.poisonUse, 32⟩ else none)
    (fun c sl =>
      let x : Word32 := if o.fn = 0 then o.imm else (sl.readS c o.ss).v.setWidth 32
      sl.writeMask c (maskField o.vd) (x.extractLsb' (4 * sl.pos) 4))

/-- AND, OR, XOR, ANDN, NOT, MOV as 0 to 5. -/
def maskOp (op : Nat) (a b : BitVec 4) : BitVec 4 :=
  match op with
  | 0 => a &&& b
  | 1 => a ||| b
  | 2 => a ^^^ b
  | 3 => a &&& ~~~b
  | 4 => ~~~a
  | _ => a

/-- MOP. -/
def execMop (o : Wide) (s : State) : Out :=
  sliceWord (.mop o) s (fun _ _ => none)
    (fun c sl => sl.writeMask c (maskField o.vd) (maskOp o.fn.toNat (sl.readMask c (maskField o.va)) (sl.readMask c (maskField o.vb))))

/-- A word that writes one value into ss of every slice, whatever EM holds. -/
def everySlice (i : Instr) (o : Wide) (s : State) (value : Gang → RCtx → Word64) : Out :=
  runWord i s fun g s =>
    let c := s.rctx g
    .next (s.wordDone (g.mapSlices fun sl =>
      (sl.writeS c (.fixed 1) o.ss ⟨value g c, false⟩).advance (wordBytes i) (regionEnding i)))

/-- MPOPC. -/
def execMpopc (o : Wide) (s : State) : Out :=
  everySlice (.mpopc o) o s fun g c =>
    BitVec.ofNat 64 (oneBits (BitVec.ofNat 32 (g.gather fun sl => sl.readMask c (maskField o.va))) 32)

/-- MFFS: 32 when no bit is set. -/
def execMffs (o : Wide) (s : State) : Out :=
  everySlice (.mffs o) o s fun g c =>
    BitVec.ofNat 64 (trailingZeros (BitVec.ofNat 32 (g.gather fun sl => sl.readMask c (maskField o.va))) 32)

/-- EMSET (R183). -/
def execEmset (o : Wide) (s : State) : Out :=
  sliceWord (.emset o) s (fun _ _ => none)
    (fun c sl =>
      let m := sl.readMask c (maskField o.va)
      { sl with em := if o.fn = 0 then m &&& ~~~sl.exited else sl.em &&& m })

/-! ## SPAWNV (R185) -/

/-- The tags that stop SPAWNV: E, B and C, or va in an active lane. -/
def spawnvTag (o : Wide) (c : RCtx) (sl : Slice) : Option Trap :=
  let lanes := lanesOf (sl.act c o.pm)
  if lanes.isEmpty then none
  else if (sblock o.ss 3).any fun r => (sl.readS c r).tag then some ⟨Cause.poisonUse, 32⟩
  else (lanes.find? fun k => (sl.readV c o.va k).tag).map fun k => ⟨Cause.poisonUse, BitVec.ofNat 64 (sl.laneIx k)⟩

/-- Queue the children of one slice: one brood, at tier C a brood for each lane. -/
def State.queueLanes (s : State) (g : Gang) (c : RCtx) (o : Wide) (sl : Slice) (lregs : Nat) : State :=
  let tier := (o.fn.extractLsb' 0 3).toNat
  let kib := (o.imm.extractLsb' 0 16).toNat
  let r := fun (k : Nat) => (sl.readS c (o.ss + BitVec.ofNat 5 k)).v
  let args := (lanesOf (sl.act c o.pm)).map fun k => r 1 + (sl.readV c o.va k).v.setWidth 64
  if tier = 1 then
    args.foldl (fun s a => s.queueSpawn g sl tier kib lregs 1 (r 0) a (r 2) [a]) s
  else s.queueSpawn g sl tier kib lregs args.length (r 0) (r 1) (r 2) args

/-- SPAWNV. -/
def execSpawnv (o : Wide) (s : State) : Out :=
  runWord (.spawnv o) s fun g s =>
    let c := s.rctx g
    let tier := (o.fn.extractLsb' 0 3).toNat
    let r := fun (sl : Slice) (k : Nat) => (sl.readS c (o.ss + BitVec.ofNat 5 k)).v
    let active := fun (sl : Slice) => sl.act c o.pm != 0
    let check := fun (s : State) (sl : Slice) =>
      if active sl then (s.spawnCheck g sl (r sl 0) (r sl 2), s)
      else (Check.ok { loc := .scratch 0, size := 0, por := false, gen := 0 }, s)
    let (cs, s1) := s.checkSlices g (tagFirst (spawnvTag o c) check)
    match firstTrapOf cs, firstFaultOf cs with
    | some t, _ => .next (s1.trapped g t)
    | none, some f => .next (s1.parkFault g f (faultEntry cs fun sl => r sl 0))
    | none, none =>
      let done := g.mapSlices (·.advance 12 true)
      if !g.slices.any active then .next (s1.wordDone done)
      else if s1.twinWaits g then .next (s1.setCur { g with park := .twin false })
      else if !s1.ackClear g.core tier then .next (s1.holdWord g .ack)
      else
        let s2 := (s1.edgeSource g tier).irrevocable g
        let s3 := if s2.isShadow g then s2 else cs.foldl
          (fun s p =>
            match p.2 with
            | some (.ok a) => if active p.1 then s.queueLanes g c o p.1 a.size else s
            | _ => s) s2
        .next (s3.wordDone done)

end Sys2Proof.Machine
end

