-- ==== Sys2Proof/Machine/Special.lean ====
section
/-! DEFINITION. The special functions (04 R89, R90): exact results where R90 gives them; elsewhere a free value within the
bound of R89. The exact function is known here to 60 bits and more by integer arithmetic, and the bound is taken around
that, narrower by the error; where a free choice lies outside it, the nearest f32 stands. Log 7. -/

namespace Sys2Proof.Machine

/-! ## Integer arithmetic in fixed point -/

/-- Fraction bits of the fixed point. -/
def fp : Nat := 160

/-- ln 2 and 2π times 2^160, truncated. -/
def fpLn2 : Nat := 0xb17217f7d1cf79abc9e3b39803f2f6af40f34326
def fpTau : Nat := 0x6487ed5110b4611a62633145c06e0e68948127044

/-- The integer square root of `x`, from a partial root `r`, bit by bit. -/
def rootFrom (x : Nat) : Nat → Nat → Nat
  | 0, r => r
  | k + 1, r => rootFrom x k (if (r + 2 ^ k) * (r + 2 ^ k) ≤ x then r + 2 ^ k else r)

/-- The square root of a number below 2^400. -/
def isqrt (x : Nat) : Nat := rootFrom x 200 0

/-- Σ x^k / k!, terms from the k-th, x in fixed point. -/
def expTerms (x : Nat) : Nat → Nat → Nat → Nat
  | 0, _, _ => 0
  | n + 1, k, t => t + expTerms x n (k + 1) (t * x / 2 ^ fp / (k + 1))

/-- e^x of a fixed-point number below 32. -/
def fpExp (x : Nat) : Nat := expTerms x 160 0 (2 ^ fp)

/-- Alternating Σ of x^k / k! for k, k + 2, …, the sign given by the Bool. -/
def trigTerms (x : Nat) : Nat → Nat → Nat → Bool → Int
  | 0, _, _, _ => 0
  | n + 1, k, t, neg =>
    (if neg then -(t : Int) else t) + trigTerms x n (k + 2) (t * x / 2 ^ fp / (k + 1) * x / 2 ^ fp / (k + 2)) (!neg)

/-- sin and cos of a fixed-point angle below 2π. -/
def fpSin (x : Nat) : Int := trigTerms x 60 1 x false
def fpCos (x : Nat) : Int := trigTerms x 60 0 (2 ^ fp) false

/-- Bits of the fraction of log₂ y, y in [1, 2) with 256 fraction bits. -/
def logBits : Nat → Nat → Nat → Nat
  | 0, _, acc => acc
  | n + 1, y, acc =>
    let z := y * y / 2 ^ 256
    if 2 ^ 257 ≤ z then logBits n (z / 2) (2 * acc + 1) else logBits n z (2 * acc)

/-! ## The exact functions, approximately -/

/-- An approximation: a sign, a magnitude m × 2^e with more than 60 good bits. -/
structure Approx where
  neg : Bool
  m : Nat
  e : Int
  deriving DecidableEq, Repr

/-- A fixed-point integer as an approximation. -/
def Approx.ofFp (x : Int) : Approx := ⟨decide (x < 0), x.natAbs, -(fp : Int)⟩

/-- m × 2^e in fixed point, truncated. -/
def toFp (m : Nat) (e : Int) : Nat := if 0 ≤ e + fp then m * 2 ^ (e + fp).toNat else m / 2 ^ (-(e + fp)).toNat

def approxRcp (neg : Bool) (m : Nat) (e : Int) : Approx := ⟨neg, 2 ^ 200 / m, -e - 200⟩

/-- √(m × 2^e): the exponent made even. -/
def approxSqrt (m : Nat) (e : Int) : Approx :=
  let m' := if e % 2 = 0 then m else 2 * m
  let e' := if e % 2 = 0 then e else e - 1
  ⟨false, isqrt (m' * 2 ^ 200), e' / 2 - 100⟩

def approxRsq (m : Nat) (e : Int) : Approx :=
  let r := approxSqrt m e
  ⟨false, 2 ^ 300 / r.m, -r.e - 300⟩

/-- The whole part and the fraction, in fixed point, of ±m × 2^e. -/
def splitFp (neg : Bool) (m : Nat) (e : Int) : Int × Nat :=
  let x := signed neg (toFp m e)
  (x / 2 ^ fp, (x % 2 ^ fp).toNat)

/-- 2^x = 2^n × e^(f ln 2). -/
def approxExp2 (neg : Bool) (m : Nat) (e : Int) : Approx :=
  let (n, f) := splitFp neg m e
  ⟨false, fpExp (f * fpLn2 / 2 ^ fp), n - fp⟩

/-- log₂ (m × 2^e). -/
def approxLog2 (m : Nat) (e : Int) : Approx :=
  let l := Nat.log2 m
  let f := logBits 100 (m * 2 ^ 256 / 2 ^ l) 0
  let x : Int := (e + l) * 2 ^ 100 + f
  ⟨decide (x < 0), x.natAbs, -100⟩

/-- The fraction of a turn, in fixed point; exact for every f32. -/
def turnOf (neg : Bool) (m : Nat) (e : Int) : Nat := (splitFp neg m e).2

def approxSin (t : Nat) : Approx := Approx.ofFp (fpSin (t * fpTau / 2 ^ fp))
def approxCos (t : Nat) : Approx := Approx.ofFp (fpCos (t * fpTau / 2 ^ fp))

/-- tanh of ±m × 2^e below 9.1: (E − 1) / (E + 1) with E = e^(2|x|). -/
def approxTanh (neg : Bool) (m : Nat) (e : Int) : Approx :=
  let x := fpExp (2 * toFp m e)
  ⟨neg, (x - 2 ^ fp) * 2 ^ fp / (x + 2 ^ fp), -(fp : Int)⟩

/-! ## The bound (R89) -/

/-- A bound: some ulps of the exact result, or an absolute power of two. -/
inductive Bound where
  | ulps (n : Nat)
  | abs (e : Int)
  deriving DecidableEq, Repr

/-- The exponent of the last place at a magnitude. -/
def ulpExp (m : Nat) (e : Int) : Int := max fmtF32.eMin (e + Nat.log2 m - 23)

/-- A finite value lies within the bound of the exact result, whatever that is within 2^-60 of the approximation. -/
def Approx.near (a : Approx) (b : Bound) : FVal → Bool
  | .fin n m e =>
    let (bm, be) := match b with
      | .ulps k => (k, ulpExp a.m a.e)
      | .abs x => (1, x)
    let lo := min (min e (a.e - 60)) (min be a.e)
    let d := (signed n (scaleTo lo m e) - signed a.neg (scaleTo lo a.m a.e)).natAbs
    decide (d + scaleTo lo a.m (a.e - 60) ≤ scaleTo lo bm be)
  | _ => false

/-- A result within the bound: the free choice if it lies there, else the nearest, which past the largest finite value is an
infinity. -/
def Approx.choose (a : Approx) (b : Bound) (choice : Nat) : Nat :=
  if a.near b (fmtF32.decode choice) then choice else fmtF32.roundFin 0 0 false false a.neg a.m a.e true

/-- The code of 2^k, or of ±k as a number. -/
def codePow (k : Int) : Nat := fmtF32.roundFin 0 0 false false false 1 k false
def codeInt (k : Int) : Nat := fmtF32.round 0 0 false false (ofInt k)

def codeZero (neg : Bool) : Nat := fmtF32.signBit neg
def codeInf (neg : Bool) : Nat := fmtF32.signBit neg + 0x7F800000
def codeOne (neg : Bool) : Nat := fmtF32.signBit neg + 0x3F800000

/-- The exponent of a power of two, if m × 2^e is one. -/
def powerOf (m : Nat) (e : Int) : Option Int :=
  if m = 2 ^ Nat.log2 m then some (e + Nat.log2 m) else none

/-- Exact sin or cos at a multiple of a quarter turn (R90), by quarter 0 to 3. -/
def quarterSin (q : Nat) : Nat := if q = 1 then codeOne false else if q = 3 then codeOne true else codeZero false

/-- A special function of a value: operation 0 to 7 in opcode order, the source bits that name the free choice. -/
def special (op : Nat) (x : FVal) (bits : Word32) : Nat :=
  let choice := (Config.special op bits).toNat
  let nan := fmtF32.nan
  match x with
  | .nan => nan
  | .inf neg =>
    match op with
    | 0 => codeZero neg
    | 1 => if neg then nan else codeZero false
    | 2 => if neg then nan else codeInf false
    | 3 => if neg then codeZero false else codeInf false
    | 4 => if neg then nan else codeInf false
    | 7 => codeOne neg
    | _ => nan
  | .fin neg m e =>
    if m = 0 then
      match op with
      | 0 => codeInf neg
      | 1 => codeInf neg
      | 2 => codeZero neg
      | 3 => codeOne false
      | 4 => codeInf true
      | 5 => codeZero neg
      | 6 => codeOne false
      | _ => codeZero neg
    else
      match op with
      | 0 =>
        match powerOf m e with
        | some k => if -126 ≤ -k ∧ -k ≤ 127 then codePow (-k) ||| codeZero neg else (approxRcp neg m e).choose (.ulps 1) choice
        | none => (approxRcp neg m e).choose (.ulps 1) choice
      | 1 =>
        if neg then nan
        else match powerOf m e with
          | some k => if k % 2 = 0 then codePow (-(k / 2)) else (approxRsq m e).choose (.ulps 1) choice
          | none => (approxRsq m e).choose (.ulps 1) choice
      | 2 =>
        if neg then nan
        else match powerOf m e with
          | some k => if k % 2 = 0 then codePow (k / 2) else (approxSqrt m e).choose (.ulps 1) choice
          | none => (approxSqrt m e).choose (.ulps 1) choice
      | 3 =>
        let (n, f) := splitFp neg m e
        let tiny := 0 < -(e + fp) ∧ m % 2 ^ (-(e + fp)).toNat ≠ 0
        if 128 ≤ n then codeInf false
        else if n < -150 then codeZero false
        else if f = 0 ∧ ¬ tiny ∧ -149 ≤ n then codePow n
        else (approxExp2 neg m e).choose (.ulps 2) choice
      | 4 =>
        if neg then nan
        else match powerOf m e with
          | some k => codeInt k
          | none =>
            let a := approxLog2 m e
            let top := e + Nat.log2 m
            a.choose (if top = 0 ∨ top = -1 then .abs (-22) else .ulps 2) choice
      | 5 =>
        let t := turnOf neg m e
        if 4 * t % 2 ^ fp = 0 then quarterSin (4 * t / 2 ^ fp) else (approxSin t).choose (.abs (-22)) choice
      | 6 =>
        let t := turnOf neg m e
        if 4 * t % 2 ^ fp = 0 then quarterSin ((4 * t / 2 ^ fp + 1) % 4) else (approxCos t).choose (.abs (-22)) choice
      | _ =>
        if 91 * 2 ^ fp ≤ 10 * toFp m e then codeOne neg
        else (approxTanh neg m e).choose (if toFp m e * 64 < 2 ^ fp then .abs (-29) else .ulps 2) choice

/-- A special-function word: FTZ on source and result; a NaN from a source that is none is produced (R76, R90). -/
def specialWord (i : Instr) (op : Nat) (o : Wide) (s : State) : Out :=
  laneWordN i s fun c sl k acc =>
    let a := sl.readV c o.va k
    let x := sl.srcF32 a.v 0
    let code := special op x a.v
    let code := if sl.ftz then fmtF32.round 0 0 false true (fmtF32.decode code) else code
    (acc.writeV c (.fixed 16) o.vd k ⟨BitVec.ofNat 32 code, a.tag⟩, produced fmtF32 code [x])

def execVfrcp (o : Wide) (s : State) : Out := specialWord (.vfrcp o) 0 o s
def execVfrsq (o : Wide) (s : State) : Out := specialWord (.vfrsq o) 1 o s
def execVfsqrt (o : Wide) (s : State) : Out := specialWord (.vfsqrt o) 2 o s
def execVfexp2 (o : Wide) (s : State) : Out := specialWord (.vfexp2 o) 3 o s
def execVflog2 (o : Wide) (s : State) : Out := specialWord (.vflog2 o) 4 o s
def execVfsin (o : Wide) (s : State) : Out := specialWord (.vfsin o) 5 o s
def execVfcos (o : Wide) (s : State) : Out := specialWord (.vfcos o) 6 o s
def execVftanh (o : Wide) (s : State) : Out := specialWord (.vftanh o) 7 o s

end Sys2Proof.Machine
end

