-- ==== Sys2Proof/Machine/Issue.lean ====
section
/-! DEFINITION. Issue in a quadrant (08 R186 to R195): readiness, selection, fetch with its checks and the fetch buffer (10
R216 to R220), and what follows a word: settling, reconvergence (05 R97), parting (05 R94), the branch bubble. -/

namespace Sys2Proof.Machine

/-! ## The next word -/

/-- The word that begins with some parcels, as decoding finds it. -/
def decodeHead (ps : List Parcel) : Except DecodeError Instr := (decode ps).map (·.1)

/-- Parcels at the front of a fetch buffer that hold the word at an address, whole. -/
def bufferedWord (buf : List Fetched) (a : Word64) : Option (List Fetched) :=
  match buf with
  | f :: rest =>
    if f.addr = a then
      let n := parcelCount f.parcel
      if n - 1 ≤ rest.length then some (f :: rest.take (n - 1)) else none
    else none
  | [] => none

/-- The parcels at an address up to the first that cannot be read, at most `n`. -/
def State.peekParcels (s : State) (g : Gang) (a : Word64) : Nat → List Parcel
  | 0 => []
  | n + 1 =>
    match s.peekParcel g g.user a with
    | some p => p :: s.peekParcels g (a + 4) n
    | none => []

/-- The word at a gang's pc without fetching it: from its buffer, or as code would be read. -/
def State.peekWord (s : State) (g : Gang) : Option Instr :=
  let ps := match bufferedWord g.buf g.pc with
    | some fs => fs.map Fetched.parcel
    | none => s.peekParcels g g.pc 3
  match decodeHead ps with
  | .ok i => some i
  | .error _ => none

/-! ## Fetch (10 R217, R220) -/

/-- How the fetch of one parcel comes out. -/
inductive Fetch where
  | ok (f : Fetched)
  | trap (t : Trap)
  | fault (f : FaultRec)
  deriving DecidableEq, Repr

/-- The fetch floor of a parcel (R218): the start or resumption of the strand, or a later ICINV over it that a FETCHB has followed. -/
def Gang.floorAt (g : Gang) (a : Word64) : Nat :=
  (g.floors.filter fun r => decide (r.1 ≤ a.toNat) && decide (a.toNat < r.1 + r.2.1)).foldl (fun m r => max m r.2.2) g.floor

/-- The fetch floor of a wide word: that of its parcels which is the latest, so that the word is of one floor (R218). -/
def Gang.floorOf (g : Gang) (a : Word64) : Nat := max (g.floorAt a) (max (g.floorAt (a + 4)) (g.floorAt (a + 8)))

/-- Fetch one parcel with the checks of R220, at a floor. -/
def State.fetchAt (s : State) (g : Gang) (a : Word64) (floor : Nat) : Fetch × State :=
  if a.extractLsb' 56 8 ≠ 0 then (.trap ⟨Cause.addressHole, g.pc⟩, s)
  else
    let (x, s1) := s.xlate g.core g.part g.ctx a.toNat { x := true, user := g.user }
    match x with
    | .fault why lv e pool => (.fault (faultOf g a.toNat 3 why lv s.cycle e pool), s1)
    | .denied => (.trap ⟨Cause.protection, a⟩, s1)
    | .ok pa l =>
      let (p, bad, s2) := s1.fetchParcel g.core pa floor
      if l.por || bad then (.trap ⟨Cause.poisonUse, 32⟩, s2) else (.ok ⟨a, p, false⟩, s2)

/-- What fetch gives the slot. -/
inductive Fetching where
  | word (ps : List Fetched)
  | trap (t : Trap)
  | fault (f : FaultRec)
  deriving DecidableEq, Repr

/-- Fetch further parcels of a word, in address order. -/
def State.fetchMore (s : State) (g : Gang) (floor : Nat) (a : Word64) : Nat → List Fetched → Fetching × State
  | 0, acc => (.word acc, s)
  | n + 1, acc =>
    match s.fetchAt g a floor with
    | (.ok f, s') => s'.fetchMore g floor (a + 4) n (acc ++ [f])
    | (.trap t, s') => (.trap t, s')
    | (.fault f, s') => (.fault f, s')

/-- Fetch a word at a floor, every parcel anew. -/
def State.fetchFrom (s : State) (g : Gang) (a : Word64) (floor : Nat) : Fetching × State :=
  match s.fetchAt g a floor with
  | (.ok f, s') => s'.fetchMore g floor (a + 4) (parcelCount f.parcel - 1) [f]
  | (.trap t, s') => (.trap t, s')
  | (.fault f, s') => (.fault f, s')

/-- Fetch the word at an address: a wide word whose later parcels have a later floor is fetched whole at that floor (R218). -/
def State.fetchWord (s : State) (g : Gang) (a : Word64) : Fetching × State :=
  match s.fetchAt g a (g.floorAt a) with
  | (.ok f, s') =>
    if parcelCount f.parcel = 1 then (.word [f], s')
    else if g.floorOf a = g.floorAt a then s'.fetchMore g (g.floorAt a) (a + 4) (parcelCount f.parcel - 1) [f]
    else s'.fetchFrom g a (g.floorOf a)
  | (.trap t, s') => (.trap t, s')
  | (.fault f, s') => (.fault f, s')

/-- The next word of a gang: taken from its buffer when it stands there, else fetched, the buffer discarded. The buffer keeps the word until it
has been performed (R226), so that a word that waits, parks or is held is the same word when it goes on. -/
def State.nextWord (s : State) (g : Gang) : Fetching × List Fetched × State :=
  match bufferedWord g.buf g.pc with
  | some fs => (.word fs, g.buf, s)
  | none =>
    let (f, s') := s.fetchWord g g.pc
    (f, match f with
      | .word fs => fs
      | _ => [], s')

/-- The word at an address leaves the buffer. -/
def Gang.dropWord (g : Gang) (a : Word64) : Gang :=
  match bufferedWord g.buf a with
  | some fs => { g with buf := g.buf.drop fs.length }
  | none => g

/-- What fetch finds at an address before anything is filled. -/
inductive Arrival where
  | parcel (p : Parcel)
  /-- Its line is still to be filled. -/
  | absent
  /-- The fetch does not get that far: it traps, or takes a translation fault. -/
  | stop
  deriving DecidableEq, Repr

def State.arrival (s : State) (g : Gang) (floor : Nat) (a : Word64) : Arrival :=
  if a.extractLsb' 56 8 ≠ 0 then .stop
  else
    match (s.xlate g.core g.part g.ctx a.toNat { x := true, user := g.user }).1 with
    | .ok pa l =>
      match (Map.find? (s.core g.core).code (pa / 128)).filter fun c => decide (floor ≤ c.since) with
      | some c => .parcel (ofBytes 32 (Map.getMany 0 c.data (pa % 128) 4))
      | none => if l.por || s.poisonedAt (pa / 4 * 4) 4 then .stop else .absent
    | _ => .stop

/-- No parcel of a list of addresses is still to be filled, up to one that stops the fetch. -/
def State.allArrived (s : State) (g : Gang) (floor : Nat) : List Word64 → Bool
  | [] => true
  | a :: as =>
    match s.arrival g floor a with
    | .parcel _ => s.allArrived g floor as
    | .absent => false
    | .stop => true

/-- A gang's next word is in its buffer or in the instruction cache, or its fetch stops (R187). -/
def State.wordArrived (s : State) (g : Gang) : Bool :=
  (bufferedWord g.buf g.pc).isSome ||
    match s.arrival g (g.floorAt g.pc) g.pc with
    | .parcel p => parcelCount p == 1 || s.allArrived g (g.floorOf g.pc) ((List.range (parcelCount p)).map fun k => g.pc + BitVec.ofNat 64 (4 * k))
    | .absent => false
    | .stop => true

/-- Where the fetch unit goes after a word: the direct targets of J, CALL and BR with ALW; else the next word (R217). -/
def predicted (i : Option Instr) (a : Word64) (parcels : Nat) : Word64 :=
  let next := a + BitVec.ofNat 64 (4 * parcels)
  match i with
  | some (.j o) => dispTarget a o.x
  | some (.call o) => dispTarget a o.x
  | some (.br o) => if o.c = 6 then dispTarget a o.x else next
  | _ => next

/-- Fill a gang's buffer from an address along the predicted path, whole words, up to 16 parcels; a prefetch that fails
raises nothing and stops. -/
def State.fillBuffer (s : State) (g : Gang) : Nat → Word64 → List Fetched → List Fetched × State
  | 0, _, buf => (buf, s)
  | fuel + 1, a, buf =>
    match s.fetchWord g a with
    | (.word fs, s') =>
      if 16 < buf.length + fs.length then (buf, s)
      else
        let i := match decodeHead (fs.map Fetched.parcel) with
          | .ok i => some i
          | .error _ => none
        s'.fillBuffer g fuel (predicted i a fs.length) (buf ++ fs)
    | (_, s') => (buf, s')

/-- Where prefetch goes on after what a buffer holds. -/
def pathEnd : Nat → Word64 → List Fetched → Word64
  | 0, a, _ => a
  | fuel + 1, a, buf =>
    match bufferedWord buf a with
    | some fs =>
      let i := match decodeHead (fs.map Fetched.parcel) with
        | .ok i => some i
        | .error _ => none
      pathEnd fuel (predicted i a fs.length) (buf.drop fs.length)
    | none => a

/-- The fetch unit fills a gang's buffer (R217); a buffer that does not begin at the gang's next word is discarded. -/
def State.prefetch (s : State) (g : Gang) : Gang × State :=
  let old := if (bufferedWord g.buf g.pc).isSome then g.buf else []
  let (buf, s') := s.fillBuffer g 16 (pathEnd 17 g.pc old) old
  ({ g with buf := buf }, s')

/-! ## Readiness (R187) -/

/-- Commands that an engine's queue for a quadrant holds (12 R260, 13 R293, 15 R342, 19 R414). -/
def queueCapacity : Engine → Nat
  | .copy => 16
  | .matrix => 8
  | .ray => 16
  | .larder => 16
  | .fabric => 1024

/-- The command that a word queues. -/
def queueOf : Instr → Option Engine
  | .cpy _ | .cpy2 _ | .cpyg _ | .feset _ => some .copy
  | .mwld _ | .mtile _ => some .matrix
  | .coll _ | .ccancel _ | .cseq _ | .fput _ | .fget _ => some .fabric
  | _ => none

/-- Commands that stand in an engine's queue for a gang: of its quadrant, or of its partition for the fabric (19 R414). -/
def State.queued (s : State) (g : Gang) (e : Engine) : Nat :=
  match e with
  | .fabric =>
    let mine := fun (c : Cmd) => c.part == g.part && c.op.engine == .fabric
    ((s.cmds ++ s.colls.map CollRun.cmd ++ s.puts.map PutRun.cmd ++ s.gets.map GetRun.cmd ++ s.queries.map Query.cmd).filter mine).length
  | .matrix => s.matrixQueue g.quadNo
  | _ => (s.cmds.filter fun c => c.op.engine == e && c.quad == g.quadNo && !s.ctxSaved c.ctx).length

/-- Some address comparator of the partition's debug unit, armed, matches (10 R231). -/
def State.breakpointAt (s : State) (part : Nat) (a : Word64) : Bool :=
  let p := s.part part
  s.debugged part && (List.range 8).any fun i =>
    let r := Map.get 0 p.regs (0x30000 + 8 * i)
    r.getLsbD 63 && r.extractLsb' 0 56 == a.extractLsb' 0 56 && a.extractLsb' 56 8 == 0

/-- A comparator stops the gang before its next word. -/
def State.breaks (s : State) (g : Gang) : Bool := !g.passStop && s.breakpointAt g.part g.pc

/-- A gang's next word is held: by the interlock, or by its engine's full queue (15 R316, 16 R358). A queue with fewer free entries than the word has commands
counts as full, since the word queues them all at its issue (12 R260; log 67, DESIGN CHOICE). -/
def State.wordHeld (s : State) (g : Gang) : Bool :=
  match s.peekWord g with
  | none => false
  | some i => g.interlockHeld s.cycle i ||
    match i with
    | .rtrace o | .rmarch o => s.raysFull g o.pm
    | .gapp o | .gconn o | .gmerge o | .grw o | .gret o | .gread o | .ghold o | .gdrop o => s.larderCrowded g o.pm
    | .gseal _ | .gopen _ => decide (larderEntries < s.larderBusy g.core + g.slices.length)
    | _ =>
      match queueOf i with
      | some e => decide (queueCapacity e < s.queued g e + g.slices.length)
      | none => false

/-- A gang stands at its word boundary for a context fault or a crew's rollback (10 R225; 21 R438). -/
def State.halted (s : State) (g : Gang) : Bool :=
  s.ctxFaults.any (fun f => f.ctx == g.ctx) ||
    match g.crew with
    | some k => ((Map.find? s.crews k).map (s.rollingBack k)).getD false
    | none => false

/-- A gang is ready (R187). -/
def State.ready (s : State) (g : Gang) : Bool :=
  !g.framed && !s.halted g && g.park == .none && !g.waiting && !g.stopped && decide (g.bubble ≤ s.cycle) && s.wordArrived g &&
    !s.breaks g && !s.wordHeld g

/-! ## Selection (R190, R191) -/

/-- The slot number of a gang: the slot of its lowest slice. -/
def Gang.slot (g : Gang) : Nat := (g.slices.head?.map Slice.slot).getD 0

/-- Older first: by age, then by lowest slice position. -/
def Gang.older (g h : Gang) : Bool :=
  decide (g.age < h.age) ||
    (g.age == h.age && decide ((g.slices.head?.map Slice.pos).getD 0 < (h.slices.head?.map Slice.pos).getD 0))

/-- The first of a nonempty list in an order. -/
def bestBy {α : Type} (lt : α → α → Bool) : List α → Option α
  | [] => none
  | x :: xs =>
    match bestBy lt xs with
    | none => some x
    | some y => if lt y x then some y else some x

/-- Distance of a slot after the last one, itself last. -/
def slotAfter (last slot : Nat) : Nat := (slot + 32 - last - 1) % 32

/-- The ready gangs of a quadrant. -/
def State.readyGangs (s : State) (q : Nat) : List Gang := s.gangs.filter fun g => g.quadNo == q && s.ready g

/-- The gang that the slot chooses (R191). -/
def State.choose (s : State) (q : Nat) : Option Gang :=
  let rdy := s.readyGangs q
  let k := s.quad q
  let starved := rdy.filter fun g => decide (256 ≤ g.wait)
  if !starved.isEmpty then
    match k.due.bind fun d => starved.find? fun g => g.gid == d with
    | some g => some g
    | none => bestBy Gang.older starved
  else if !k.rr then
    match k.hold.bind fun h => rdy.find? fun g => g.gid == h with
    | some g => some g
    | none => bestBy Gang.older rdy
  else bestBy (fun g h => decide (slotAfter k.last g.slot < slotAfter k.last h.slot)) rdy

/-- Take a gang out for its word. -/
def State.checkout (s : State) (g : Gang) (late : Bool) : State :=
  { s with gangs := s.gangs.filter (fun h => h.gid != g.gid), cur := some g, performed := false, late := late }

/-- Issue bookkeeping of R191: waits counted, the chosen gang's reset, hold and last. -/
def State.chosen (s : State) (q : Nat) (g : Gang) : State :=
  let rdy := (s.readyGangs q).map Gang.gid
  let bump := fun (h : Gang) =>
    if h.gid == g.gid then { h with wait := 0 } else if rdy.contains h.gid then { h with wait := h.wait + 1 } else h
  { s with gangs := s.gangs.map bump }.setQuad q { s.quad q with hold := some g.gid, last := g.slot, due := none }

/-- What the slot has to do with the gang that it chose. -/
inductive Started where
  /-- Nothing issues, or the gang has stopped at its fetch. -/
  | over (s : State)
  /-- The word to run, with the gang checked out. -/
  | word (i : Instr) (s : State)
  /-- A word that traps before it decodes. -/
  | trap (pc : Word64) (s : State)
  deriving DecidableEq, Repr

/-! ## After a word -/

/-- Reconvergence before the next word (05 R97). -/
def popRecon (pc : Word64) (em exited : BitVec 4) : List Recon → Word64 × BitVec 4 × List Recon
  | [] => (pc, em, [])
  | e :: rest =>
    if e.rpc = pc then
      let m := e.mask &&& ~~~exited
      if m ≠ 0 then popRecon e.pc m exited rest else popRecon pc em exited rest
    else (pc, em, e :: rest)

def Slice.reconverge (sl : Slice) : Slice :=
  let r := popRecon sl.pc sl.em sl.exited sl.recon
  { sl with pc := r.1, em := r.2.1, recon := r.2.2 }

/-- The distinct pcs of slices, in order of first appearance. -/
def pcsOf (sls : List Slice) : List Word64 := sls.foldl (fun acc sl => if acc.contains sl.pc then acc else acc ++ [sl.pc]) []

/-- A parcel begins a LIVEV, whose other parcels may hold anything (07 R184). -/
def beginsLivev (p : Parcel) : Bool :=
  match decodeHead [p, 0, 0] with
  | .ok i => isLivev i
  | .error _ => false

/-- The live-in masks of the region that begins at an address, none where its words cannot all be read. -/
def State.liveIns (s : State) (g : Gang) (pc : Word64) : Option (BitVec 24 × BitVec 64) :=
  let at_ := fun (a : Word64) => s.peekWord { g.mapSlices (fun sl => { sl with pc := a }) with buf := [] }
  match at_ pc with
  | some (.region o) =>
    match s.peekParcel g g.user (pc + 4) with
    | none => none
    | some p =>
      if beginsLivev p then
        match at_ (pc + 4) with
        | some (.livev v) => some (o.x, livevMask v)
        | _ => none
      else some (o.x, 0)
  | some _ => some (0, 0)
  | none => none

/-- A frame takes the live-in masks of the region at which each of its slices resumes (01 R25), and holds them. -/
def State.keepLives (s : State) (g : Gang) : Gang := g.mapSlices fun sl => { sl with keep := s.liveIns g sl.reconverge.pc }

/-- Perform all that a gang has issued and that memory has still to see: its deferred loads, then its posted stores. -/
def State.settleGang (s : State) (g : Gang) : Gang × State :=
  let (g1, s1) := s.performAll g
  (g1, s1.drain g.gid)

/-- A gang waits at REGANG. -/
def Park.isRegang : Park → Bool
  | .regang _ => true
  | _ => false

/-- The bubble of a gang that goes on at `pc` after a word issued in cycle `t` (R195): ready again in t + 3. -/
def bubbleAfter (t : Nat) (seq pc : Word64) : Nat := if pc = seq then 0 else t + 3

/-- Part a gang by next pc (05 R94): the group of the lowest slice keeps the gang's number. Parting forks strands, so that what the gang has issued
is performed before it (09 R205). -/
def State.part1 (s : State) (g : Gang) (seq : Option Word64) : State :=
  let pcs := pcsOf g.slices
  let (g, s) := if 1 < pcs.length then s.settleGang g else (g, s)
  let bub := fun (pc : Word64) =>
    match seq with
    | some q => bubbleAfter g.issued q pc
    | none => g.bubble
  match pcs with
  | [] => s
  | pc0 :: rest =>
    let mk := fun (gid : Nat) (pc : Word64) =>
      { g with gid := gid, slices := g.slices.filter (fun sl => sl.pc == pc), bubble := bub pc, buf := if rest.isEmpty then g.buf else [] }
    { s with gangs := s.gangs ++ mk g.gid pc0 :: rest.zipIdx.map (fun p => mk (s.nextId + p.2) p.1), nextId := s.nextId + rest.length }

/-- Put the checked-out gang back: reconvergence, the settle marker, parting, the bubble; `seq` is the next sequential word's
address when a word was performed or a trap was taken. -/
def State.checkin (s : State) (seq : Option Word64) : State :=
  match s.cur with
  | none => s
  | some g =>
    let g0 := g.mapSlices fun sl => { sl with pending := sl.pending.filter (Pending.live s.cycle) }
    let frame := s.performed && (g.framed || g.park.isRegang)
    let g0 := if frame then s.keepLives g0 else g0
    let g1 := if (g.park == .none || s.performed) && !g.park.isRegang then g0.mapSlices Slice.reconverge else g0
    let settle := s.performed && g1.sbit && g1.park == .none && g1.outstanding s.cycle
    let ran := s.performed || seq.isSome
    let g2 := { g1 with park := if settle then .settle else g1.park, waiting := g1.waiting && seq.isNone,
                        cleared := g1.cleared && !s.performed, passStop := g1.passStop && !ran,
                        stopped := g1.stopped || (g1.stepOne && ran), stepOne := g1.stepOne && !ran }
    { s with cur := none, performed := false }.part1 g2 seq

/-- The word is YIELD, after which the slot holds no gang (R191). -/
def isYield : Instr → Bool
  | .yield _ => true
  | _ => false

/-- The number of the gang checked out. -/
def State.curGid (s : State) : Nat := (s.cur.map Gang.gid).getD 0

/-- Slices of the gang checked out, and its quadrant. -/
def State.curSlices (s : State) : Nat := (s.cur.map fun g => g.slices.length).getD 0

def State.quadOf (s : State) (gid : Nat) : Nat := ((s.gangs.find? fun g => g.gid == gid).map Gang.quadNo).getD 0

/-- A gang's first pc, for the test of R195. -/
def State.curPc (s : State) : Word64 := (s.cur.map Gang.pc).getD 0

/-- A word that has been performed leaves its gang's buffer. -/
def State.dropWord (s : State) (pc : Word64) : State := if s.performed then { s with cur := s.cur.map (·.dropWord pc) } else s

/-- The next sequential word of a word at `pc`, once it has been performed or has trapped. -/
def State.seqAfter (s : State) (i : Instr) (pc : Word64) : Option Word64 :=
  if s.performed || s.curPc != pc then some (pc + BitVec.ofNat 64 (wordBytes i)) else none

/-- Hold and last of a quadrant after a word of the gang `gid`, which it issued last (R191). -/
def Quad.after (k : Quad) (i : Instr) (gid : Nat) (cur : Option Gang) : Quad :=
  if k.hold != some gid then k
  else
    match cur with
    | some g => { k with hold := if isYield i then none else k.hold, last := g.slot }
    | none => { k with hold := none }

/-- After the slot has issued a word at `pc`: occupancy, hold, and the gang back among the others. -/
def State.retire (s : State) (i : Instr) (q gid slices : Nat) (pc : Word64) : State :=
  let s1 := s.setQuad q { (s.quad q).after i gid s.cur with busyUntil := s.cycle + occupancy i slices }
  (s1.dropWord pc).checkin (s1.seqAfter i pc)

/-- After a word that had issued before and has waited: the slot is another's (08 R193). -/
def State.retireWaited (s : State) (i : Instr) (q gid : Nat) (pc : Word64) : State :=
  let s1 := s.setQuad q ((s.quad q).after i gid s.cur)
  (s1.dropWord pc).checkin (s1.seqAfter i pc)

/-- A word that did not decode, or whose fetch stopped, has been dealt with. -/
def State.retireTrapWaited (s : State) (pc : Word64) : State := s.checkin (if s.curPc != pc then some pc else none)

def State.retireTrap (s : State) (q : Nat) (pc : Word64) : State :=
  (s.setQuad q { s.quad q with busyUntil := s.cycle + 1 }).retireTrapWaited pc

/-- The trap of a decode error (03 R70): TVAL is the first parcel. -/
def decodeTrap (e : DecodeError) (ps : List Fetched) : Trap :=
  let v : Word64 := ((ps.head?.map Fetched.parcel).getD 0).setWidth 64
  match e with
  | .illegalOpcode => ⟨Cause.illegalOpcode, v⟩
  | _ => ⟨Cause.reservedField, v⟩

/-- The settle marker of a word. -/
def sbitOf (ps : List Fetched) : Bool := ((ps.head?.map Fetched.parcel).getD 0).getLsbD 30

/-- What stands before the word of the gang checked out: an edge's source has its gang's deferred loads performed. -/
def State.beforeWord (s : State) (i : Instr) : State :=
  match s.cur with
  | some g =>
    if edgeWord i then
      let (g1, s1) := s.performAll g
      s1.setCur g1
    else s
  | none => s

/-- Fetch and decode the word of the gang checked out. -/
def State.fetched (s : State) (g : Gang) : Started :=
  match s.nextWord g with
  | (.word ps, rest, s1) =>
    match decodeHead (ps.map Fetched.parcel) with
    | .ok i => .word i ({ s1 with cur := some { g with buf := rest, sbit := sbitOf ps } }.beforeWord i)
    | .error e => .trap g.pc (s1.trapped { g with buf := rest, sbit := false } (decodeTrap e ps))
  | (.trap t, _, s1) => .trap g.pc (s1.trapped { g with buf := [], sbit := false } t)
  | (.fault f, _, s1) => .trap g.pc (s1.parkFault { g with buf := [] } f)

/-- A cycle of a quadrant's slot, up to the word's effect. -/
def State.start (s : State) (q : Nat) (late : Bool) : Started :=
  if s.cycle < (s.quad q).busyUntil then .over s
  else
    match s.choose q with
    | none => .over s
    | some g =>
      let s1 := s.chosen q g
      let g1 := { g with wait := 0, issued := s.cycle }
      (s1.checkout g1 late).fetched g1

/-- What a word that has issued waits for has come about. -/
def State.holdEnds (s : State) (g : Gang) : Park → Bool
  | .none => true
  | .held .ack => (s.core g.core).ack == 0
  | .held (.notes need) => need.all fun n => g.slices.all fun sl => sl.sid != n.1 || !s.lacksNotes g sl n.2
  | .held (.room ks) => s.roomFor g.core ks
  | _ => false

/-- A gang whose word has issued and waited can go on (05 R117). -/
def State.goesOn (s : State) (g : Gang) : Bool :=
  !g.framed && g.waiting && s.holdEnds g g.park && !g.outstanding s.cycle && !s.halted g

/-- A gang whose word has issued and waited goes on. -/
def State.restart (s : State) (gid : Nat) : Started :=
  match s.gangs.find? fun g => g.gid == gid && s.goesOn g with
  | some g => (s.checkout { g with park := .none } false).fetched { g with park := .none }
  | none => .over s

end Sys2Proof.Machine
end

