-- ==== Sys2Proof/Machine/Strand.lean ====
section
/-! DEFINITION. The steps of the strand engine that are no words: returning results (08 R188), waking gangs (R193, R194),
the ends of walks and replies (06 R134, R138; 11 R249), resumption from frames (01 R26 to R29), joins (05 R95), pre-emption
(10 R228, R229) and trap entry (10 R222). A step whose condition does not hold changes nothing. -/

namespace Sys2Proof.Machine

/-- A gang by number. -/
def State.gang? (s : State) (gid : Nat) : Option Gang := s.gangs.find? fun g => g.gid == gid

/-- Replace a gang. -/
def State.putGang (s : State) (g : Gang) : State := { s with gangs := updFirst (fun h => h.gid == g.gid) (fun _ => g) s.gangs }

/-- Act on a gang that satisfies a test. -/
def onGang (s : State) (gid : Nat) (p : Gang → Bool) (f : Gang → State → State) : Out :=
  match s.gang? gid with
  | some g => if p g then .next (f g s) else .next s
  | none => .next s

/-- Run an action with a gang checked out, and put what it becomes back; a gang that goes on elsewhere takes the bubble. -/
def State.withGang (s : State) (g : Gang) (f : Gang → State → State) : State :=
  let s1 := f g (s.checkout g false)
  let n := match bufferedWord g.buf g.pc with
    | some fs => fs.length
    | none => 1
  (s1.dropWord g.pc).checkin (if s1.performed || s1.curPc != g.pc then some (g.pc + BitVec.ofNat 64 (4 * n)) else none)

/-- A gang leaves a park: a settle marker it carries may still hold it (05 R114). -/
def Gang.unpark (g : Gang) (now : Nat) : Gang :=
  { g with park := if g.sbit && g.outstanding now then .settle else .none }

/-! ## Results and wakes -/

/-- The results of a word of number `n` in a slice return: deferred loads are performed first. -/
def State.returnSlice (s : State) (core n : Nat) (sl : Slice) : Slice × State :=
  let (sl', s') := sl.pending.foldl
    (fun (q : Slice × State) p =>
      match p.load with
      | some d => if p.n == n then q.2.performLoad core q.1 p d else q
      | none => q) (sl, s)
  ({ sl' with pending := sl'.pending.filter fun p => !(p.n == n && p.due.isNone && !p.engine) }, s')

/-- RESULT_RETURN: a word's variable-latency results return (R188). -/
def execResultReturn (gid n : Nat) (s : State) : Out :=
  onGang s gid (fun g => g.slices.any fun sl => sl.pending.any fun p => p.n == n && p.due.isNone && !p.engine) fun g s =>
    let r := g.slices.foldl
      (fun (p : List Slice × State) sl =>
        let (sl', s') := p.2.returnSlice g.core n sl
        (p.1 ++ [sl'], s')) ([], s)
    r.2.putGang { g with slices := r.1 }

/-- A gang parked behind outstanding results, on granules that have filled, or on a stage queue with room, can go on. -/
def State.canWake (s : State) (g : Gang) (room : Nat → Nat → Bool) : Bool :=
  !g.framed && match g.park with
    | .settle => !g.outstanding s.cycle
    | .granules gs => !gs.any (s.core g.core).empty.contains
    | .emit l n => room l n
    | _ => false

/-- Wake a gang (R193, R194). -/
def gangReady (room : State → Nat → Nat → Bool) (gid : Nat) (s : State) : Out :=
  onGang s gid (fun g => s.canWake g (room s)) fun g s => s.putGang { g with park := .none }

/-- BRANCH_BUBBLE_END (R195). -/
def execBranchBubbleEnd (gid : Nat) (s : State) : Out :=
  onGang s gid (fun g => decide (0 < g.bubble) && decide (g.bubble ≤ s.cycle)) fun g s => s.putGang { g with bubble := 0 }

/-- FAIRNESS_STARVATION: the oldest gang that has been ready for 256 cycles is issued next (R191). -/
def execFairnessStarvation (q : Nat) (s : State) : Out :=
  match bestBy Gang.older ((s.readyGangs q).filter fun g => decide (256 ≤ g.wait)) with
  | some g => .next (s.setQuad q { s.quad q with due := some g.gid })
  | none => .next s

/-- RANGE_WALK_DONE (06 R134). -/
def execRangeWalkDone (gid : Nat) (s : State) : Out :=
  onGang s gid (fun g => g.park == .walk) fun g s => s.putGang (g.unpark s.cycle)

/-- TLBI_CONFIRM (11 R249). -/
def execTlbiConfirm (gid : Nat) (s : State) : Out :=
  onGang s gid (fun g => g.park == .tlbi) fun g s => s.putGang (g.unpark s.cycle)

/-- CELLINIT_REPLY: the home slices test WAITER and perform the CELLINIT, or it is refused whole with PROTECTION (06
R138). -/
def execCellinitReply (gid : Nat) (s : State) : Out :=
  match s.gang? gid with
  | none => .next s
  | some g =>
    match g.park with
    | .cellinit cells =>
      match cells.find? fun p => s.waitedCells.contains p.1 with
      | some (_, _, a) => .next (s.withGang g fun g s => s.trapped { g with park := .none, waiting := false } ⟨Cause.protection, a⟩)
      | none =>
        let s1 := cells.foldl (fun s p => s.initCell p.1 p.2.1) s
        .next (s1.withGang g fun g s =>
          s.wordDone { (g.mapSlices (·.advance 4 (regionEnding (.cellinit ⟨false, 0, 0, 0, 0⟩)))) with park := .none, waiting := false })
    | _ => .next s

/-- TRAP_ENTRY: the last outstanding result of a trapping gang has returned (10 R222). -/
def execTrapEntry (gid : Nat) (s : State) : Out :=
  match s.gang? gid with
  | none => .next s
  | some g =>
    match g.park with
    | .trap cause val =>
      if g.outstanding s.cycle then .next s
      else .next (s.withGang g fun g s => s.enterTrap { g with waiting := false } ⟨cause, val⟩)
    | _ => .next s

/-! ## Frames (01 R25 to R29, 05 R113) -/

/-- Keys of the ring entries that hidden groups hold (05 R102). -/
def Slice.hiddenScal (sl : Slice) (lregs : Nat) : List Nat :=
  (groupsFrom lregs sl.link sl.wb sl.lb).flatMap fun g => (List.range (2 * g.link.kS)).map fun i => 8 + (g.wb + i) % 56
def Slice.hiddenLane (sl : Slice) (lregs : Nat) : List Nat :=
  (groupsFrom lregs sl.link sl.wb sl.lb).flatMap fun g => (List.range (4 * g.link.kV)).map fun j => (g.lb + j) % lregs

/-- What a frame keeps of the registers: the live-ins, g1 to g7, the hidden groups; every other register reads 0 with a clear
tag (R26, R91). -/
def Slice.prune (sl : Slice) (lregs : Nat) (lives : BitVec 24) (livev : BitVec 64) : Slice :=
  let scal := (List.range 24).filter lives.getLsbD |>.map fun i => 8 + (sl.wb + i) % 56
  let lane := (List.range 64).filter livev.getLsbD |>.map fun j => (sl.lb + j) % lregs
  let hs := sl.hiddenScal lregs
  let hv := sl.hiddenLane lregs
  { sl with
    scal := sl.scal.filter fun e => decide (e.1 < 8) || scal.contains e.1 || hs.contains e.1
    lane := sl.lane.filter fun e => lane.contains (e.1 / 4) || hv.contains (e.1 / 4)
    pending := [] }

/-- A frame's registers as it restores them: those that the masks it holds name; all of them where the region could not be read when the frame
was written (log 30). -/
def Slice.restoreFrame (sl : Slice) (lregs : Nat) : Slice :=
  match sl.keep with
  | some (lives, livev) => { sl.prune lregs lives livev with keep := none }
  | none => { sl with pending := [] }

/-- The work since the region's entry is discarded (10 R229, R113). -/
def Slice.discardRegion (sl : Slice) (lregs : Nat) : Slice :=
  let sl1 := sl.prune lregs sl.lives sl.livev
  { sl1 with pc := sl.regionpc, em := sl.snap.em &&& ~~~sl.exited, masks := sl.snap.masks, recon := sl.snap.recon
             between := true, justRegion := false, unfin := none, arrival := sl.arrival, keep := some (sl.lives, sl.livev)
             noted := sl.noted.take sl.noteMark, notePos := sl.noteMark }

/-- The next word is the LIVEV of a REGION just run, or cannot be told from one, as its first parcel cannot be read (R111; log 75). -/
def State.atLivev (s : State) (g : Gang) : Bool :=
  (g.slices.any fun sl => sl.justRegion) &&
    match bufferedWord g.buf g.pc with
    | some (f :: _) => beginsLivev f.parcel
    | _ => ((s.peekParcel g g.user g.pc).map beginsLivev).getD true

/-- The word at which a gang stands has issued: it waits, or has parked the gang, but for a park at its fetch. -/
def Gang.issuedWord (g : Gang) : Bool :=
  g.waiting ||
    match g.park with
    | .none => false
    | .fault _ _ entry => entry.isSome || g.slices.any fun sl => sl.unfin.isSome
    | _ => true

/-- Parks in which a pre-emption is taken (10 R228), a range walk among them (06 R134). -/
def Park.preemptible : Park → Bool
  | .none | .settle | .fault .. | .granules _ | .emit .. | .cellinit _ | .walk => true
  | _ => false

/-- A pre-emption can be taken now: inside a region, not between REGION and LIVEV, not in a hold-off (R228). -/
def State.canPreempt (s : State) (g : Gang) : Bool :=
  !g.framed && g.park.preemptible && !g.slices.any (fun sl => sl.between || sl.holdoff) && !s.atLivev g

/-- Write a gang's frames under R229; a gang that may move reconciles at its tier's span as the source of the edge to its
resumption. -/
def State.preemptGang (s : State) (g : Gang) : State :=
  let mv := g.movable false
  let s1 := if mv then (s.drain g.gid).reconcileSource g.core g.tier else s.drain g.gid
  let drop := fun (f : FaultRec) => { f with units := f.units.filter fun u => u != .strand g.gid }
  let s2 := { s1 with faults := s1.faults.map drop }
  let g1 := g.mapSlices (·.discardRegion g.lregs)
  let g2 := { g1 with park := .none, waiting := false, framed := true, ready := true, pinned := !mv, srcs := [], buf := [], queued := some s.nextId
                      stopped := g.stopped || (g.stepOne && g.issuedWord), stepOne := g.stepOne && !g.issuedWord, passStop := false }
  { s2 with nextId := s2.nextId + 1 }.putGang { g2 with preempt := false, cleared := false, bubble := 0 }

/-- Slots of a quadrant that no resident slice holds. -/
def State.freeSlots (s : State) (q : Nat) : List Nat :=
  let used := ((s.gangs ++ s.cur.toList).filter fun g => !g.framed && g.quadNo == q).flatMap fun g => g.slices.map Slice.slot
  (List.range 32).filter fun k => !used.contains k

/-- A unit is fenced (21 R445): kind × 65536 + number. -/
def State.fenced (s : State) (part kind unit : Nat) : Bool := (s.part part).fenced.contains (65536 * kind + unit)

/-- Quadrants of the tier unit that holds a quadrant: Q, C, K; D and P are the partition (22 R460, 18 R386). -/
def State.inTier (s : State) (part tier q0 q : Nat) : Bool :=
  match tier with
  | 0 => q == q0
  | 1 => q / 4 == q0 / 4
  | 2 => q / 48 == q0 / 48
  | _ => (s.part part).dies.contains (q / 192)

/-- The quadrants on which a frame may resume: its own core when pinned; its brood's tier otherwise (R28, R29). -/
def State.mayResume (s : State) (g : Gang) (q : Nat) : Bool :=
  decide (q < 768) && !s.fenced g.part 0 q && s.inTier g.part (if g.tier = 0 then 0 else if g.pinned then 1 else g.tier) g.quadNo q

/-- Give slices slots. -/
def placeSlots (sls : List Slice) (slots : List Nat) : List Slice :=
  (sls.zip slots).map fun p => { p.1 with slot := p.2 }

/-- No more of a context's strands are placed: the debugger has stopped it, or it is saved (10 R230, R232). -/
def State.ctxHeld (s : State) (ctx : Nat) : Bool := ((Map.find? s.ctxs ctx).map fun c => c.stopAll || c.saving || c.saved).getD false

/-- The restore of a poisoned frame: a consumption in an RB crew whose interval allows a rollback, else a context error (21 R428,
R438). -/
def State.poisonedFrame (s : State) (g : Gang) : State :=
  s.withGang g fun g s =>
    match s.rbCrew g with
    | some (k, c) =>
      if !s.recoverable c then s.contextError g Cause.poisonedFrame 0
      else if s.rolledBack c then s.contextError g Cause.secondConsumption 0
      else s.askRollback g k c false
    | none => s.contextError g Cause.poisonedFrame 0

/-- The sources of the edge of a resumption on a quadrant (R28): those that released it, and the core where it parked, unless it stays where it
is pinned or nothing but itself joins it. -/
def Gang.resumeSrcs (g : Gang) (q : Nat) : List Src :=
  if q / 4 ≠ g.core || (!g.srcs.isEmpty && (!g.pinned || q ≠ g.quadNo)) then g.srcs ++ [.core g.core] else g.srcs

/-- Restore a frame on a quadrant: the destination's reconciliation at the span that joins it to every source, the live-ins
(R26, R28), a new fetch floor (10 R218). -/
def State.resumeOn (s : State) (g : Gang) (q : Nat) : State :=
  let s1 := s.reconcileDest (q / 4) (spanOf (g.resumeSrcs q) q)
  let g1 := { g with core := q / 4, quad := q % 4 }
  let slots := s1.freeSlots q
  let g2 := g1.mapSlices (·.restoreFrame g.lregs)
  let g3 := { g2 with framed := false, ready := false, queued := none, srcs := [], buf := [], age := s1.nextId, wait := 0
                      floor := s1.nextId + 1, icinvs := [], floors := [] }
  { s1 with nextId := s1.nextId + 1 }.putGang { g3 with slices := placeSlots g3.slices slots }

/-! ## REGANG (05 R95) -/

/-- The identifier and address at which a gang waits at REGANG. -/
def Gang.regangAt (g : Gang) : Option (BitVec 16 × Word64) :=
  match g.park with
  | .regang id => some (id, g.pc)
  | _ => none

/-- Insert a slice by position. -/
def insertPos (x : Slice) : List Slice → List Slice
  | [] => [x]
  | y :: ys => if x.pos < y.pos then x :: y :: ys else y :: insertPos x ys

/-- A gang that waits at REGANG gives its slots up: its frame may be moved (10 R228). -/
def Gang.keepRegang (g : Gang) : Gang := if g.framed then g else { g with framed := true, ready := true, pinned := !g.movable false }

/-- Join gangs into one: slices by position, the age of the oldest member (08 R190). Members that do not all stand on one quadrant join as a frame,
which resumes under 01 R28 (log 57). -/
def joinGangs (g : Gang) (gs : List Gang) : Gang :=
  let sls := (gs.flatMap Gang.slices).foldl (fun acc sl => insertPos sl acc) []
  let one := gs.all fun h => !h.framed && h.quadNo == g.quadNo
  let j := { g with slices := sls, age := (gs.map Gang.age).foldl min g.age, issued := (gs.map Gang.issued).foldl max g.issued, park := .none
                    buf := [], wait := 0, waiting := false, floor := (gs.map Gang.floor).foldl max g.floor, icinvs := gs.flatMap Gang.icinvs
                    floors := gs.flatMap Gang.floors, stopped := gs.any Gang.stopped }
  if one then j else { j with framed := true, ready := true, pinned := !g.movable false, srcs := gs.map fun h => Src.quad h.quadNo }

/-- REGANG_RELEASE: every slice of an original gang that has not exited waits: each group of equal identifier and address
goes on as one gang; with more than one group REGANGFAIL is set in every slice. -/
def execRegangRelease (og : Nat) (s : State) : Out :=
  let ws := s.gangs.filter fun g => g.og == og
  if ws.isEmpty || ws.any (fun g => g.regangAt.isNone) then .next s
  else
    let keys := (ws.map Gang.regangAt).eraseDups
    let fail := decide (1 < keys.length)
    let mark := fun (sl : Slice) => if fail then { sl with regangfail := true } else sl
    let joined := keys.filterMap fun k =>
      match ws.filter fun g => g.regangAt == k with
      | [] => none
      | g :: gs =>
        let j := (joinGangs g (g :: gs)).mapSlices mark
        some (if j.framed then j else j.mapSlices (·.restoreFrame j.lregs))
    let s1 := { s with gangs := s.gangs.filter fun g => g.og != og }
    .next (joined.foldl (fun s g => s.part1 (g.mapSlices Slice.reconverge) (some g.pc)) s1)

end Sys2Proof.Machine
end

