-- ==== Sys2Proof/Machine/Copy.lean ====
section
/-! DEFINITION. The copy engine (12): CPY, CPY2, CPYG, FESET and the steps of their commands. -/

namespace Sys2Proof.Machine

/-! ## Issue checks (R264) -/

/-- A range of generic addresses, lowest and highest byte, not reduced: one that leaves the 64-bit space has an end outside it. -/
structure Range where
  lo : Int
  hi : Int
  deriving DecidableEq, Repr

/-- The bytes [a, a + n), none when n is 0. -/
def rangeOf (a : Word64) (n : Nat) : List Range := if n = 0 then [] else [⟨a.toNat, (a.toNat + n - 1 : Nat)⟩]

/-- The lowest to highest byte of `nr` rows of `rb` bytes. -/
def rowsRange (a : Word64) (stride : Int) (nr rb : Nat) : List Range :=
  if nr = 0 ∨ rb = 0 then []
  else
    let last := stride * (nr - 1 : Nat)
    [⟨a.toNat + min 0 last, a.toNat + max 0 last + (rb - 1 : Nat)⟩]

/-- Bytes that a command moves, and the value that check 3 reports. -/
def Cmd.bytes (c : Cmd) : Nat :=
  let r := fun k => c.regs.getD k 0
  match c.op with
  | .cpy => (r 2).toNat
  | .feset => (r 1).toNat
  | _ => c.rows.1 * c.rows.2.1

/-- The ranges that R264 names. -/
def Cmd.ranges (c : Cmd) : List Range :=
  let r := fun k => c.regs.getD k 0
  let (nr, rb, ds) := c.rows
  match c.op with
  | .cpy => rangeOf (r 0) (r 2).toNat ++ rangeOf (r 1) (r 2).toNat
  | .cpy2 => rowsRange (r 0) ds nr rb ++ rowsRange (r 1) (r 4).toInt nr rb
  | .cpyg => rangeOf (r 0) (nr * rb) ++ rangeOf (r 2) (4 * nr)
  | .feset => rangeOf (r 0) (r 1).toNat
  | _ => []

/-- The aperture of an end of a range; none where it lies outside the 64-bit space. -/
def endAperture (x : Int) : Option Aperture := if x < 0 ∨ 2 ^ 64 ≤ x then none else apertureOf (BitVec.ofInt 64 x)

/-- Checks 4 and 5 of one range. Both apertures are convex, so that the range is within its limit when its ends are; the failing
address of check 5 is the lowest byte if that one fails, else the highest (log 60, DEDUCED). -/
def Segs.rangeTrap (g : Segs) (crew : Option Nat) (x : Range) : Option Trap × Option Trap :=
  let lo := BitVec.ofInt 64 x.lo
  let hi := BitVec.ofInt 64 x.hi
  match endAperture x.lo with
  | none => (some ⟨Cause.addressHole, lo⟩, none)
  | some ap =>
    if endAperture x.hi ≠ some ap then (some ⟨Cause.addressHole, hi⟩, none)
    else if ap = .scratch ∧ crew.isNone then (none, some ⟨Cause.segmentLimit, lo⟩)
    else
      match g.limit ap lo 1, g.limit ap hi 1 with
      | .error t, _ => (none, some t)
      | .ok _, .error t => (none, some t)
      | .ok _, .ok _ => (none, none)

/-- The destination of an FE copy or an FESET that granules do not tile (check 6). DSTRIDE counts as used in every CPY2 (log 61, DESIGN
CHOICE). -/
def Cmd.unaligned (c : Cmd) : Bool :=
  let r := fun k => c.regs.getD k 0
  let (_, rb, ds) := c.rows
  apertureOf (r 0) != some .scratch || decide ((r 0).toNat % 16 ≠ 0) ||
    match c.op with
    | .cpy2 => decide (rb % 16 ≠ 0) || decide (ds % 16 ≠ 0)
    | .cpyg => decide (rb % 16 ≠ 0)
    | _ => decide (c.bytes % 16 ≠ 0)

/-- Checks 2 to 6 of a command (R264). -/
def Cmd.copyTrap (c : Cmd) : Option Trap :=
  let r := fun k => c.regs.getD k 0
  let rs := c.ranges.map fun x => c.segs.rangeTrap c.crew x
  if c.cell ≠ 0 ∧ c.cell.extractLsb' 0 4 ≠ 0 then some ⟨Cause.misaligned, c.cell⟩
  else if c.op = .cpyg ∧ (r 2).extractLsb' 0 2 ≠ 0 then some ⟨Cause.misaligned, r 2⟩
  else if 2 ^ 40 ≤ c.bytes then some ⟨Cause.engineFault, BitVec.ofNat 64 c.bytes⟩
  else
    match rs.findSome? Prod.fst, rs.findSome? Prod.snd with
    | some t, _ => some t
    | none, some t => some t
    | none, none =>
      if (c.flag || c.op == .feset) && c.unaligned then some ⟨Cause.engineFault, r 0⟩ else none

/-- A command of a slice, before it is queued. -/
def Gang.command (g : Gang) (sl : Slice) (op : CmdOp) (flag : Bool) (o : Wide) (regs : List Word64) : Cmd :=
  let guard := if o.aux.getLsbD 5 then some (o.aux.extractLsb' 0 4).toNat else none
  { id := 0, op := op, flag := flag, sid := sl.sid, part := g.part, ctx := g.ctx, core := g.core, quad := g.quadNo, crew := g.crew
    segs := sl.segs, guard := guard
    gstate := match guard with
      | none => .true
      | some k => sl.guardState k
    regs := regs }

/-- The operand block of a slice (R263). -/
def Slice.block (sl : Slice) (c : RCtx) (r : SReg) (k : Nat) : List Word64 := (sblock r k).map fun x => (sl.readS c x).v

/-- A command word of an engine: poison and checks of every slice, then a command of every slice (R260). `more` says that
it is irrevocable beside a nonzero cell (21 R436); `span` is its fork's; `extra` follows the block in what the command carries. -/
def commandWord (i : Instr) (op : CmdOp) (flag : Bool) (o : Wide) (k span : Nat) (more : State → Cmd → Bool) (extra : Slice → List Word64)
    (check : State → Gang → Cmd → Option Trap) (s : State) : Out :=
  runWord i s fun g s =>
    let c := s.rctx g
    let regs := fun (sl : Slice) => sl.block c o.ss k ++ extra sl
    let cmdOf := fun (sl : Slice) => g.command sl op flag o (regs sl)
    let trapOf := fun (sl : Slice) =>
      if (sblock o.ss k).any fun r => (sl.readS c r).tag then some ⟨Cause.poisonUse, 32⟩ else check s g (cmdOf sl)
    match g.firstTrap trapOf with
    | some t => .next (s.trapped g t)
    | none =>
      let irr := g.slices.any fun sl => more s (cmdOf sl) || (cmdOf sl).cell != 0
      if irr && s.twinWaits g then .next (s.setCur { g with park := .twin false })
      else if !s.ackClear g.core span then .next (s.holdWord g .ack)
      else
        let s1 := if irr then s.irrevocable g else s
        let s2 := if irr && s1.isShadow g then s1 else
          g.slices.foldl (fun s sl => s.queueCmd g sl op flag o (regs sl)) (s1.edgeSource g span)
        .next (s2.wordDone ((s2.cur.getD g).mapSlices (·.advance 12 true)))

def execCpy (o : Wide) (s : State) : Out := commandWord (.cpy o) .cpy (o.fn.getLsbD 0) o 4 1 (fun _ _ => false) (fun _ => []) (fun _ _ c => c.copyTrap) s
def execCpy2 (o : Wide) (s : State) : Out := commandWord (.cpy2 o) .cpy2 (o.fn.getLsbD 0) o 6 1 (fun _ _ => false) (fun _ => []) (fun _ _ c => c.copyTrap) s
def execCpyg (o : Wide) (s : State) : Out := commandWord (.cpyg o) .cpyg (o.fn.getLsbD 0) o 6 1 (fun _ _ => false) (fun _ => []) (fun _ _ c => c.copyTrap) s
def execFeset (o : Wide) (s : State) : Out := commandWord (.feset o) .feset (o.fn.getLsbD 0) o 3 1 (fun _ _ => false) (fun _ => []) (fun _ _ c => c.copyTrap) s

/-! ## Activation (R259, R261) -/

/-- The command at the head of its quadrant's queue: the commands ahead of it cannot start. -/
def State.headOfQueue (s : State) (c : Cmd) : Bool :=
  (s.cmds.takeWhile fun x => x.id != c.id).all fun x =>
    !(x.op.engine == c.op.engine && x.quad == c.quad && s.mayStart x)

/-- Active copy commands of a core. -/
def State.activeCopies (s : State) (core : Nat) : Nat := (s.copies.filter fun r => r.active && r.cmd.core == core).length

/-- A command that a save has stopped is active again on the engine of its crew's core (R279). The restore has reconciled there (01 R27). -/
def State.reactivate (s : State) (id : Nat) : State :=
  match s.copies.find? fun r => r.cmd.id == id && !r.active && !s.ctxSaved r.cmd.ctx with
  | some r =>
    if !s.fenced r.cmd.part 3 r.cmd.core && decide (s.activeCopies r.cmd.core < 8) then
      { s with copies := updFirst (fun x => x.cmd.id == id) (fun x => { x with active := true }) s.copies }
    else s
  | none => s

/-- COPY_ACTIVATE: a command leaves its queue; its fork edge has span C (R270). -/
def execCopyActivate (id : Nat) (s : State) : Out :=
  match s.cmds.find? fun c => c.id == id && c.op.engine == .copy with
  | none => .next (s.reactivate id)
  | some c =>
    if !s.fenced c.part 3 c.core && s.mayStart c && s.headOfQueue c && decide (s.activeCopies c.core < 8) then
      let s0 := s.reconcileDest c.core 1
      let s1 := { s0 with cmds := s0.cmds.filter fun x => x.id != id
                          copies := s0.copies ++ [{ cmd := c, active := true, done := [], rowIx := [], poison := false, ended := none, deadCell := false }] }
      match c.op with
      | .feset =>
        let gs := c.dstGranules
        let s2 := gs.foldl (fun s gr => s.logGranule c.crew c.core gr) s1
        .next (if c.flag then s2.setFull c.core gs else s2.setEmpty c.core gs)
      | _ => .next s1
    else .next s

/-! ## Granules (R265 to R267) -/

/-- One granule of a copy: row, destination and source addresses, bytes. -/
structure Piece where
  row : Nat
  dst : Word64
  off : Nat
  len : Nat
  deriving DecidableEq, Repr

/-- Granules of a row that begins at `a`. -/
def rowPieces (a : Word64) (rb : Nat) : Nat := if rb = 0 then 0 else (unitsOf 16 a.toNat rb).length

/-- The n-th granule of a copy, counted row by row: a granule that two short rows share is written by a step for each (log 83, DESIGN CHOICE). -/
def Cmd.pieceFrom (c : Cmd) (rb : Nat) : Nat → Nat → Nat → Option Piece
  | 0, _, _ => none
  | fuel + 1, row, n =>
    let a := c.rowDst row
    let k := rowPieces a rb
    if n < k then
      let lo := max a.toNat (a.toNat / 16 * 16 + 16 * n)
      let hi := min (a.toNat + rb) (a.toNat / 16 * 16 + 16 * n + 16)
      some { row := row, dst := BitVec.ofNat 64 lo, off := lo - a.toNat, len := hi - lo }
    else c.pieceFrom rb fuel (row + 1) (n - k)

def Cmd.piece (c : Cmd) (n : Nat) : Option Piece := if c.op = .feset then none else c.pieceFrom c.rows.2.1 c.rows.1 0 n

/-- Granules of a copy in all. -/
def Cmd.pieceCount (c : Cmd) : Nat :=
  if c.op = .feset then 0 else ((List.range c.rows.1).map fun k => rowPieces (c.rowDst k) c.rows.2.1).sum

/-- With this piece every byte that the command covers of its granule has been written: the piece covers it whole, or every other piece
of the granule is done (R265, R274). -/
def Cmd.fills (c : Cmd) (done : NatSet) (n : Nat) (x : Piece) : Bool :=
  decide (x.len = 16) || (List.range c.pieceCount).all fun m =>
    m == n || done.contains m || ((c.piece m).map fun y => decide (y.dst.toNat / 16 ≠ x.dst.toNat / 16)).getD true

/-- Update an active copy. -/
def State.setCopy (s : State) (id : Nat) (f : CopyRun → CopyRun) : State :=
  { s with copies := updFirst (fun r => r.cmd.id == id) f s.copies }

/-- Where the source row of an index begins, not reduced (03 R45). -/
def Cmd.rowSrc (c : Cmd) (ix : Nat) : Int := (c.regs.getD 1 0).toNat + (c.regs.getD 4 0).toInt * ix

/-- A CPYG row starts: its index is read and kept, and the whole source row checked (R267, R277). An index that is read poisoned is used as
read, and counts as poisoned source data (log 62, DESIGN CHOICE). -/
def State.startRow (s : State) (run : CopyRun) (row : Nat) : (Word64 ⊕ EngineRead) × State :=
  let c := run.cmd
  match Map.find? run.rowIx row with
  | some ix => (.inl (BitVec.ofInt 64 (c.rowSrc ix)), s)
  | none =>
    match s.engineRead c c.core (c.regs.getD 2 0 + BitVec.ofNat 64 (4 * row)) 4 with
    | (.ok bs bad, s1) =>
      let ix := natOfBytes bs
      let s2 := (if bad then s1.consume c.ctx chkCopy else s1).setCopy c.id fun r =>
        { r with rowIx := r.rowIx.put row ix, poison := r.poison || bad }
      match c.segs.rangeTrap c.crew ⟨c.rowSrc ix, c.rowSrc ix + (c.rows.2.1 - 1 : Nat)⟩ with
      | (some t, _) | (none, some t) => (.inr (.stop t.val), s2)
      | _ => (.inl (BitVec.ofInt 64 (c.rowSrc ix)), s2)
    | (e, s1) => (.inr e, s1)

/-- The source address of a granule. -/
def State.pieceSource (s : State) (run : CopyRun) (x : Piece) : (Word64 ⊕ EngineRead) × State :=
  let c := run.cmd
  match c.op with
  | .cpy2 => (.inl (BitVec.ofInt 64 (c.rowSrc x.row + x.off)), s)
  | .cpyg =>
    match s.startRow run x.row with
    | (.inl a, s1) => (.inl (a + BitVec.ofNat 64 x.off), s1)
    | p => p
  | _ => (.inl (c.regs.getD 1 0 + BitVec.ofNat 64 x.off), s)

/-- What a stopped access does to a copy (R276, R277). -/
def State.copyStop (s : State) (c : Cmd) (e : EngineRead) : State :=
  match e with
  | .fault f => (s.addFault f (.copy c.id)).2
  | .stop a => s.setCopy c.id fun r => { r with ended := some a.toNat }
  | .ok .. => s

/-- COPY_GRANULE: one granule is read, written as one unit and set full; poison is noted (R265, R274, R278). -/
def execCopyGranule (id n : Nat) (s : State) : Out :=
  match s.copies.find? fun r =>
      r.cmd.id == id && r.active && !s.ctxSaved r.cmd.ctx && !s.engineWaits (.copy id) && r.ended.isNone && !r.done.contains n with
  | none => .next s
  | some run =>
    let c := run.cmd
    match c.piece n with
    | none => .next s
    | some x =>
      match s.pieceSource run x with
      | (.inr e, s1) => .next (s1.copyStop c e)
      | (.inl src, s1) =>
        match s1.engineRead c c.core src x.len with
        | (.ok bs bad, s2) =>
          match apertureOf x.dst with
          | none => .next (s2.copyStop c (.stop x.dst))
          | some ap =>
            match c.segs.limit ap x.dst x.len with
            | .error _ => .next (s2.copyStop c (.stop x.dst))
            | .ok p =>
              match s2.engineReach c true c.core p x.len with
              | (.denied, s3) => .next (s3.copyStop c (.stop x.dst))
              | (.fault f, s3) => .next (s3.copyStop c (.fault f))
              | (.ok w _, s3) =>
                let s4 := s3.engineStore c w bs
                let s5 := match w with
                  | .scratch off => if c.fills run.done n x then s4.setFull c.core (granulesOf off x.len) else s4
                  | _ => s4
                let s6 := if bad then s5.consume c.ctx chkCopy else s5
                .next (s6.setCopy id fun r => { r with done := r.done.put n, poison := r.poison || bad })
        | (e, s2) => .next (s2.copyStop c e)

/-- Every granule is done, or the command has ended. -/
def CopyRun.complete (r : CopyRun) : Bool := r.ended.isSome || decide (r.cmd.pieceCount ≤ r.done.length)

/-- COPY_COMPLETE: the signal reconciles at span P (R271); FAULTED after R277 or poison. -/
def execCopyComplete (id : Nat) (s : State) : Out :=
  match s.copies.find? fun r => r.cmd.id == id && r.active && !s.ctxSaved r.cmd.ctx && !s.engineWaits (.copy id) && r.complete with
  | none => .next s
  | some run =>
    let c := run.cmd
    if c.cell ≠ 0 ∧ !s.ackClear c.core 4 then .next s
    else
      let s1 := if c.cell = 0 then s else s.reconcileSource c.core 4
      let status := if run.ended.isSome || run.poison then statusFaulted else statusOk
      let (fin, s2) := if run.deadCell then (true, s1.engineRecord c 0x0F c.core 0 c.cell 0)
        else s1.finishCmd c c.cell status c.core (.copy id)
      if !fin then .next s2
      else
        let s3 := match run.ended with
          | some a => s2.engineRecord c 0x0F c.core 0 (BitVec.ofNat 64 a) 0
          | none => s2
        let s4 := { s3 with copies := s3.copies.filter fun r => r.cmd.id != id }
        .next (match c.crew with
          | some k => s4.endCrew k
          | none => s4)

end Sys2Proof.Machine
end

