-- ==== Sys2Proof/Machine/Exact.lean ====
section
/-! DEFINITION. Arithmetic of the ray and Larder engines: f32 with one rounding per step (15, 16), and exact numbers as integer
multiples of 2^-149 with their fractions (15 R318, R324). FPCTL governs neither engine (04 R75). -/

namespace Sys2Proof.Machine

/-! ## f32, nearest even, subnormals kept -/

def f32 (w : Word32) : FVal := fmtF32.decode w.toNat
def rd (v : FVal) : Word32 := BitVec.ofNat 32 (fmtF32.round 0 0 false false v)

def addF (a b : Word32) : Word32 := rd ((f32 a).add false (f32 b))
def subF (a b : Word32) : Word32 := rd ((f32 a).add false (f32 b).neg)
def mulF (a b : Word32) : Word32 := rd ((f32 a).mul (f32 b))
def divF (a b : Word32) : Word32 := BitVec.ofNat 32 (divF32 0 0 false (f32 a) (f32 b))

/-- a × b + c, rounded once. -/
def fmaF (a b c : Word32) : Word32 := rd (((f32 a).mul (f32 b)).add false (f32 c))

/-- The magnitude: the sign bit cleared; a NaN stays one. -/
def absF (a : Word32) : Word32 := a &&& 0x7FFFFFFF

def f32Zero : Word32 := 0
def f32One : Word32 := 0x3F800000
def f32Inf : Word32 := 0x7F800000

/-- An integer as f32. -/
def intF (x : Int) : Word32 := rd (ofInt x)

def finiteF (a : Word32) : Bool :=
  match f32 a with
  | .fin .. => true
  | _ => false

def nanF (a : Word32) : Bool := (f32 a).isNan

/-- a < b of numbers; false with a NaN. -/
def ltF (a b : Word32) : Bool := (f32 a).lt (f32 b)

/-- a ≤ b of numbers. -/
def leF (a b : Word32) : Bool := !nanF a && !nanF b && !ltF b a

/-! ## Exact numbers -/

/-- A finite f32 as a multiple of 2^-149; 0 for the others. -/
def fixed (a : Word32) : Int :=
  match f32 a with
  | .fin n m e => signed n (m * 2 ^ (e + 149).toNat)
  | _ => 0

/-- A fraction with a positive denominator. -/
abbrev Frac := Int × Nat

/-- x / y for y ≠ 0. -/
def frac (x y : Int) : Frac := if y < 0 then (-x, y.natAbs) else (x, y.natAbs)

def Frac.le (a b : Frac) : Bool := decide (a.1 * b.2 ≤ b.1 * a.2)
def Frac.lt (a b : Frac) : Bool := decide (a.1 * b.2 < b.1 * a.2)
def Frac.max (a b : Frac) : Frac := if Frac.le a b then b else a
def Frac.min (a b : Frac) : Frac := if Frac.le a b then a else b

/-- A finite f32 as a fraction. -/
def fracF (a : Word32) : Frac := (fixed a, 2 ^ 149)

/-- round(a, fmt, rm) of a fraction: its leading bits and a sticky part. -/
def Fmt.ofFrac (f : Fmt) (rm : Nat) (a : Frac) : Nat :=
  let n := a.1.natAbs * 2 ^ 256
  f.roundFin rm 0 false false (decide (a.1 < 0)) (n / a.2) (-256) (decide (n % a.2 ≠ 0))

/-- A vector of three exact numbers. -/
abbrev Vec3 := Int × Int × Int

def vec3 (xs : List Word32) : Vec3 := (fixed (xs.getD 0 0), fixed (xs.getD 1 0), fixed (xs.getD 2 0))
def Vec3.sub (a b : Vec3) : Vec3 := (a.1 - b.1, a.2.1 - b.2.1, a.2.2 - b.2.2)
def Vec3.cross (a b : Vec3) : Vec3 := (a.2.1 * b.2.2 - a.2.2 * b.2.1, a.2.2 * b.1 - a.1 * b.2.2, a.1 * b.2.1 - a.2.1 * b.1)
def Vec3.dot (a b : Vec3) : Int := a.1 * b.1 + a.2.1 * b.2.1 + a.2.2 * b.2.2

end Sys2Proof.Machine
end

