-- ==== Sys2Proof/Machine/Ray.lean ====
section
/-! DEFINITION. Rays (15 R316 to R339): structures, the closest hit, candidates and verdicts, one node at a time. -/

namespace Sys2Proof.Machine

/-! ## What a ray reads (R338) -/

/-- Read through the core's L1; bytes with an uncorrectable error are read once more at home, past the L1 and the slice. -/
def readRay (c : Cmd) (a : Word64) (n : Nat) : Eng (List Byte) := fun p =>
  match p.1.engineRead c c.core a n with
  | (.ok bs false, s) => (.ok bs, (s, p.2))
  | (.ok _ true, s) => (readHomeE c c.core a n) (s, p.2)
  | (.stop at_, s) => (.error (.stop at_), (s, p.2))
  | (.fault f, s) => (.error (.fault f), (s, p.2))

/-- An f32 of a byte string. -/
def f32At (bs : List Byte) (off : Nat) : Word32 := BitVec.ofNat 32 (fieldOf bs off 4)

def vecAt (bs : List Byte) (off : Nat) : List Word32 := [f32At bs off, f32At bs (off + 4), f32At bs (off + 8)]

/-- Bytes that must be zero. -/
def zeroAt (bs : List Byte) (off n : Nat) : Bool := ((bs.drop off).take n).all (· == 0)

/-! ## Boxes (R318, R323) -/

/-- The part of a ray, between two distances, that lies in an interval of one axis; none is empty. -/
def slab (lo hi o d : Int) (a : Frac × Option Frac) : Option (Frac × Option Frac) :=
  if d = 0 then (if lo ≤ o ∧ o ≤ hi then some a else none)
  else
    let x := frac (lo - o) d
    let y := frac (hi - o) d
    let near := Frac.max a.1 (Frac.min x y)
    let far := match a.2 with
      | some f => Frac.min f (Frac.max x y)
      | none => Frac.max x y
    if Frac.le near far then some (near, some far) else none

/-- A bound above every exact distance that rounds to at most a distance `t`: the next f32; none when that is infinite. -/
def aboveF (t : Word32) : Option Frac :=
  let u := absF t + 1
  if finiteF u then some (fracF u) else none

/-- A bound below every exact distance that rounds to at least a distance `t`: the f32 before it. -/
def belowF (t : Word32) : Frac := if absF t = 0 then frac (-1) (2 ^ 149) else fracF (absF t - 1)

/-- The distance at which a ray enters a box, if it meets it between two bounds, an absent one infinite. -/
def enterBox (lo hi o d : Vec3) (near : Frac) (far : Option Frac) : Option Frac :=
  let start : Option (Frac × Option Frac) := match far with
    | some f => if Frac.le near f then some (near, far) else none
    | none => some (near, none)
  ((start.bind (slab lo.1 hi.1 o.1 d.1)).bind (slab lo.2.1 hi.2.1 o.2.1 d.2.1)).bind (slab lo.2.2 hi.2.2 o.2.2 d.2.2) |>.map Prod.fst

/-! ## The ray (R322, R327) -/

def Ray.flag (r : Ray) (k : Nat) : Bool := r.flags.getLsbD k
def Ray.mask (r : Ray) : Byte := r.flags.extractLsb' 0 8

/-- t*: the best hit's, else where the ray starts. -/
def Ray.tBest (r : Ray) : Word32 := (r.best.map Hit.t).getD r.limit

/-- A ray may meet a box between tmin and t*. Both bounds are widened to the neighbouring f32, so that no box is passed over below which a hit
could round to tmin or to t*, an infinite one among them (R322, R323). -/
def Ray.enters (r : Ray) (lo hi o d : Vec3) : Option Frac :=
  enterBox lo hi o d (belowF r.tmin) (if finiteF r.tBest then aboveF r.tBest else none)

/-- A ray enters a box: some point at a distance from tmin to t* lies in it, exactly (R323, R325). -/
def Ray.entersExact (r : Ray) (lo hi o d : Vec3) : Option Frac :=
  if finiteF r.tmin then enterBox lo hi o d (fracF r.tmin) (if finiteF r.tBest then some (fracF r.tBest) else none) else none

/-- The key is smaller. -/
def keyLt (a b : Nat × Nat) : Bool := decide (a.1 < b.1) || (a.1 == b.1 && decide (a.2 < b.2))

/-- better(t, key) (R322). -/
def Ray.better (r : Ray) (t : Word32) (key : Nat × Nat) : Bool :=
  ltF t r.tBest || (leF t r.tBest && match r.best with
    | some h => keyLt key h.key
    | none => true)

/-- The checks before traversal, in the order of R327: 0 go on, else the code that ends the ray. -/
def rayCheck (o d : List Word32) (tmin tmax : Word32) (tagged : Bool) : Nat × Word32 :=
  let degenerate := (o ++ d).any (fun x => !finiteF x) || d.all (fun x => absF x == 0) || nanF tmin || nanF tmax
  let t0 := if ltF tmin f32Zero then f32Zero else tmin
  if degenerate then (3, t0)
  else if ltF tmax t0 then (1, t0)
  else if tagged then (4, t0)
  else (0, t0)

/-- End a ray with a status code. -/
def Ray.finish (r : Ray) (code reason : Nat) : Ray := { r with phase := .due, code := code, reason := reason, stack := [], inSlot := 0 }

/-- A hit becomes best (R325): with FIRST it ends the traversal. -/
def Ray.accept (r : Ray) (h : Hit) : Ray := { r with best := some h, stack := if r.flag 12 then [] else r.stack }

/-- Drop candidates that are not better than the best. -/
def Ray.trim (r : Ray) : Ray := { r with cands := r.cands.filter fun h => r.better h.t h.key }

/-- Candidates that the buffer holds (R325). -/
def candCapacity : Nat := 16

/-- A candidate arrives (R326): none when the ray has to stop first, the buffer being full. -/
def Ray.candidate (r : Ray) (h : Hit) : Option Ray :=
  if r.cands.length < candCapacity then some { r with cands := r.cands ++ [h] }
  else if (r.trim).cands.isEmpty then some { r with cands := [h] }
  else none

/-- Stop with candidates, or end (R326): HIT or MISS. -/
def Ray.stop (r : Ray) : Ray :=
  let r1 := r.trim
  if !r1.cands.isEmpty then { r1 with phase := .due, code := 2, reason := 0 }
  else r1.finish (if r1.best.isSome then 0 else 1) 0

/-! ## Triangles and procedural boxes (R319, R324, R325) -/

/-- The object ray of an entry, with the world ray outside instances. -/
def Ray.space (r : Ray) (e : Pend) : List Word32 × List Word32 :=
  match e.inst with
  | some i => (i.o, i.d)
  | none => (r.o, r.d)

def Pend.instId (e : Pend) : Nat := (e.inst.map Inst.id).getD 0xFFFFFFFF
def Pend.instFlag (e : Pend) (k : Nat) : Bool := (e.inst.map fun i => i.flags.testBit k).getD false
def Pend.user (e : Pend) : Word32 := (e.inst.map Inst.user).getD 0xFFFFFFFF

/-- Whether a triangle is opaque (R325). -/
def Ray.opaqueTri (r : Ray) (e : Pend) (opq : Bool) : Bool :=
  if r.flag 8 then true else if r.flag 9 then false
  else if e.instFlag 0 then true else if e.instFlag 1 then false else opq

/-- The test of a triangle in the ray's current space, exact (R324). -/
def Ray.triangle (r : Ray) (e : Pend) (p0 p1 p2 : List Word32) (prim : Nat) (geom : Word32) (second : Bool) : Option Hit :=
  let (ro, rdir) := r.space e
  let o := vec3 ro
  let d := vec3 rdir
  let a := (vec3 p0).sub o
  let b := (vec3 p1).sub o
  let c := (vec3 p2).sub o
  let u := d.dot (b.cross c)
  let v := d.dot (c.cross a)
  let w := d.dot (a.cross b)
  let det := u + v + w
  let inside := (decide (0 ≤ u) && decide (0 ≤ v) && decide (0 ≤ w)) || (decide (u ≤ 0) && decide (v ≤ 0) && decide (w ≤ 0))
  let front := decide (det < 0) != e.instFlag 3
  let culled := !e.instFlag 2 && ((r.flag 10 && !front) || (r.flag 11 && front))
  let finite := (p0 ++ p1 ++ p2).all finiteF
  if !finite || det = 0 || !inside || culled then none
  else
    let t : Word32 := BitVec.ofNat 32 (fmtF32.ofFrac 0 (frac (a.dot (b.cross c)) det))
    let key := (e.instId, prim)
    if ltF t r.tmin || !r.better t key then none
    else
      some { t := t, key := key, u := BitVec.ofNat 16 (fmtF16.ofFrac 0 (frac v det)), v := BitVec.ofNat 16 (fmtF16.ofFrac 0 (frac w det))
             front := front, proc := false, geom := geom, user := e.user, second := second }

/-- A procedural box that the ray enters: its candidate, at max(tmin, entry) rounded down (R325). -/
def Ray.procBox (r : Ray) (e : Pend) (lo hi : List Word32) (prim : Nat) (geom : Word32) : Option Hit :=
  let (ro, rdir) := r.space e
  if !(lo ++ hi).all finiteF then none
  else
    (r.entersExact (vec3 lo) (vec3 hi) (vec3 ro) (vec3 rdir)).map fun q =>
      { t := BitVec.ofNat 32 (fmtF32.ofFrac 2 (Frac.max q (fracF r.tmin))), key := (e.instId, prim), u := 0, v := 0, front := false, proc := true, geom := geom
        user := e.user, second := false }

/-! ## Visiting (R318 to R323) -/

/-- Entries of the traversal stack in the engine, and with its overflow area (R323). -/
def stackHere : Nat := 32
def stackCapacity : Nat := 112

/-- What one visit does to a ray; a malformed node names reason 1, an exhausted stack reason 2. -/
inductive Visit where
  | go (r : Ray)
  | bad (reason : Nat)
  deriving DecidableEq, Repr

/-- 2^e times a quantised coordinate above an origin, as a multiple of 2^-149. -/
def quant (org : Word32) (q : Nat) (e : Int) : Int := fixed org + (q : Int) * 2 ^ (e + 149).toNat

/-- One child of an internal node: what it adds to the stack, or its malformation. -/
def Ray.child (r : Ray) (e : Pend) (bs : List Byte) (i : Nat) : Option (Option Pend) :=
  let c := fieldOf bs (0x20 + 4 * i) 4
  let kind := c / 2 ^ 30
  let pairs := c / 2 ^ 27 % 8
  let index := c % 2 ^ 27
  let exp := fun k => (BitVec.ofNat 8 (fieldOf bs (0x0C + k) 1)).toInt
  let q := fun k => fieldOf bs (0x40 + 6 * i + k) 1
  let org := vecAt bs 0
  let corner := fun (b : Nat) => (quant (org.getD 0 0) (q b) (exp 0), quant (org.getD 1 0) (q (b + 1)) (exp 1), quant (org.getD 2 0) (q (b + 2)) (exp 2))
  let bad := (kind == 0 && c != 0) || ((kind == 1 || kind == 3) && pairs != 0) || (kind == 2 && decide (2 ^ 27 ≤ index + pairs)) ||
    (kind == 3 && e.inst.isSome)
  let empty := (List.range 3).any fun k => decide (q (k + 3) < q k)
  let (ro, rdir) := r.space e
  if bad then none
  else if kind = 0 ∨ (bs.getD (0x70 + i) 0) &&& r.mask = 0 ∨ empty ∨ !org.all finiteF then some none
  else
    match r.enters (corner 0) (corner 3) (vec3 ro) (vec3 rdir) with
    | none => some none
    | some near =>
      let base := BitVec.ofNat 64 (fieldOf bs (if kind = 2 then 0x18 else 0x10) 8)
      some (some { kind := kind, at_ := base + BitVec.ofNat 64 ((if kind = 2 then 64 else 128) * index)
                   left := if kind = 2 then pairs + 1 else 0, tri := 0, inst := e.inst, near := near })

/-- Insert an entry by distance, nearer first; equal distances keep their order. -/
def insertNear (x : Pend) : List Pend → List Pend
  | [] => [x]
  | y :: ys => if Frac.lt x.near y.near then x :: y :: ys else y :: insertNear x ys

/-- Visit an internal node. -/
def Ray.internal (r : Ray) (e : Pend) (bs : List Byte) : Visit :=
  let kids := (List.range 8).map (r.child e bs)
  if !zeroAt bs 0x0F 1 || !zeroAt bs 0x78 8 || kids.any Option.isNone then .bad 1
  else
    let new := (kids.filterMap fun k => k.bind fun x => x).foldl (fun acc x => insertNear x acc) []
    let st := new ++ r.stack
    if stackCapacity < st.length then .bad 2 else .go { r with stack := st }

/-- f32 transform of R320: M[r][2]·z first, then y, then x, each a fused multiply-add. -/
def xformRow (m : List Word32) (v : List Word32) (point : Bool) : Word32 :=
  let z := if point then fmaF (m.getD 2 0) (v.getD 2 0) (m.getD 3 0) else mulF (m.getD 2 0) (v.getD 2 0)
  fmaF (m.getD 0 0) (v.getD 0 0) (fmaF (m.getD 1 0) (v.getD 1 0) z)

/-- Visit an instance node: the object ray enters its structure, unless it is not finite. -/
def Ray.instance_ (r : Ray) (bs : List Byte) : Visit :=
  let flags := fieldOf bs 0x3C 4
  if !zeroAt bs 0x44 60 || decide (16 ≤ flags) || (flags.testBit 0 && flags.testBit 1) then .bad 1
  else
    let row := fun k => (List.range 4).map fun j => f32At bs (16 * k + 4 * j)
    let o := (List.range 3).map fun k => xformRow (row k) r.o true
    let d := (List.range 3).map fun k => xformRow (row k) r.d false
    if (o ++ d).any (fun x => !finiteF x) || d.all (fun x => absF x == 0) then .go r
    else
      let i : Inst := { id := fieldOf bs 0x38 4, user := f32At bs 0x40, flags := flags, o := o, d := d }
      let p : Pend := { kind := 1, at_ := BitVec.ofNat 64 (fieldOf bs 0x30 8), left := 0, tri := 0, inst := some i, near := (0, 1) }
      if stackCapacity < r.stack.length + 1 then .bad 2 else .go { r with stack := p :: r.stack }

/-- Visit one triangle or box of a leaf pair; `r` has the entry taken off its stack. -/
def Ray.leaf (r : Ray) (e : Pend) (bs : List Byte) : Visit :=
  let flags := fieldOf bs 0x34 4
  let proc := flags.testBit 3
  if decide (16 ≤ flags) || !zeroAt bs 0x3C 4 || (proc && flags % 8 != 0) then .bad 1
  else
    let pair := flags.testBit 2
    let more := !proc && pair && e.tri == 0
    let rest := if more then [{ e with tri := 1 }]
      else if 1 < e.left then [{ e with at_ := e.at_ + 64, left := e.left - 1, tri := 0 }] else []
    let p := fun k => vecAt bs (12 * k)
    let prim := (fieldOf bs 0x30 4 + e.tri) % 2 ^ 32
    let geom := f32At bs 0x38
    let h := if proc then (if r.flag 14 then none else r.procBox e (p 0) (p 1) prim geom)
      else if r.flag 13 then none
      else if e.tri = 0 then r.triangle e (p 0) (p 1) (p 2) prim geom false
      else r.triangle e (p 2) (p 1) (p 3) prim geom true
    let r1 := { r with stack := rest ++ r.stack }
    match h with
    | none => .go r1
    | some h =>
      if !proc && r.opaqueTri e (flags.testBit e.tri) then .go (r1.accept h)
      else
        match r1.candidate h with
        | some r2 => .go r2
        | none => .go ({ r with stack := e :: r.stack }.stop)

/-! ## Verdicts (R333) -/

/-- Apply verdicts in candidate order; the Bool tells that the traversal has ended. -/
def applyVerdicts (vs : Map (Nat × Word32 × Word32)) : Ray → Nat → List Hit → Ray × Bool
  | r, _, [] => (r, false)
  | r, k, h :: hs =>
    let (v, t, uv) := Map.get (0, 0, 0) vs k
    let h' := if h.proc then { h with t := t, u := uv.setWidth 16, v := (uv >>> 16).setWidth 16 } else h
    let rejected := h.proc && (nanF t || ltF t r.tmin || ltF t h.t)
    let r1 := if (v = 1 ∨ v = 2) ∧ !rejected ∧ r.better h'.t h'.key then r.accept h' else r
    let ended := decide (v = 2) || decide (v = 3) || (r1.flag 12 && r1.best != r.best)
    if ended then (r1, true) else applyVerdicts vs r1 (k + 1) hs

/-- The ray resumes: its batch's verdicts, and on with the traversal. -/
def Ray.resume (r : Ray) : Ray :=
  let (r1, ended) := applyVerdicts r.verdicts r 0 r.cands
  { r1 with cands := [], verdicts := [], phase := .trace, stack := if ended then [] else r1.stack }

/-! ## Save slots (R330, R336) -/

/-- A ray that has its slot, live. -/
def Ray.live (r : Ray) : Bool := r.phase == .trace || r.phase == .due || r.phase == .pending

def State.ray? (s : State) (id : Nat) : Option Ray := s.rays.find? fun r => r.id == id

def State.setRay (s : State) (r : Ray) : State := { s with rays := updFirst (fun x => x.id == r.id) (fun _ => r) s.rays }

def State.dropRay (s : State) (id : Nat) : State := { s with rays := s.rays.filter fun r => r.id != id }

/-- The generic address of a ray's slot. -/
def Ray.slot (r : Ray) : Word64 := r.cmd.regs.getD 1 0 + BitVec.ofNat 64 (1024 * r.lix)

/-- STATE of a slot: 0 IDLE, 1 TRACE, 2 PENDING, 3 MARCH, 4 RESULT. -/
def Ray.stateCode (r : Ray) : Nat :=
  match r.phase with
  | .pending => 2
  | .due => if r.code = 2 then 2 else 4
  | .final => 0
  | _ => 1

/-- Where a slot's ray, and its overflow area, begin and end (R330). -/
def slotBytes : Nat := 1024
def slotHead : Nat := 128
def slotOverflow : Nat := 0x180

/-- Write the first bytes of a slot: STATE, then bytes whose form is the device's own (log 65). -/
def State.writeSlot (s : State) (c : Cmd) (slot : Word64) (code n : Nat) : Except Halt Unit × State :=
  match s.run (writeE c c.core false slot (toBytes (BitVec.ofNat 32 code) 4 ++ (List.range (n - 4)).map (Config.slotByte s.free))) with
  | (r, s1, _) => (r, { s1 with free := s1.free + 1 })

/-! ## One move of a ray -/

/-- A ray ends POISONED (R338, R339): reason 0 sets CHKIV; the others are recorded. -/
def State.poisonRay (s : State) (r : Ray) (reason : Nat) (at_ : Word64) : State :=
  let s1 := s.setRay (r.finish 4 reason)
  if reason = 0 then s1.consume r.cmd.ctx chkRay
  else s1.record r.cmd.part { kind := 2, cause := 0x0F, ctx := r.cmd.ctx, unit := r.cmd.core, op8 := r.cmd.op.op8, addr2 := at_ }

/-- Read for a ray: what stops it ends the ray, or has it wait. -/
def State.rayRead (s : State) (r : Ray) (a : Word64) (n : Nat) (f : List Byte → State → State) : State :=
  match s.run (readRay r.cmd a n) with
  | (.ok bs, s1, false) => f bs s1
  | (.ok _, s1, true) => s1.poisonRay r 0 a
  | (.error (.fault x), s1, _) => (s1.addFault x (.ray r.id)).2
  | (.error (.stop at_), s1, _) => s1.poisonRay r 3 at_
  | (.error .wait, s1, _) => s1

/-- A ray whose slot is not free or not sound ends POISONED with reason 1, and leaves the slot alone (R330, R339). -/
def State.refuseRay (s : State) (r : Ray) : State :=
  (s.poisonRay r 1 r.slot).setRay { r.finish 4 1 with phase := .refused }

/-- A slot cannot be written (R339): a translation fault is served first; else the ray ends POISONED with reason 3 and leaves the slot
alone. -/
def State.slotHalt (s : State) (r : Ray) (h : Halt) : State :=
  match h with
  | .fault x => (s.addFault x (.ray r.id)).2
  | .stop a => (s.poisonRay r 3 a).setRay { r.finish 4 3 with phase := .refused }
  | .wait => s

/-- A ray that waits on verdicts and whose slot cannot be written: it is POISONED when it is taken up again. -/
def Ray.dead (r : Ray) : Ray := { r with code := 4, reason := 3, cands := [], verdicts := [], spilled := false }
def State.deadRay (s : State) (r : Ray) (at_ : Word64) : State := (s.poisonRay r 3 at_).setRay r.dead

/-- Another ray that is live on the same slot. -/
def State.slotOwner (s : State) (r : Ray) : Option Ray :=
  s.rays.find? fun x => x.id != r.id && x.live && x.cmd.ctx == r.cmd.ctx && x.slotAt == r.slotAt

/-- A march that is in flight on the same slot. -/
def State.marchOn (s : State) (r : Ray) : Bool :=
  s.marches.any fun m => m.cmd.ctx == r.cmd.ctx && m.lanes.any fun l => l.mine && l.slotAt == r.slotAt

/-- A lane's own live ray that its fresh ray goes on with. -/
def Ray.continues (r x : Ray) : Bool := (x.phase == .pending || x.spilled) && x.cmd.sid == r.cmd.sid && x.k == r.k

/-- The live ray that a fresh ray was to go on with ends with it, POISONED (R338, R339). -/
def State.dropOwner (s : State) (r : Ray) : State :=
  match s.slotOwner r with
  | some x => if r.continues x then s.dropRay x.id else s
  | none => s

/-- A fresh ray's read of its slot fails. -/
def State.slotLost (s : State) (r : Ray) (reason : Nat) (at_ : Word64) : State := (s.dropOwner r).poisonRay r reason at_

/-- Read the slot of a fresh ray, and what follows. -/
def State.readSlot (s : State) (r : Ray) (n : Nat) (f : List Byte → State → State) : State :=
  match s.run (readRay r.cmd r.slot n) with
  | (.ok bs, s1, false) => f bs s1
  | (.ok _, s1, true) => s1.slotLost r 0 r.slot
  | (.error (.fault x), s1, _) => (s1.addFault x (.ray r.id)).2
  | (.error (.stop at_), s1, _) => s1.slotLost r 3 at_
  | (.error .wait, s1, _) => s1

/-- A ray of the engine's goes on under a fresh ray's word. -/
def Ray.goOn (r x : Ray) : Ray :=
  let y := { x with cmd := r.cmd, gid := r.gid, word := r.word, rings := r.rings, k := r.k, lix := r.lix, spilled := false }
  let z := if x.phase == .pending then (if x.code = 4 then { y.finish 4 x.reason with phase := .refused } else y.resume) else y
  { z with id := r.id, inSlot := z.stack.length - stackHere }

/-- A ray begins (R327, R330). -/
def Ray.begin_ (r : Ray) : Ray :=
  let (c, t0) := rayCheck r.o r.d r.tmin r.tmax r.tagged
  if c = 4 then r.finish 4 0
  else if c ≠ 0 then { r with tmin := t0 }.finish c 0
  else
    let root : Pend := { kind := 1, at_ := r.cmd.regs.getD 0 0, left := 0, tri := 0, inst := none, near := (0, 1) }
    { r with phase := .trace, tmin := t0, limit := r.tmax, stack := [root] }

/-- A fresh ray looks at its slot (R330): it goes on with its lane's live ray of the slot, which it reads whole when the ray lies there, is
refused (a march or another lane's ray is there), or starts at its root. -/
def State.startRay (s : State) (r : Ray) : State :=
  match s.slotOwner r with
  | some x =>
    if r.continues x then s.readSlot r (if x.spilled then slotBytes else 16) fun _ s => (s.dropRay x.id).setRay (r.goOn x) else s.refuseRay r
  | none =>
    if s.marchOn r then s.refuseRay r
    else s.readSlot r 16 fun bs s => if fieldOf bs 0 4 ≠ 0 then s.refuseRay r else s.setRay r.begin_

/-- Entries of the stack that lie in the slot. -/
def Ray.away (r : Ray) : Nat := min r.inSlot r.stack.length

/-- A ray goes on from a visit: where its stack no longer fits in the engine, the oldest entries there go to the slot first; what cannot be
written stops the visit (R323, R339). -/
def State.keepStack (s : State) (r r2 : Ray) : State :=
  let n := r2.stack.length - stackHere - r2.away
  if n = 0 then s.setRay { r2 with inSlot := r2.away }
  else
    let bs := (List.range (8 * n)).map (Config.slotByte s.free)
    match s.run (writeE r.cmd r.cmd.core false (r.slot + BitVec.ofNat 64 (slotOverflow + 8 * r2.away)) bs) with
    | (.ok _, s1, _) => { s1 with free := s1.free + 1 }.setRay { r2 with inSlot := r2.away + n }
    | (.error h, s1, _) => s1.slotHalt r h

/-- One node of a traversal: an entry whose box begins past the best hit is passed over. Entries in the slot come back when the engine has no
other left. -/
def State.traceRay (s : State) (r : Ray) : State :=
  match r.stack with
  | [] => s.setRay r.stop
  | e :: rest =>
    let r1 := { r with stack := rest }
    let past := finiteF r.tBest && ((aboveF r.tBest).map fun t => Frac.lt t e.near).getD false
    if r.stack.length ≤ r.inSlot then
      let n := min stackHere r.stack.length
      let from_ := r.stack.length - n
      s.rayRead r (r.slot + BitVec.ofNat 64 (slotOverflow + 8 * from_)) (8 * n) fun _ s => s.setRay { r with inSlot := from_ }
    else if past then s.setRay r1
    else
      s.rayRead r e.at_ (if e.kind = 2 then 64 else 128) fun bs s =>
        match (match e.kind with
          | 1 => r1.internal e bs
          | 2 => r1.leaf e bs
          | _ => r1.instance_ bs) with
        | .go r2 => s.keepStack r r2
        | .bad reason => s.poisonRay r reason e.at_

/-- One move of a ray. -/
def State.moveRay (s : State) (r : Ray) : State :=
  if s.engineWaits (.ray r.id) || r.spilled then s
  else
    match r.phase with
    | .fresh => if s.fenced r.cmd.part 2 r.cmd.core then s else s.startRay r
    | .trace => s.traceRay r
    | _ => s

/-! ## The hit record (R331) -/

/-- A hit as vd to vd+3. -/
def hitWords (t : Word32) (h : Option Hit) : List Word32 :=
  match h with
  | some h => [t, BitVec.ofNat 32 h.key.2, BitVec.ofNat 32 h.key.1, h.v ++ h.u]
  | none => [t, 0xFFFFFFFF, 0xFFFFFFFF, 0]

/-- The status word. -/
def statusWord (h : Option Hit) (code ncand reason : Nat) : Word32 :=
  let proc := (h.map Hit.proc).getD false
  let front := (h.map Hit.front).getD false
  BitVec.ofNat 32 (reason * 1024 + ncand * 32 + (if proc then 16 else 0) + (if front then 8 else 0) + code)

/-- The record that a ray writes: POISONED sets the tags. -/
def Ray.record (r : Ray) : List LVal :=
  let t := if r.code = 1 ∨ r.code = 3 then f32Inf else r.tBest
  let h := if r.code = 1 ∨ r.code = 3 then none else r.best
  let ws := hitWords t h ++ [statusWord h r.code (if r.code = 2 then r.cands.length else 0) r.reason]
  ws.map fun w => ⟨w, r.code == 4⟩

/-- RAY_TRACE_RESULT: the hit record is written into the lane's registers; the register write is a join of span C (R345). A final
status leaves the slot IDLE and keeps the hit for RHIT. -/
def execRayTraceResult (id : Nat) (s : State) : Out :=
  match s.ray? id with
  | none => .next s
  | some r =>
    if r.spilled || s.ctxSaved r.cmd.ctx || s.engineWaits (.ray id) || (r.phase != .due && r.phase != .refused) then .next s
    else
      let deliver := fun (s : State) => (s.reconcileDest r.cmd.core 1).deliverLanes r.cmd r.word r.k r.rings r.record
      if r.phase == .refused then .next ((deliver s).dropRay id)
      else if r.code = 2 then .next ((deliver s).setRay { r with phase := .pending })
      else
        match s.writeSlot r.cmd r.slot 0 slotHead with
        | (.error h, s1) => .next (s1.slotHalt r h)
        | (.ok _, s1) =>
          let old := fun (x : Ray) => x.phase == .final && x.cmd.ctx == r.cmd.ctx && x.slotAt == r.slotAt && x.id != r.id
          let s2 := deliver s1
          .next ({ s2 with rays := s2.rays.filter fun x => !old x }.setRay { r with phase := .final })

/-- RAY_SPILL: the oldest ray of the core that waits on verdicts goes to its save slot, whole (R316). -/
def execRaySpill (core : Nat) (s : State) : Out :=
  match s.rays.find? fun r => r.cmd.core == core && r.phase == .pending && !r.spilled && r.code != 4 && !s.engineWaits (.ray r.id) with
  | none => .next s
  | some r =>
    match s.writeSlot r.cmd r.slot 2 slotBytes with
    | (.ok _, s1) => .next (s1.setRay { r with spilled := true })
    | (.error (.fault x), s1) => .next (s1.addFault x (.ray r.id)).2
    | (.error (.stop a), s1) => .next (s1.deadRay r a)
    | (.error .wait, s1) => .next s1

end Sys2Proof.Machine
end

