-- ==== Sys2Proof/Machine/RayWords.lean ====
section
/-! DEFINITION. The ray words RTRACE, RCAND, RVERD and RHIT (15 R317, R328 to R335), and the pre-emption of a gang that waits on
rays alone (R336). -/

namespace Sys2Proof.Machine

/-! ## What every ray word does first (R317, R329) -/

/-- The lanes of the word in each slice that has some. -/
def Gang.laneOps (g : Gang) (c : RCtx) (pm : Pm) : List (Slice × Nat) :=
  g.slices.flatMap fun sl => (lanesOf (sl.act c pm)).map fun k => (sl, k)

/-- The slices with an active lane. -/
def Gang.activeSlices (g : Gang) (c : RCtx) (pm : Pm) : List Slice := g.slices.filter fun sl => sl.act c pm != 0

/-- The checks of R329 on a structure's address, aligned to 128, and a save area, for the active lanes of a slice. -/
def Slice.saveTrap (sl : Slice) (c : RCtx) (pm : Pm) (tags : List SReg) (root save : Word64) (more : Option Trap) : Option Trap :=
  let slotOf := fun (k : Nat) => save + BitVec.ofNat 64 (1024 * sl.laneIx k)
  if tags.any fun r => (sl.readS c r).tag then some ⟨Cause.poisonUse, 32⟩
  else if root.toNat % 128 ≠ 0 then some ⟨Cause.misaligned, root⟩
  else if save.toNat % 1024 ≠ 0 then some ⟨Cause.misaligned, save⟩
  else more.orElse fun _ =>
    if apertureOf root ≠ some .global then some ⟨Cause.addressHole, root⟩
    else if apertureOf save ≠ some .attic then some ⟨Cause.addressHole, save⟩
    else
      ((lanesOf (sl.act c pm)).find? fun k => decide (sl.stkl.toNat < offsetOf save + 1024 * sl.laneIx k + 1024)).map fun k =>
        ⟨Cause.segmentLimit, slotOf k⟩

/-- The ring entries of a block of lane registers. -/
def Slice.ringsOf (sl : Slice) (lregs : Nat) (vs : List VReg) : List Nat := vs.map (sl.laneRing lregs)

/-- Lane k's values of a block, and whether one is tagged. -/
def Slice.blockV (sl : Slice) (c : RCtx) (vs : List VReg) (k : Nat) : List Word32 × Bool :=
  let xs := vs.map fun v => sl.readV c v k
  (xs.map LVal.v, xs.any LVal.tag)

/-- The virtual address of a lane's save slot. -/
def Slice.slotVa (sl : Slice) (save : Word64) (k : Nat) : Nat := sl.stkb.toNat + offsetOf save + 1024 * sl.laneIx k

/-! ## RTRACE (R328 to R330) -/

/-- The ray of one lane. -/
def State.newRay (s : State) (g : Gang) (c : RCtx) (o : Wide) (sl : Slice) (k : Nat) : Ray :=
  let root := (sl.readS c o.ss).v
  let save := (sl.readS c (o.ss + 1)).v
  let org := sl.blockV c (vblock o.va 3) k
  let dir := sl.blockV c (vblock o.vb 3) k
  let ts := sl.blockV c (vblock o.vc 2) k
  { id := s.nextId, cmd := { g.command sl .trace false o [root, save] with id := s.nextId }, gid := g.gid, lix := sl.laneIx k, k := k
    word := c.word, rings := sl.ringsOf c.lregs (vblock o.vd 5), slotAt := sl.slotVa save k, phase := .fresh, spilled := false
    o := org.1, d := dir.1, tmin := ts.1.getD 0 0, tmax := ts.1.getD 1 0, tagged := org.2 || dir.2 || ts.2, flags := o.imm
    limit := ts.1.getD 1 0, best := none, cands := [], verdicts := [], stack := [], inSlot := 0, code := 0, reason := 0 }

/-- RTRACE: the gang is held until the engine takes every active lane (R316); the fork's span is C (R345). -/
def execRtrace (o : Wide) (s : State) : Out :=
  runWord (.rtrace o) s fun g s =>
    let c := s.rctx g
    let ops := g.laneOps c o.pm
    let check := fun (sl : Slice) => sl.saveTrap c o.pm (sblock o.ss 2) (sl.readS c o.ss).v (sl.readS c (o.ss + 1)).v none
    match (g.activeSlices c o.pm).findSome? check with
    | some t => .next (s.trapped g t)
    | none =>
      if s.raysFull g o.pm then .next s
      else
        let s1 := if ops.isEmpty then s else (s.edgeSource g 1).reconcileDest g.core 1
        let s2 := ops.foldl (fun s p => { s with rays := s.rays ++ [s.newRay g c o p.1 p.2], nextId := s.nextId + 1 }) s1
        .next (s2.wordDone ((s2.cur.getD g).mapSlices fun sl =>
          ((lanesOf (sl.act c o.pm)).foldl (fun sl k => sl.expectV c (vblock o.vd 5) k) sl).advance 12 true))

/-! ## RCAND, RVERD, RHIT (R332 to R335) -/

/-- The ray of a strand that waits on verdicts at a lane's slot. -/
def State.pendingRay (s : State) (g : Gang) (sl : Slice) (save : Word64) (k : Nat) : Option Ray :=
  if apertureOf save = some .attic then
    s.rays.find? fun r => r.phase == .pending && r.cmd.sid == sl.sid && r.cmd.ctx == g.ctx && r.slotAt == sl.slotVa save k
  else none

/-- The last final ray of a strand kept for a lane's slot. -/
def State.finalRay (s : State) (g : Gang) (sl : Slice) (save : Word64) (k : Nat) : Option Ray :=
  if apertureOf save = some .attic then
    s.rays.find? fun r => r.phase == .final && r.cmd.sid == sl.sid && r.cmd.ctx == g.ctx && r.slotAt == sl.slotVa save k
  else none

/-- The tag of the scalar base (R151). -/
def baseTrap (c : RCtx) (r : SReg) (sl : Slice) : Option Trap :=
  if (sl.readS c r).tag then some ⟨Cause.poisonUse, 32⟩ else none

/-- A ray word that acts on slots at once: values for lanes, and what it does to the rays. Its fork has span C, and so has the join at its
register write: the engine is the core's own, and both ends fall into this step, so that one bump of the generation serves both (R345).
The results of RCAND and RHIT take 20 cycles on the unloaded part (log 66, DESIGN CHOICE). -/
def slotWord (i : Instr) (o : Wide) (s : State) (vals : State → Gang → RCtx → Slice → Nat → List (VReg × LVal))
    (act : State → Gang → RCtx → Slice → Nat → State) : Out :=
  runWord i s fun g s =>
    let c := s.rctx g
    match (g.activeSlices c o.pm).findSome? (baseTrap c o.ss) with
    | some t => .next (s.trapped g t)
    | none =>
      let ops := g.laneOps c o.pm
      let s1 := ops.foldl (fun s p => act s g c p.1 p.2) (if ops.isEmpty then s else (s.edgeSource g 1).reconcileDest g.core 1)
      .next (s1.wordDone ((s1.cur.getD g).mapSlices fun sl =>
        ((lanesOf (sl.act c o.pm)).foldl
          (fun acc k => (vals s g c sl k).foldl (fun a v => a.writeV c (.variable 20) v.1 k v.2) acc) sl).advance 12 true))

/-- The record of a candidate in the layout of R331, with the batch's size; none gives the record of a miss with CODE 1. -/
def candWords (h : Option Hit) (batch : Nat) : List Word32 :=
  match h with
  | some x => hitWords x.t h ++ [statusWord h 0 batch 0]
  | none => hitWords f32Inf none ++ [statusWord none 1 batch 0]

/-- RCAND (R332). -/
def execRcand (o : Wide) (s : State) : Out :=
  slotWord (.rcand o) o s
    (fun s g c sl k =>
      let cs := ((s.pendingRay g sl (sl.readS c o.ss).v k).map Ray.cands).getD []
      (vblock o.vd 5).zip ((candWords cs[o.imm.toNat]? cs.length).map fun w => ⟨w, false⟩))
    (fun s _ _ _ _ => s)

/-- RVERD (R333): a value above 3, no such candidate, or no pending ray: no effect. -/
def execRverd (o : Wide) (s : State) : Out :=
  slotWord (.rverd o) o s (fun _ _ _ _ _ => [])
    (fun s g c sl k =>
      let v := (sl.readV c o.va k).v.toNat
      match s.pendingRay g sl (sl.readS c o.ss).v k with
      | some r =>
        if v < 4 ∧ o.imm.toNat < r.cands.length then
          s.setRay { r with verdicts := r.verdicts.put o.imm.toNat (v, (sl.readV c o.vb k).v, (sl.readV c o.vc k).v) }
        else s
      | none => s)

/-- The extended attributes of a hit (R334). -/
def hitAttrs (h : Option Hit) : List Word32 :=
  match h with
  | some h => [h.geom, h.user, BitVec.ofNat 32 ((if h.second then 1 else 0) + (if h.front then 2 else 0) + (if h.proc then 4 else 0))]
  | none => [0xFFFFFFFF, 0xFFFFFFFF, 0]

/-- RHIT (R334): the pending ray's best hit, or the last final hit kept in the slot. -/
def execRhit (o : Wide) (s : State) : Out :=
  slotWord (.rhit o) o s
    (fun s g c sl k =>
      let save := (sl.readS c o.ss).v
      let r := (s.pendingRay g sl save k).orElse fun _ => s.finalRay g sl save k
      let h := r.bind fun r => if r.code = 1 ∨ r.code = 3 then none else r.best
      (vblock o.vd 3).zip ((hitAttrs h).map fun w => ⟨w, false⟩))
    (fun s _ _ _ _ => s)

end Sys2Proof.Machine
end

