-- ==== Sys2Proof/Machine/March.lean ====
section
/-! DEFINITION. RMARCH (15 R340 to R342): marches through an occupancy grid, one sample of one lane at a time. -/

namespace Sys2Proof.Machine

/-! ## The grid (R340, R341) -/

/-- A grid descriptor. -/
structure Grid where
  lo : List Word32
  f : Nat
  hi : List Word32
  dt : Word32
  occ : Word64
  hash : Word64
  res : List Nat
  deriving DecidableEq, Repr

/-- Read a descriptor; none when it is malformed. -/
def gridOf (bs : List Byte) : Option Grid :=
  let g : Grid := { lo := vecAt bs 0, f := fieldOf bs 0x0C 1, hi := vecAt bs 0x10, dt := f32At bs 0x1C
                    occ := BitVec.ofNat 64 (fieldOf bs 0x20 8), hash := BitVec.ofNat 64 (fieldOf bs 0x28 8)
                    res := (List.range 16).map fun k => fieldOf bs (0x30 + 2 * k) 2 }
  let ordered := (List.range 3).all fun d => ltF (g.lo.getD d 0) (g.hi.getD d 0)
  if zeroAt bs 0x0D 3 && zeroAt bs 0x50 48 && decide (4 ≤ g.f) && decide (g.f ≤ 10) && ordered && finiteF g.dt && ltF f32Zero g.dt &&
      decide (g.occ.toNat % 8 = 0) && decide (g.hash.toNat % 64 = 0) && g.res.all (fun n => decide (1 ≤ n)) then some g
  else none

/-- A point in the grid's unit coordinates, axis by axis (R341). -/
def Grid.unit (g : Grid) (p : List Word32) : List Word32 :=
  (List.range 3).map fun d => divF (subF (p.getD d 0) (g.lo.getD d 0)) (subF (g.hi.getD d 0) (g.lo.getD d 0))

/-- floor of a finite f32 times 2^k. -/
def floorScaled (a : Word32) (k : Nat) : Int := fixed a * 2 ^ k / 2 ^ 149

/-- The fine cell of a point, when it lies in the grid. -/
def Grid.cell (g : Grid) (u : List Word32) : Option (List Nat) :=
  let c := u.map fun x => floorScaled x g.f
  if u.all finiteF && c.all (fun x => decide (0 ≤ x) && decide (x < 2 ^ g.f)) then some (c.map Int.toNat) else none

/-- Byte address and bit of a cell of a level with side 2^k whose bits begin at `base`. -/
def cellBit (base k x y z : Nat) : Nat × Nat :=
  let b := x + 2 ^ k * (y + 2 ^ k * z)
  (base + b / 8, b % 8)

/-- The bits that say whether a fine cell is occupied: of the blocks of 16³ and of 4³ cells, and of the cell itself. -/
def Grid.bits (g : Grid) (c : List Nat) : List (Nat × Nat) :=
  let base := g.occ.toNat
  let l1 := base + 2 ^ (3 * g.f) / 8
  let l2 := l1 + 2 ^ (3 * g.f - 6) / 8
  let x := c.getD 0 0
  let y := c.getD 1 0
  let z := c.getD 2 0
  [cellBit l2 (g.f - 4) (x / 16) (y / 16) (z / 16), cellBit l1 (g.f - 2) (x / 4) (y / 4) (z / 4), cellBit base g.f x y z]

/-- All the bits are 1, read from the coarsest on. -/
def allSet (c : Cmd) : List (Nat × Nat) → Eng Bool
  | [] => pure true
  | (a, b) :: rest => do
    let bs ← readRay c (BitVec.ofNat 64 a) 1
    if (bs.headD 0).getLsbD b then allSet c rest else pure false

/-- The entry of a corner of a level with resolution n. -/
def hashEntry (n : Nat) (k : List Int) : Nat :=
  let x := k.getD 0 0
  let y := k.getD 1 0
  let z := k.getD 2 0
  if (n + 1) ^ 3 ≤ 2 ^ 19 then ((x + (n + 1 : Nat) * (y + (n + 1 : Nat) * z)) % 2 ^ 64).toNat
  else
    let h := BitVec.ofInt 32 x ^^^ (BitVec.ofInt 32 y * 0x9E3779B1) ^^^ (BitVec.ofInt 32 z * 0x85EBCA77)
    h.toNat % 2 ^ 19

/-- An f16 as f32. -/
def f16F (w : Nat) : Word32 := rd (fmtF16.decode w)

/-- One corner of a level: the accumulators with its entry added. -/
def Grid.corner (g : Grid) (c : Cmd) (lv n : Nat) (cs : List Int) (ws : List Word32) (acc : Word32 × Word32) (b : Nat) :
    Eng (Word32 × Word32) := do
  let bit := fun d => decide (b / 2 ^ d % 2 = 1)
  let k := (List.range 3).map fun d => cs.getD d 0 + (if bit d then 1 else 0)
  let a := fun d => if bit d then ws.getD d 0 else subF f32One (ws.getD d 0)
  let wt := mulF (mulF (a 0) (a 1)) (a 2)
  let bs ← readRay c (g.hash + BitVec.ofNat 64 (2 ^ 21 * lv + 4 * hashEntry n k)) 4
  pure (fmaF wt (f16F (fieldOf bs 0 2)) acc.1, fmaF wt (f16F (fieldOf bs 2 2)) acc.2)

/-- The two features of a level, four bytes (R341). -/
def Grid.feature (g : Grid) (c : Cmd) (u : List Word32) (lv : Nat) : Eng (List Byte) := do
  let n := g.res.getD lv 1
  let s := u.map fun x => mulF x (intF n)
  let cs := s.map fun x => floorScaled x 0
  let ws := (s.zip cs).map fun p => subF p.1 (intF p.2)
  let acc ← (List.range 8).foldlM (g.corner c lv n cs ws) (f32Zero, f32Zero)
  let half := fun (x : Word32) => toBytes (BitVec.ofNat 16 (fmtF16.round 0 0 false false (f32 x))) 2
  pure (half acc.1 ++ half acc.2)

/-! ## Operands (R342) -/

/-- A lane's operands as a command carries them after its block and budget: k, lane index, slot, o, d, tmin, tmax, tag. -/
def marchOps (sl : Slice) (c : RCtx) (o : Wide) (save : Word64) (k : Nat) : List Word64 :=
  let org := sl.blockV c (vblock o.va 3) k
  let dir := sl.blockV c (vblock o.vb 3) k
  let ts := sl.blockV c (vblock o.vc 2) k
  let tag := org.2 || dir.2 || ts.2
  let pack := fun (a b : Word32) => a.setWidth 64 ||| (b.setWidth 64 <<< 32)
  let at_ := fun (xs : List Word32) i => xs.getD i 0
  [BitVec.ofNat 64 k, BitVec.ofNat 64 (sl.laneIx k), BitVec.ofNat 64 (sl.slotVa save k), pack (at_ org.1 0) (at_ org.1 1),
    pack (at_ org.1 2) (at_ dir.1 0), pack (at_ dir.1 1) (at_ dir.1 2), pack (at_ ts.1 0) (at_ ts.1 1), if tag then 1 else 0, 0]

/-- The lane that some operands describe. -/
def laneFrom (xs : List Word64) : MarchLane :=
  let lo := fun i => (xs.getD i 0).setWidth 32
  let hi := fun i => ((xs.getD i 0) >>> 32).setWidth 32
  { k := (xs.getD 0 0).toNat, lix := (xs.getD 1 0).toNat, slotAt := (xs.getD 2 0).toNat, begun := false, mine := false, o := [lo 3, hi 3, lo 4]
    d := [hi 4, lo 5, hi 5], tmin := lo 6, tmax := hi 6, tagged := xs.getD 7 0 != 0, step := 0, count := 0, over_ := none, reason := 0
    filled := 0 }

/-- Lists of nine. -/
def chunk9 : Nat → List Word64 → List (List Word64)
  | 0, _ => []
  | fuel + 1, xs => if xs.isEmpty then [] else xs.take 9 :: chunk9 fuel (xs.drop 9)

/-- The budget R of a march, and its word and ring entries. -/
def Cmd.budget (c : Cmd) : Nat := (c.regs.getD 5 0).toNat % 256
def Cmd.marchWord (c : Cmd) : Nat := (c.regs.getD 5 0).toNat / 256 / 2 ^ 20
def Cmd.marchRings (c : Cmd) : List Nat :=
  let x := (c.regs.getD 5 0).toNat / 256
  if x / 2 ^ 18 % 2 = 1 then [x % 512, x / 512 % 512] else []

/-- `n` bytes from an offset on, not reduced (03 R45). -/
def rangeFrom (a : Word64) (off n : Nat) : Range := ⟨(a.toNat + off : Nat), (a.toNat + off + n - 1 : Nat)⟩

/-- The ranges of a lane of a march: its records, and its words of IDX (R342). -/
def marchRanges (dst idx : Word64) (r l : Nat) : Range × Range := (rangeFrom dst (64 * r * l) (64 * r), rangeFrom idx (4 * (r + 1) * l) (4 * (r + 1)))

/-- A range of records that does not lie in the scratchpad aperture fails R264's check 4 at the end that lies outside (log 60). -/
def Range.notScratch (x : Range) : Option Trap :=
  if endAperture x.lo ≠ some .scratch then some ⟨Cause.addressHole, BitVec.ofInt 64 x.lo⟩
  else if endAperture x.hi ≠ some .scratch then some ⟨Cause.addressHole, BitVec.ofInt 64 x.hi⟩ else none

/-- R264's checks 4 and 5 of a lane's ranges. -/
def Segs.marchLane (g : Segs) (crew : Option Nat) (x : Range × Range) : Option Trap × Option Trap :=
  let (a, b) := (g.rangeTrap crew x.1, g.rangeTrap crew x.2)
  ((x.1.notScratch.orElse fun _ => a.1).orElse fun _ => b.1, a.2.orElse fun _ => b.2)

/-- The issue checks of RMARCH: those of R329 with the alignments of DST, IDX and CELL, then R264's of each active lane's ranges. -/
def marchTrap (g : Gang) (c : RCtx) (o : Wide) (sl : Slice) : Option Trap :=
  let r := fun k => (sl.readS c (o.ss + BitVec.ofNat 5 k)).v
  let bud := o.imm.toNat % 256
  let mis : Option Trap :=
    if (r 2).toNat % 64 ≠ 0 then some ⟨Cause.misaligned, r 2⟩
    else if (r 3).toNat % 4 ≠ 0 then some ⟨Cause.misaligned, r 3⟩
    else if r 4 ≠ 0 ∧ (r 4).toNat % 16 ≠ 0 then some ⟨Cause.misaligned, r 4⟩ else none
  (sl.saveTrap c o.pm (sblock o.ss 5) (r 0) (r 1) mis).orElse fun _ =>
    let rs := (lanesOf (sl.act c o.pm)).map fun k => sl.segs.marchLane g.crew (marchRanges (r 2) (r 3) bud (sl.laneIx k))
    (rs.findSome? Prod.fst).orElse fun _ => rs.findSome? Prod.snd

/-- RMARCH (R342): a command of every slice with an active lane, unguarded ones with results to come. -/
def execRmarch (o : Wide) (s : State) : Out :=
  runWord (.rmarch o) s fun g s =>
    let c := s.rctx g
    let guarded := o.aux.getLsbD 5
    let act := g.activeSlices c o.pm
    match act.findSome? (marchTrap g c o) with
    | some t => .next (s.trapped g t)
    | none =>
      let regs := fun (sl : Slice) =>
        let blk := sl.block c o.ss 5
        let rings := sl.ringsOf c.lregs (vblock o.vd 2)
        let word := o.imm.toNat % 256 + 256 * ((if guarded then 0 else 2 ^ 18 + rings.getD 0 0 + 512 * rings.getD 1 0) + 2 ^ 20 * c.word)
        blk ++ [BitVec.ofNat 64 word] ++ (lanesOf (sl.act c o.pm)).flatMap (marchOps sl c o (blk.getD 1 0))
      let irr := act.any fun sl => (sl.readS c (o.ss + 4)).v != 0
      if irr && s.twinWaits g then .next (s.setCur { g with park := .twin false })
      else if s.raysFull g o.pm then .next s
      else
        let s1 := if irr then s.irrevocable g else s
        let s2 := if irr && s1.isShadow g then s1 else
          act.foldl (fun s sl => s.queueCmd g sl .march false o (regs sl)) (s1.edgeSource g 1)
        let expect := fun (sl : Slice) =>
          if guarded then sl
          else ((lanesOf (sl.act c o.pm)).foldl (fun sl k => sl.expectV c (vblock o.vd 2) k) sl).takeMail c.word
        .next (s2.wordDone ((s2.cur.getD g).mapSlices fun sl => (expect sl).advance 12 true))

/-! ## The march -/

def State.setMarch (s : State) (id : Nat) (f : March → March) : State :=
  { s with marches := updFirst (fun m => m.cmd.id == id) f s.marches }

def State.setLane (s : State) (id k : Nat) (f : MarchLane → MarchLane) : State :=
  s.setMarch id fun m => { m with lanes := m.lanes.map fun l => if l.k == k then f l else l }

/-- A queued march starts: its guard is TRUE, and no march of its quadrant stands ahead that may start. The fork's span is C; a fenced engine
takes none (21 R445). -/
def State.beginMarch (s : State) (c : Cmd) : State :=
  if s.mayStart c && s.headOfQueue c && !s.fenced c.part 2 c.core then
    let m : March := { cmd := c, word := c.marchWord, rings := c.marchRings, lanes := (chunk9 128 (c.regs.drop 6)).map laneFrom
                       poison := false, spilled := false, wrote := false }
    { (s.reconcileDest c.core 1).dropCmd c.id with marches := s.marches ++ [m] }
  else s

/-- A lane ends with a status. -/
def State.endLane (s : State) (m : March) (l : MarchLane) (code reason : Nat) : State :=
  let s1 := s.setLane m.cmd.id l.k fun x => { x with over_ := some code, reason := reason, begun := true }
  if code = 4 then s1.setMarch m.cmd.id fun x => { x with poison := true } else s1

/-- A lane ends POISONED: reason 0 sets CHKIV, the others are recorded (R338, R339). -/
def State.poisonLane (s : State) (m : March) (l : MarchLane) (reason : Nat) (at_ : Word64) : State :=
  let s1 := s.endLane m l 4 reason
  if reason = 0 then s1.consume m.cmd.ctx chkRay else s1.engineRecord m.cmd 0x0F m.cmd.core 0 at_ 0

/-- Engine work of a lane, and what follows it; what stops it ends the lane or has it wait. -/
def State.laneWork {α : Type} (s : State) (m : March) (l : MarchLane) (e : Eng α) (f : α → State → State) : State :=
  match s.run e with
  | (.ok a, s1, false) => f a s1
  | (.ok _, s1, true) => s1.poisonLane m l 0 0
  | (.error (.fault x), s1, _) => (s1.addFault x (.ray m.cmd.id)).2
  | (.error (.stop at_), s1, _) => s1.poisonLane m l 3 at_
  | (.error .wait, s1, _) => s1

/-- The lane saved in a slot by a march that was stopped (R336). -/
def State.savedLane (s : State) (m : March) (l : MarchLane) : Option (Nat × MarchLane) :=
  s.marches.findSome? fun x =>
    if x.spilled && x.cmd.ctx == m.cmd.ctx then (x.lanes.find? fun y => y.slotAt == l.slotAt).map fun y => (x.cmd.id, y) else none

/-- Take a lane out of a saved march. -/
def State.dropSaved (s : State) (id slotAt : Nat) : State :=
  let out := s.marches.map fun x => if x.cmd.id == id then { x with lanes := x.lanes.filter fun y => y.slotAt != slotAt } else x
  { s with marches := out.filter fun x => !(x.spilled && x.lanes.isEmpty) }

/-- Another operation that is live on a lane's slot. -/
def State.laneBusy (s : State) (m : March) (l : MarchLane) : Bool :=
  s.rays.any (fun r => r.live && r.cmd.ctx == m.cmd.ctx && r.slotAt == l.slotAt) ||
    s.marches.any fun x => !x.spilled && x.cmd.ctx == m.cmd.ctx && x.lanes.any fun y => y.mine && y.slotAt == l.slotAt

/-- A lane's read of its slot fails: what is saved there ends with it, POISONED (R338, R339). -/
def State.lostLane (s : State) (m : March) (l : MarchLane) (reason : Nat) (at_ : Word64) : State :=
  let s1 := match s.savedLane m l with
    | some (id, _) => s.dropSaved id l.slotAt
    | none => s
  (s1.setLane m.cmd.id l.k fun x => { x with mine := true }).poisonLane m l reason at_

/-- A lane looks at its slot, and goes on with what is saved there, or begins (R330, R336, R342). -/
def State.startLane (s : State) (m : March) (l : MarchLane) : State :=
  let slot := m.cmd.regs.getD 1 0 + BitVec.ofNat 64 (1024 * l.lix)
  let saved := s.savedLane m l
  if saved.isNone && s.laneBusy m l then s.poisonLane m l 1 slot
  else
    match s.run (readRay m.cmd slot (if saved.isSome then slotBytes else 16)) with
    | (.error (.fault x), s1, _) => (s1.addFault x (.ray m.cmd.id)).2
    | (.error (.stop at_), s1, _) => s1.lostLane m l 3 at_
    | (.error .wait, s1, _) => s1
    | (.ok _, s1, true) => s1.lostLane m l 0 0
    | (.ok bs, s1, false) =>
      match saved with
      | some (id, y) =>
        let s2 := (s1.dropSaved id l.slotAt).setLane m.cmd.id l.k fun x => { y with k := x.k, lix := x.lix }
        if y.over_ = some 4 then s2.setMarch m.cmd.id fun x => { x with poison := true } else s2
      | none =>
        if fieldOf bs 0 4 ≠ 0 then s1.poisonLane m l 1 slot
        else
          let (c, t0) := rayCheck l.o l.d l.tmin l.tmax l.tagged
          if c = 0 then s1.setLane m.cmd.id l.k fun x => { x with begun := true, mine := true, tmin := t0 }
          else (s1.setLane m.cmd.id l.k fun x => { x with mine := true }).endLane m l (if c = 1 then 0 else c) 0

/-- The address of a record, and of the word that belongs to it; index 0 is the summary word. -/
def Cmd.recordAt (c : Cmd) (l n : Nat) : Word64 := c.regs.getD 2 0 + BitVec.ofNat 64 (64 * (c.budget * l + n))
def Cmd.stepAt (c : Cmd) (l i : Nat) : Word64 := c.regs.getD 3 0 + BitVec.ofNat 64 (4 * (c.budget + 1) * l + 4 * i)

/-- Write a record with its step word, and set its granules full. -/
def writeRecord (c : Cmd) (l n : Nat) (bs : List Byte) (step : Word32) : Eng Unit := do
  let ps ← reachE c true c.core (c.recordAt l n) 64
  let qs ← reachE c true c.core (c.stepAt l (n + 1)) 4
  doing fun s =>
    let s1 := (s.storeAll c false ps bs).storeAll c false qs (toBytes step 4)
    s1.setFull c.core (granulesOf (c.scratchOff (c.recordAt l n)) 64)

/-- One step of a lane: the sample lies outside the occupied cells, or its record is written (R341, R342). -/
inductive Sampled where
  | done
  | full
  | malformed
  | skip
  | wrote
  deriving DecidableEq, Repr

/-- One sample. -/
def sample (c : Cmd) (l : MarchLane) : Eng Sampled := do
  let bs ← readRay c (c.regs.getD 0 0) 128
  match gridOf bs with
  | none => pure .malformed
  | some g =>
    let ts := fmaF (addF (intF l.step) 0x3F000000) g.dt l.tmin
    if ltF l.tmax ts ∨ 2 ^ 23 ≤ l.step then pure .done
    else if c.budget ≤ l.count then pure .full
    else
      let p := (List.range 3).map fun d => fmaF ts (l.d.getD d 0) (l.o.getD d 0)
      let u := g.unit p
      match g.cell u with
      | none => pure .skip
      | some cell =>
        let occ ← allSet c (g.bits cell)
        if occ then
          let fs ← (List.range 16).mapM (g.feature c u)
          writeRecord c l.lix l.count fs.flatten (BitVec.ofNat 32 l.step)
          pure .wrote
        else pure .skip

/-- A lane takes one step. -/
def State.stepLane (s : State) (m : March) (l : MarchLane) : State :=
  s.laneWork m l (sample m.cmd l) fun r s =>
    match r with
    | .done => s.endLane m l 0 0
    | .full => s.endLane m l 1 0
    | .malformed => s.poisonLane m l 1 (m.cmd.regs.getD 0 0)
    | .skip => s.setLane m.cmd.id l.k fun x => { x with step := x.step + 1 }
    | .wrote => s.setLane m.cmd.id l.k fun x => { x with step := x.step + 1, count := x.count + 1 }

/-- Things still to be written once a lane has ended: its padding records, then its summary word. -/
def MarchLane.fillsLeft (c : Cmd) (l : MarchLane) : Nat := c.budget - l.count + 1 - l.filled

/-- A lane that has ended writes one padding record, or its summary word. -/
def State.fillLane1 (s : State) (m : March) (l : MarchLane) : State :=
  let n := l.count + l.filled
  let work : Eng Unit :=
    if n < m.cmd.budget then writeRecord m.cmd l.lix n (List.replicate 64 0) 0xFFFFFFFF
    else writeE m.cmd m.cmd.core false (m.cmd.stepAt l.lix 0) (toBytes (BitVec.ofNat 32 (l.count + 256 * l.over_.getD 0)) 4)
  let next := fun (s : State) => s.setLane m.cmd.id l.k fun x => { x with filled := x.filled + 1 }
  match s.run work with
  | (.ok _, s1, _) => next s1
  | (.error (.fault x), s1, _) => (s1.addFault x (.ray m.cmd.id)).2
  | (.error (.stop at_), s1, _) => next (s1.poisonLane m l 3 at_)
  | (.error .wait, s1, _) => s1

/-- A lane that still has something to do. -/
def March.busyLane (m : March) : Option MarchLane :=
  m.lanes.find? fun l => !l.begun || l.over_.isNone || decide (0 < l.fillsLeft m.cmd)

/-- One move of a march. -/
def State.moveMarch (s : State) (m : March) : State :=
  if s.engineWaits (.ray m.cmd.id) || m.spilled then s
  else
    match m.busyLane with
    | none => s
    | some l =>
      if !l.begun then s.startLane m l
      else if l.over_.isNone then s.stepLane m l
      else s.fillLane1 m l

/-- A lane's slot cannot be written: the lane is POISONED with reason 3 and leaves the slot alone (R339). -/
def State.loseSlot (s : State) (m : March) (l : MarchLane) (at_ : Word64) : State :=
  (s.poisonLane m l 3 at_).setLane m.cmd.id l.k fun x => { x with mine := false }

/-- Write the save slots of the lanes that have one: STATE by lane, and as many bytes. The Bool tells that all are written; a translation
fault holds them back (R339). -/
def State.marchSlots (s : State) (m : March) (code : MarchLane → Nat) (n : Nat) : List MarchLane → Bool × State
  | [] => (true, s)
  | l :: ls =>
    if !l.mine then s.marchSlots m code n ls
    else
      match s.writeSlot m.cmd (m.cmd.regs.getD 1 0 + BitVec.ofNat 64 (1024 * l.lix)) (code l) n with
      | (.ok _, s1) => s1.marchSlots m code n ls
      | (.error (.fault x), s1) => (false, (s1.addFault x (.ray m.cmd.id)).2)
      | (.error (.stop a), s1) => (s1.loseSlot m l a).marchSlots m code n ls
      | (.error .wait, s1) => (false, s1)

/-- The status word of a lane (R331 layout). -/
def MarchLane.result (l : MarchLane) : List LVal :=
  let code := l.over_.getD 0
  [⟨BitVec.ofNat 32 l.count, code == 4⟩, ⟨BitVec.ofNat 32 (l.reason * 1024 + code), code == 4⟩]

/-- RAY_MARCH_COMPLETE: the registers of an unguarded march are written, a join of span C; then CELL is signalled at span P (R342,
R345). -/
def execRayMarchComplete (id : Nat) (s : State) : Out :=
  match s.marches.find? fun m => m.cmd.id == id with
  | none => .next s
  | some m =>
    if m.spilled || s.ctxSaved m.cmd.ctx || m.busyLane.isSome || s.engineWaits (.ray id) then .next s
    else if m.cmd.cell ≠ 0 ∧ !s.ackClear m.cmd.core 4 then .next s
    else
      let (ok, s0) := if m.wrote then (true, s) else s.marchSlots m (fun _ => 0) slotHead m.lanes
      match ok, s0.marches.find? fun m => m.cmd.id == id with
      | true, some m =>
        let s1 := if m.wrote || m.rings.isEmpty then s0
          else m.lanes.foldl (fun s l => s.deliverLanes m.cmd m.word l.k m.rings l.result) (s0.reconcileDest m.cmd.core 1)
        let s2 := if m.cmd.cell = 0 then s1 else s1.reconcileSource m.cmd.core 4
        let (fin, s3) := s2.finishCmd m.cmd m.cmd.cell (if m.poison then statusFaulted else statusOk) m.cmd.core (.ray id)
        if fin then .next { s3 with marches := s3.marches.filter fun x => x.cmd.id != id }
        else .next (s3.setMarch id fun x => { x with wrote := true })
      | _, _ => .next s0

end Sys2Proof.Machine
end

