-- ==== Sys2Proof/Machine/Blocks.lean ====
section
/-! DEFINITION. The block formats of textures (15 R343): BC1 to BC7 and ASTC 4×4 LDR, decoded as their published definitions have them.
The spec names the definitions and does not repeat them: their tables and bit places are PRESUMED (log 12). A texel is four channels,
each a fraction. -/

namespace Sys2Proof.Machine

/-- A channel: numerator and denominator. -/
abbrev Chan := Nat × Nat

/-- `len` bits of a block from bit `off` on. -/
def bitsAt (n off len : Nat) : Nat := n / 2 ^ off % 2 ^ len

/-- The channel values 0 and 1. -/
def chan0 : Chan := (0, 1)
def chan1 : Chan := (1, 1)

/-- A channel of `bits` bits. -/
def unorm (bits x : Nat) : Chan := (x, 2 ^ bits - 1)

/-- Weights of 64ths of two numbers, rounded to nearest. -/
def blend64 (w a b : Nat) : Nat := (a * (64 - w) + b * w + 32) / 64

/-! ## BC1 to BC5 -/

/-- Bits of the channels of a colour of 16 bits: red, green, blue, with the bit that each begins at. -/
def rgb565 : List (Nat × Nat) := [(11, 5), (5, 6), (0, 5)]

/-- A texel of a colour block of 64 bits at `off`: two colours and 2 bits for each texel. `four` is BC2's and BC3's block, which always has four
colours; BC1's has a transparent black in the fourth place when the first colour is not the greater. -/
def colourBlock (four : Bool) (n off i : Nat) : List Chan :=
  let c0 := bitsAt n off 16
  let c1 := bitsAt n (off + 16) 16
  let k := bitsAt n (off + 32 + 2 * i) 2
  let mix := fun (a b : Nat) => rgb565.map fun f => (a * bitsAt c0 f.1 f.2 + b * bitsAt c1 f.1 f.2, (a + b) * (2 ^ f.2 - 1))
  let whole := four || decide (c1 < c0)
  match k with
  | 0 => mix 1 0 ++ [chan1]
  | 1 => mix 0 1 ++ [chan1]
  | 2 => (if whole then mix 2 1 else mix 1 1) ++ [chan1]
  | _ => if whole then mix 1 2 ++ [chan1] else [chan0, chan0, chan0, chan0]

/-- A channel of a block of 64 bits at `off`: two values of 8 bits and 3 bits for each texel. -/
def channelBlock (n off i : Nat) : Chan :=
  let a := bitsAt n off 8
  let b := bitsAt n (off + 8) 8
  let k := bitsAt n (off + 16 + 3 * i) 3
  if k = 0 then unorm 8 a
  else if k = 1 then unorm 8 b
  else if b < a then ((8 - k) * a + (k - 1) * b, 7 * 255)
  else if k = 6 then chan0
  else if k = 7 then chan1
  else ((6 - k) * a + (k - 1) * b, 5 * 255)

/-! ## Subsets and weights of BC6H and BC7 -/

/-- Partitions of two subsets: bit `i` is the subset of texel `i`. -/
def parts2 : List Nat :=
  [0xCCCC, 0x8888, 0xEEEE, 0xECC8, 0xC880, 0xFEEC, 0xFEC8, 0xEC80, 0xC800, 0xFFEC, 0xFE80, 0xE800, 0xFFE8, 0xFF00, 0xFFF0, 0xF000, 0xF710, 0x008E,
   0x7100, 0x08CE, 0x008C, 0x7310, 0x3100, 0x8CCE, 0x088C, 0x3110, 0x6666, 0x366C, 0x17E8, 0x0FF0, 0x718E, 0x399C, 0xAAAA, 0xF0F0, 0x5A5A, 0x33CC,
   0x3C3C, 0x55AA, 0x9696, 0xA55A, 0x73CE, 0x13C8, 0x324C, 0x3BDC, 0x6996, 0xC33C, 0x9966, 0x0660, 0x0272, 0x04E4, 0x4E40, 0x2720, 0xC936, 0x936C,
   0x39C6, 0x639C, 0x9336, 0x9CC6, 0x817E, 0xE718, 0xCCF0, 0x0FCC, 0x7744, 0xEE22]

/-- Partitions of three subsets: two bits for each texel. -/
def parts3 : List Nat :=
  [0xAA685050, 0x6A5A5040, 0x5A5A4200, 0x5450A0A8, 0xA5A50000, 0xA0A05050, 0x5555A0A0, 0x5A5A5050, 0xAA550000, 0xAA555500, 0xAAAA5500, 0x90909090,
   0x94949494, 0xA4A4A4A4, 0xA9A59450, 0x2A0A4250, 0xA5945040, 0x0A425054, 0xA5A5A500, 0x55A0A0A0, 0xA8A85454, 0x6A6A4040, 0xA4A45000, 0x1A1A0500,
   0x0050A4A4, 0xAAA59090, 0x14696914, 0x69691400, 0xA08585A0, 0xAA821414, 0x50A4A450, 0x6A5A0200, 0xA9A58000, 0x5090A0A8, 0xA8A09050, 0x24242424,
   0x00AA5500, 0x24924924, 0x24499224, 0x50A50A50, 0x500AA550, 0xAAAA4444, 0x66660000, 0xA5A0A5A0, 0x50A050A0, 0x69286928, 0x44AAAA44, 0x66666600,
   0xAA444444, 0x54A854A8, 0x95809580, 0x96969600, 0xA85454A8, 0x80959580, 0xAA141414, 0x96960000, 0xAAAA1414, 0xA05050A0, 0xA0A5A5A0, 0x96000000,
   0x40804080, 0xA9A8A9A8, 0xAAAAAA44, 0x2A4A5254]

/-- The texel of the second subset of two whose index lacks its top bit. -/
def anchor2 : List Nat :=
  [15, 15, 15, 15, 15, 15, 15, 15, 15, 15, 15, 15, 15, 15, 15, 15, 15, 2, 8, 2, 2, 8, 8, 15, 2, 8, 2, 2, 8, 8, 2, 2, 15, 15, 6, 8, 2, 8, 15, 15, 2,
   8, 2, 2, 2, 15, 15, 6, 6, 2, 6, 8, 15, 15, 2, 2, 15, 15, 15, 15, 15, 2, 2, 15]

/-- Those of the second and of the third subset of three. -/
def anchor3a : List Nat :=
  [3, 3, 15, 15, 8, 3, 15, 15, 8, 8, 6, 6, 6, 5, 3, 3, 3, 3, 8, 15, 3, 3, 6, 10, 5, 8, 8, 6, 8, 5, 15, 15, 8, 15, 3, 5, 6, 10, 8, 15, 15, 3, 15, 5,
   15, 15, 15, 15, 3, 15, 5, 5, 5, 8, 5, 10, 5, 10, 8, 13, 15, 12, 3, 3]

def anchor3b : List Nat :=
  [15, 8, 8, 3, 15, 15, 3, 8, 15, 15, 15, 15, 15, 15, 15, 8, 15, 8, 15, 3, 15, 8, 15, 8, 3, 15, 6, 10, 15, 15, 10, 8, 15, 3, 15, 10, 10, 8, 9, 10, 6,
   15, 8, 15, 3, 6, 6, 8, 15, 3, 15, 15, 15, 15, 15, 15, 15, 15, 15, 15, 3, 15, 15, 8]

/-- The subset of a texel. -/
def subsetOf (subsets part i : Nat) : Nat :=
  match subsets with
  | 2 => bitsAt (parts2.getD part 0) i 1
  | 3 => bitsAt (parts3.getD part 0) (2 * i) 2
  | _ => 0

/-- The texels whose indices lack their top bit. -/
def anchorsOf (subsets part : Nat) : List Nat :=
  match subsets with
  | 2 => [0, anchor2.getD part 0]
  | 3 => [0, anchor3a.getD part 0, anchor3b.getD part 0]
  | _ => [0]

/-- The index of texel `i` among indices of `bits` bits from `off` on. -/
def indexAt (n off bits : Nat) (anchors : List Nat) (i : Nat) : Nat :=
  let before := (anchors.filter fun a => decide (a < i)).length
  bitsAt n (off + bits * i - before) (if anchors.contains i then bits - 1 else bits)

/-- The weight of an index. -/
def weightOf (bits k : Nat) : Nat :=
  (match bits with
    | 2 => [0, 21, 43, 64]
    | 3 => [0, 9, 18, 27, 37, 46, 55, 64]
    | _ => [0, 4, 9, 13, 17, 21, 26, 30, 34, 38, 43, 47, 51, 55, 60, 64]).getD k 0

/-! ## BC7 -/

/-- A mode: subsets; bits of the partition, the rotation and the index selection; bits of a colour and of an alpha; a P bit of each endpoint, or
of each subset; bits of the two sets of indices. -/
structure Bc7Mode where
  ns : Nat
  pb : Nat
  rb : Nat
  isb : Nat
  cb : Nat
  ab : Nat
  epb : Nat
  spb : Nat
  ib : Nat
  ib2 : Nat
  deriving DecidableEq, Repr

def bc7Modes : List Bc7Mode :=
  [⟨3, 4, 0, 0, 4, 0, 1, 0, 3, 0⟩, ⟨2, 6, 0, 0, 6, 0, 0, 1, 3, 0⟩, ⟨3, 6, 0, 0, 5, 0, 0, 0, 2, 0⟩, ⟨2, 6, 0, 0, 7, 0, 1, 0, 2, 0⟩,
   ⟨1, 0, 2, 1, 5, 6, 0, 0, 2, 3⟩, ⟨1, 0, 2, 0, 7, 8, 0, 0, 2, 2⟩, ⟨1, 0, 0, 0, 7, 7, 1, 0, 4, 0⟩, ⟨2, 6, 0, 0, 5, 5, 1, 0, 2, 0⟩]

/-- A value of `bits` bits as 8 bits, its top bits again at the bottom. -/
def to8 (bits x : Nat) : Nat := x * 2 ^ (8 - bits) + x / 2 ^ (2 * bits - 8)

/-- Endpoint `e` of channel `ch` as 8 bits; the endpoints begin at bit `off`. -/
def Bc7Mode.endpoint (m : Bc7Mode) (n off e ch : Nat) : Nat :=
  let ends := 2 * m.ns
  let bits := if ch < 3 then m.cb else m.ab
  if bits = 0 then 255
  else
    let v := bitsAt n (if ch < 3 then off + (ch * ends + e) * m.cb else off + 3 * ends * m.cb + e * m.ab) bits
    let op := off + 3 * ends * m.cb + ends * m.ab
    if m.epb = 1 then to8 (bits + 1) (2 * v + bitsAt n (op + e) 1)
    else if m.spb = 1 then to8 (bits + 1) (2 * v + bitsAt n (op + e / 2) 1)
    else to8 bits v

/-- A texel of BC7. The mode is the number of zeros below the first one; a block without one in its first byte is transparent black. -/
def bc7 (n i : Nat) : List Chan :=
  match (List.range 8).find? fun k => bitsAt n k 1 = 1 with
  | none => [chan0, chan0, chan0, chan0]
  | some k =>
    let m := bc7Modes.getD k ⟨1, 0, 0, 0, 7, 7, 1, 0, 4, 0⟩
    let part := bitsAt n (k + 1) m.pb
    let rot := bitsAt n (k + 1 + m.pb) m.rb
    let sel := bitsAt n (k + 1 + m.pb + m.rb) m.isb
    let off := k + 1 + m.pb + m.rb + m.isb
    let ends := 2 * m.ns
    let ox := off + ends * (3 * m.cb + m.ab) + ends * m.epb + m.ns * m.spb
    let w1 := weightOf m.ib (indexAt n ox m.ib (anchorsOf m.ns part) i)
    let w2 := if m.ib2 = 0 then w1 else weightOf m.ib2 (indexAt n (ox + 16 * m.ib - m.ns) m.ib2 [0] i)
    let (wc, wa) := if sel = 1 then (w2, w1) else (w1, w2)
    let s := 2 * subsetOf m.ns part i
    let c := (List.range 4).map fun ch => blend64 (if ch < 3 then wc else wa) (m.endpoint n off s ch) (m.endpoint n off (s + 1) ch)
    let out := if rot = 0 then c else (c.set 3 (c.getD (rot - 1) 0)).set (rot - 1) (c.getD 3 0)
    out.map (unorm 8)

/-! ## BC6H, unsigned -/

/-- A mode: its code in the lowest `len` bits; bits of the first endpoint, and of the others by channel; the others are differences; two
regions; and where the bits of each endpoint stand: 3 × endpoint + channel, the first bit, how many. -/
structure Bc6Mode where
  code : Nat
  len : Nat
  prec : Nat
  deltas : List Nat
  moved : Bool
  two : Bool
  fields : List (Nat × Nat × Nat)
  deriving DecidableEq, Repr

/-- Mode 1 of BC6H. -/
def bc6Row1 : Bc6Mode :=
  { code := 0, len := 2, prec := 10, deltas := [5, 5, 5], moved := true, two := true
    fields :=
      [(7, 4, 1), (8, 4, 1), (11, 4, 1), (0, 0, 10), (1, 0, 10), (2, 0, 10), (3, 0, 5), (10, 4, 1), (7, 0, 4), (4, 0, 5), (11, 0, 1), (10, 0, 4),
      (5, 0, 5), (11, 1, 1), (8, 0, 4), (6, 0, 5), (11, 2, 1), (9, 0, 5), (11, 3, 1)] }

/-- Mode 2 of BC6H. -/
def bc6Row2 : Bc6Mode :=
  { code := 1, len := 2, prec := 7, deltas := [6, 6, 6], moved := true, two := true
    fields :=
      [(7, 5, 1), (10, 4, 1), (10, 5, 1), (0, 0, 7), (11, 0, 1), (11, 1, 1), (8, 4, 1), (1, 0, 7), (8, 5, 1), (11, 2, 1), (7, 4, 1), (2, 0, 7),
      (11, 3, 1), (11, 5, 1), (11, 4, 1), (3, 0, 6), (7, 0, 4), (4, 0, 6), (10, 0, 4), (5, 0, 6), (8, 0, 4), (6, 0, 6), (9, 0, 6)] }

/-- Mode 3 of BC6H. -/
def bc6Row3 : Bc6Mode :=
  { code := 2, len := 5, prec := 11, deltas := [5, 4, 4], moved := true, two := true
    fields :=
      [(0, 0, 10), (1, 0, 10), (2, 0, 10), (3, 0, 5), (0, 10, 1), (7, 0, 4), (4, 0, 4), (1, 10, 1), (11, 0, 1), (10, 0, 4), (5, 0, 4), (2, 10, 1),
      (11, 1, 1), (8, 0, 4), (6, 0, 5), (11, 2, 1), (9, 0, 5), (11, 3, 1)] }

/-- Mode 4 of BC6H. -/
def bc6Row4 : Bc6Mode :=
  { code := 6, len := 5, prec := 11, deltas := [4, 5, 4], moved := true, two := true
    fields :=
      [(0, 0, 10), (1, 0, 10), (2, 0, 10), (3, 0, 4), (0, 10, 1), (10, 4, 1), (7, 0, 4), (4, 0, 5), (1, 10, 1), (10, 0, 4), (5, 0, 4), (2, 10, 1),
      (11, 1, 1), (8, 0, 4), (6, 0, 4), (11, 0, 1), (11, 2, 1), (9, 0, 4), (7, 4, 1), (11, 3, 1)] }

/-- Mode 5 of BC6H. -/
def bc6Row5 : Bc6Mode :=
  { code := 10, len := 5, prec := 11, deltas := [4, 4, 5], moved := true, two := true
    fields :=
      [(0, 0, 10), (1, 0, 10), (2, 0, 10), (3, 0, 4), (0, 10, 1), (8, 4, 1), (7, 0, 4), (4, 0, 4), (1, 10, 1), (11, 0, 1), (10, 0, 4), (5, 0, 5),
      (2, 10, 1), (8, 0, 4), (6, 0, 4), (11, 1, 1), (11, 2, 1), (9, 0, 4), (11, 4, 1), (11, 3, 1)] }

/-- Mode 6 of BC6H. -/
def bc6Row6 : Bc6Mode :=
  { code := 14, len := 5, prec := 9, deltas := [5, 5, 5], moved := true, two := true
    fields :=
      [(0, 0, 9), (8, 4, 1), (1, 0, 9), (7, 4, 1), (2, 0, 9), (11, 4, 1), (3, 0, 5), (10, 4, 1), (7, 0, 4), (4, 0, 5), (11, 0, 1), (10, 0, 4),
      (5, 0, 5), (11, 1, 1), (8, 0, 4), (6, 0, 5), (11, 2, 1), (9, 0, 5), (11, 3, 1)] }

/-- Mode 7 of BC6H. -/
def bc6Row7 : Bc6Mode :=
  { code := 18, len := 5, prec := 8, deltas := [6, 5, 5], moved := true, two := true
    fields :=
      [(0, 0, 8), (10, 4, 1), (8, 4, 1), (1, 0, 8), (11, 2, 1), (7, 4, 1), (2, 0, 8), (11, 3, 1), (11, 4, 1), (3, 0, 6), (7, 0, 4), (4, 0, 5),
      (11, 0, 1), (10, 0, 4), (5, 0, 5), (11, 1, 1), (8, 0, 4), (6, 0, 6), (9, 0, 6)] }

/-- Mode 8 of BC6H. -/
def bc6Row8 : Bc6Mode :=
  { code := 22, len := 5, prec := 8, deltas := [5, 6, 5], moved := true, two := true
    fields :=
      [(0, 0, 8), (11, 0, 1), (8, 4, 1), (1, 0, 8), (7, 5, 1), (7, 4, 1), (2, 0, 8), (10, 5, 1), (11, 4, 1), (3, 0, 5), (10, 4, 1), (7, 0, 4),
      (4, 0, 6), (10, 0, 4), (5, 0, 5), (11, 1, 1), (8, 0, 4), (6, 0, 5), (11, 2, 1), (9, 0, 5), (11, 3, 1)] }

/-- Mode 9 of BC6H. -/
def bc6Row9 : Bc6Mode :=
  { code := 26, len := 5, prec := 8, deltas := [5, 5, 6], moved := true, two := true
    fields :=
      [(0, 0, 8), (11, 1, 1), (8, 4, 1), (1, 0, 8), (8, 5, 1), (7, 4, 1), (2, 0, 8), (11, 5, 1), (11, 4, 1), (3, 0, 5), (10, 4, 1), (7, 0, 4),
      (4, 0, 5), (11, 0, 1), (10, 0, 4), (5, 0, 6), (8, 0, 4), (6, 0, 5), (11, 2, 1), (9, 0, 5), (11, 3, 1)] }

/-- Mode 10 of BC6H. -/
def bc6Row10 : Bc6Mode :=
  { code := 30, len := 5, prec := 6, deltas := [6, 6, 6], moved := false, two := true
    fields :=
      [(0, 0, 6), (10, 4, 1), (11, 0, 1), (11, 1, 1), (8, 4, 1), (1, 0, 6), (7, 5, 1), (8, 5, 1), (11, 2, 1), (7, 4, 1), (2, 0, 6), (10, 5, 1),
      (11, 3, 1), (11, 5, 1), (11, 4, 1), (3, 0, 6), (7, 0, 4), (4, 0, 6), (10, 0, 4), (5, 0, 6), (8, 0, 4), (6, 0, 6), (9, 0, 6)] }

/-- Mode 11 of BC6H. -/
def bc6Row11 : Bc6Mode :=
  { code := 3, len := 5, prec := 10, deltas := [10, 10, 10], moved := false, two := false
    fields :=
      [(0, 0, 10), (1, 0, 10), (2, 0, 10), (3, 0, 10), (4, 0, 10), (5, 0, 10)] }

/-- Mode 12 of BC6H. -/
def bc6Row12 : Bc6Mode :=
  { code := 7, len := 5, prec := 11, deltas := [9, 9, 9], moved := true, two := false
    fields :=
      [(0, 0, 10), (1, 0, 10), (2, 0, 10), (3, 0, 9), (0, 10, 1), (4, 0, 9), (1, 10, 1), (5, 0, 9), (2, 10, 1)] }

/-- Mode 13 of BC6H. -/
def bc6Row13 : Bc6Mode :=
  { code := 11, len := 5, prec := 12, deltas := [8, 8, 8], moved := true, two := false
    fields :=
      [(0, 0, 10), (1, 0, 10), (2, 0, 10), (3, 0, 8), (0, 11, 1), (0, 10, 1), (4, 0, 8), (1, 11, 1), (1, 10, 1), (5, 0, 8), (2, 11, 1), (2, 10, 1)] }

/-- Mode 14 of BC6H. -/
def bc6Row14 : Bc6Mode :=
  { code := 15, len := 5, prec := 16, deltas := [4, 4, 4], moved := true, two := false
    fields :=
      [(0, 0, 10), (1, 0, 10), (2, 0, 10), (3, 0, 4), (0, 15, 1), (0, 14, 1), (0, 13, 1), (0, 12, 1), (0, 11, 1), (0, 10, 1), (4, 0, 4), (1, 15, 1),
      (1, 14, 1), (1, 13, 1), (1, 12, 1), (1, 11, 1), (1, 10, 1), (5, 0, 4), (2, 15, 1), (2, 14, 1), (2, 13, 1), (2, 12, 1), (2, 11, 1), (2, 10, 1)] }

def bc6Modes : List Bc6Mode :=
  [bc6Row1, bc6Row2, bc6Row3, bc6Row4, bc6Row5, bc6Row6, bc6Row7, bc6Row8, bc6Row9, bc6Row10, bc6Row11, bc6Row12, bc6Row13, bc6Row14]

/-- A component, collected from the fields in order. -/
def Bc6Mode.component (m : Bc6Mode) (n c : Nat) : Nat :=
  (m.fields.foldl (fun (q : Nat × Nat) f => (q.1 + f.2.2, if f.1 = c then q.2 + bitsAt n q.1 f.2.2 * 2 ^ f.2.1 else q.2)) (m.len, 0)).2

/-- Endpoint `e` of channel `ch` as 16 bits: a difference is added to the first endpoint and wraps. -/
def Bc6Mode.endpoint (m : Bc6Mode) (n e ch : Nat) : Nat :=
  let w := m.component n ch
  let x := m.component n (3 * e + ch)
  let b := m.deltas.getD ch 0
  let v := if e = 0 ∨ !m.moved then x else (w + x + (if 2 ^ (b - 1) ≤ x then 2 ^ m.prec - 2 ^ b else 0)) % 2 ^ m.prec
  if 15 ≤ m.prec then v
  else if v = 0 then 0
  else if v = 2 ^ m.prec - 1 then 0xFFFF
  else (v * 65536 + 0x8000) / 2 ^ m.prec

/-- The red, green and blue of a texel of BC6H as f16; a reserved mode is black. -/
def bc6 (n i : Nat) : List Nat :=
  match bc6Modes.find? fun m => bitsAt n 0 m.len = m.code with
  | none => [0, 0, 0]
  | some m =>
    let part := bitsAt n 77 5
    let k := if m.two then indexAt n 82 3 (anchorsOf 2 part) i else indexAt n 65 4 [0] i
    let w := weightOf (if m.two then 3 else 4) k
    let s := if m.two then 2 * subsetOf 2 part i else 0
    (List.range 3).map fun ch => blend64 w (m.endpoint n s ch) (m.endpoint n (s + 1) ch) * 31 / 64

/-! ## ASTC 4×4, LDR profile -/

/-- A quantisation: plain bits, with a trit or a quint above them. -/
inductive Digit where
  | none | trit | quint
  deriving DecidableEq, Repr

/-- The levels of a sequence's values, rising: digit, bits. -/
def quants : List (Digit × Nat) :=
  [(.none, 1), (.trit, 0), (.none, 2), (.quint, 0), (.trit, 1), (.none, 3), (.quint, 1), (.trit, 2), (.none, 4), (.quint, 2), (.trit, 3),
   (.none, 5), (.quint, 3), (.trit, 4), (.none, 6), (.quint, 4), (.trit, 5), (.none, 7), (.quint, 5), (.trit, 6), (.none, 8)]

/-- Bits that `k` values take. -/
def sequenceBits (q : Digit × Nat) (k : Nat) : Nat :=
  k * q.2 +
    match q.1 with
    | .none => 0
    | .trit => (8 * k + 4) / 5
    | .quint => (7 * k + 2) / 3

/-- Five trits from 8 bits. -/
def tritsOf (t : Nat) : List Nat :=
  let b := bitsAt t
  let (c, t4, t3) :=
    if b 2 3 = 7 then (4 * b 5 3 + b 0 2, 2, 2)
    else if b 5 2 = 3 then (b 0 5, 2, b 7 1)
    else (b 0 5, b 7 1, b 5 2)
  let cb := bitsAt c
  let (t2, t1, t0) :=
    if cb 0 2 = 3 then (2, cb 4 1, 2 * cb 3 1 + cb 2 1 * (1 - cb 3 1))
    else if cb 2 2 = 3 then (2, 2, cb 0 2)
    else (cb 4 1, cb 2 2, 2 * cb 1 1 + cb 0 1 * (1 - cb 1 1))
  [t0, t1, t2, t3, t4]

/-- Three quints from 7 bits. -/
def quintsOf (q : Nat) : List Nat :=
  let b := bitsAt q
  if b 1 2 = 3 ∧ b 5 2 = 0 then [4, 4, 4 * b 0 1 + 2 * (b 4 1 * (1 - b 0 1)) + b 3 1 * (1 - b 0 1)]
  else
    let (q2, c) := if b 1 2 = 3 then (4, 8 * b 3 2 + 2 * (3 - b 5 2) + b 0 1) else (b 5 2, b 0 5)
    if c % 8 = 5 then [bitsAt c 3 2, 4, q2] else [c % 8, bitsAt c 3 2, q2]

/-- Where the digit bits stand between the values of a group: how many after each value. -/
def digitBits : Digit → List Nat
  | .none => [0]
  | .trit => [2, 2, 1, 2, 1]
  | .quint => [3, 2, 2]

/-- Value `k` of a sequence in the low `len` bits of `n`: the digit above, the bits below; bits beyond the end are 0. -/
def sequenceAt (n len : Nat) (q : Digit × Nat) (k : Nat) : Nat × Nat :=
  let ds := digitBits q.1
  let g := ds.length
  let group := ds.foldl (· + ·) 0 + g * q.2
  let x := (n % 2 ^ len) / 2 ^ (k / g * group)
  let at_ := fun (j : Nat) => (ds.take j).foldl (· + ·) 0
  let digits := (List.range g).foldl (fun t j => t + bitsAt x ((j + 1) * q.2 + at_ j) (ds.getD j 0) * 2 ^ at_ j) 0
  let digit := match q.1 with
    | .none => 0
    | .trit => (tritsOf digits).getD (k % g) 0
    | .quint => (quintsOf digits).getD (k % g) 0
  (digit, bitsAt x (k % g * q.2 + at_ (k % g)) q.2)

/-- `x` of `bits` bits repeated to fill `wide` bits. -/
def replicateBits (bits wide x : Nat) : Nat :=
  if bits = 0 then 0 else (List.range wide).foldl (fun v i => 2 * v + bitsAt x (bits - 1 - i % bits) 1) 0

/-- Bits of a word in a given order, the first the highest: 0 for a place without a bit. -/
def spell (m : Nat) (ps : List (Option Nat)) : Nat := ps.foldl (fun v p => 2 * v + (p.map fun i => bitsAt m i 1).getD 0) 0

/-- B and C of a colour value's unquantisation. -/
def colourBC (q : Digit × Nat) (m : Nat) : Nat × Nat :=
  let o : Option Nat := none
  let i := fun (k : Nat) => some k
  match q.1, q.2 with
  | .trit, 1 => (0, 204)
  | .quint, 1 => (0, 113)
  | .trit, 2 => (spell m [i 1, o, o, o, i 1, o, i 1, i 1, o], 93)
  | .quint, 2 => (spell m [i 1, o, o, o, o, i 1, i 1, o, o], 54)
  | .trit, 3 => (spell m [i 2, i 1, o, o, o, i 2, i 1, i 2, i 1], 44)
  | .quint, 3 => (spell m [i 2, i 1, o, o, o, o, i 2, i 1, i 2], 26)
  | .trit, 4 => (spell m [i 3, i 2, i 1, o, o, o, i 3, i 2, i 1], 22)
  | .quint, 4 => (spell m [i 3, i 2, i 1, o, o, o, o, i 3, i 2], 13)
  | .trit, 5 => (spell m [i 4, i 3, i 2, i 1, o, o, o, i 4, i 3], 11)
  | .quint, 5 => (spell m [i 4, i 3, i 2, i 1, o, o, o, o, i 4], 6)
  | _, _ => (spell m [i 5, i 4, i 3, i 2, i 1, o, o, o, i 5], 5)

/-- A colour value as 8 bits. -/
def colourValue (q : Digit × Nat) (v : Nat × Nat) : Nat :=
  if q.1 = .none then replicateBits q.2 8 v.2
  else
    let (b, c) := colourBC q v.2
    let a := if v.2 % 2 = 1 then 0x1FF else 0
    (a &&& 0x80) ||| ((v.1 * c + b) ^^^ a) / 4

/-- A weight as 0 to 64. -/
def weightValue (q : Digit × Nat) (v : Nat × Nat) : Nat :=
  let o : Option Nat := none
  let i := fun (k : Nat) => some k
  let w :=
    match q.1, q.2 with
    | .none, k => replicateBits k 6 v.2
    | .trit, 0 => [0, 32, 63].getD v.1 0
    | .quint, 0 => [0, 16, 32, 47, 63].getD v.1 0
    | d, k =>
      let (b, c) := match d, k with
        | .trit, 1 => (0, 50)
        | .quint, 1 => (0, 28)
        | .trit, 2 => (spell v.2 [i 1, o, o, o, i 1, o, i 1], 23)
        | .quint, 2 => (spell v.2 [i 1, o, o, o, o, i 1, o], 13)
        | _, _ => (spell v.2 [i 2, i 1, o, o, o, i 2, i 1], 11)
      let a := if v.2 % 2 = 1 then 0x7F else 0
      (a &&& 0x20) ||| ((v.1 * c + b) ^^^ a) / 4
  if 32 < w then w + 1 else w

/-- A block mode: the grid's width and height, the weights' quantisation, two planes. -/
structure AstcMode where
  w : Nat
  h : Nat
  q : Digit × Nat
  dual : Bool
  deriving DecidableEq, Repr

/-- The block mode of 11 bits; none for a reserved one. -/
def astcMode (m : Nat) : Option AstcMode :=
  let b := bitsAt m
  let low := b 0 2
  let r := b 4 1 + 2 * (if low ≠ 0 then low else b 2 2)
  let narrow := low = 0 ∧ b 7 2 = 2
  let high := if narrow then 0 else b 9 1
  let dual := !decide narrow && b 10 1 == 1
  let size : Option (Nat × Nat) :=
    if low ≠ 0 then
      match b 2 2 with
      | 0 => some (b 7 2 + 4, b 5 2 + 2)
      | 1 => some (b 7 2 + 8, b 5 2 + 2)
      | 2 => some (b 5 2 + 2, b 7 2 + 8)
      | _ => if b 8 1 = 0 then some (b 5 2 + 2, b 7 1 + 6) else some (b 7 1 + 2, b 5 2 + 2)
    else if b 2 2 = 0 then none
    else
      match b 7 2 with
      | 0 => some (12, b 5 2 + 2)
      | 1 => some (b 5 2 + 2, 12)
      | 2 => some (b 5 2 + 6, b 9 2 + 6)
      | _ => if b 5 2 = 0 then some (6, 10) else if b 5 2 = 1 then some (10, 6) else none
  size.map fun s => { w := s.1, h := s.2, q := quants.getD (r - 2 + 6 * high) (.none, 1), dual := dual }

/-- The bits of a block in the reverse order. -/
def reversed128 (n : Nat) : Nat := (List.range 128).foldl (fun v i => 2 * v + bitsAt n i 1) 0

/-- The weight of a texel of a plane: the grid's weights, interpolated. -/
def AstcMode.weight (m : AstcMode) (n i plane : Nat) : Nat :=
  let planes := if m.dual then 2 else 1
  let len := sequenceBits m.q (m.w * m.h * planes)
  let r := reversed128 n
  let p := fun (k : Nat) => if k < m.w * m.h then weightValue m.q (sequenceAt r len m.q (k * planes + plane)) else 0
  let gs := (342 * (i % 4) * (m.w - 1) + 32) / 64
  let gt := (342 * (i / 4) * (m.h - 1) + 32) / 64
  let fs := gs % 16
  let ft := gt % 16
  let k := gs / 16 + gt / 16 * m.w
  let w11 := (fs * ft + 8) / 16
  (p k * (16 + w11 - fs - ft) + p (k + 1) * (fs - w11) + p (k + m.w) * (ft - w11) + p (k + m.w + 1) * w11 + 8) / 16

/-- The hash of a partition's seed. -/
def hash52 (p : BitVec 32) : BitVec 32 :=
  let p := p ^^^ (p >>> 15)
  let p := p - (p <<< 17)
  let p := p + (p <<< 7)
  let p := p + (p <<< 4)
  let p := p ^^^ (p >>> 5)
  let p := p + (p <<< 16)
  let p := p ^^^ (p >>> 7)
  let p := p ^^^ (p >>> 3)
  let p := p ^^^ (p <<< 6)
  p ^^^ (p >>> 17)

/-- The subset of a texel of a small block among `count` subsets. -/
def astcSubset (seed count i : Nat) : Nat :=
  if count = 1 then 0
  else
    let x := 2 * (i % 4)
    let y := 2 * (i / 4)
    let r := (hash52 (BitVec.ofNat 32 (seed + (count - 1) * 1024))).toNat
    let a := if bitsAt seed 1 1 = 1 then 4 else 5
    let b := if count = 3 then 6 else 5
    let (s1, s2) := if seed % 2 = 1 then (a, b) else (b, a)
    let sq := fun (k sh : Nat) => bitsAt r (4 * k) 4 ^ 2 / 2 ^ sh
    let sum := fun (k drop : Nat) => (sq k s1 * x + sq (k + 1) s2 * y + r / 2 ^ drop) % 64
    let p := sum 0 14
    let q := sum 2 10
    let c := if count < 3 then 0 else sum 4 6
    let d := if count < 4 then 0 else sum 6 2
    if q ≤ p ∧ c ≤ p ∧ d ≤ p then 0 else if c ≤ q ∧ d ≤ q then 1 else if d ≤ c then 2 else 3

/-- A number limited to 8 bits. -/
def clamp8 (x : Int) : Nat := (max 0 (min 255 x)).toNat

/-- A pair of an offset and a base: the base takes the offset's top bit, and the offset has 6 bits with a sign. -/
def transfer (off base : Nat) : Int × Int :=
  let b := base / 2 + off / 128 * 128
  let a := off / 2 % 64
  (if 32 ≤ a then (a : Int) - 64 else a, b)

/-- Blue contraction. -/
def contract (r g b a : Int) : List Int := [(r + b) / 2, (g + b) / 2, b, a]

/-- The two colours of an endpoint mode from its values; none for a mode of the HDR profile. -/
def endpoints (mode : Nat) (v : Nat → Nat) : Option (List Nat × List Nat) :=
  let z := fun (k : Nat) => (v k : Int)
  let fin := fun (a b : List Int) => some (a.map clamp8, b.map clamp8)
  let direct := fun (a0 a1 : Int) =>
    if z 0 + z 2 + z 4 ≤ z 1 + z 3 + z 5 then fin [z 0, z 2, z 4, a0] [z 1, z 3, z 5, a1]
    else fin (contract (z 1) (z 3) (z 5) a1) (contract (z 0) (z 2) (z 4) a0)
  let offset := fun (a0 a1 : Int) =>
    let (o1, b0) := transfer (v 1) (v 0)
    let (o3, b2) := transfer (v 3) (v 2)
    let (o5, b4) := transfer (v 5) (v 4)
    if 0 ≤ o1 + o3 + o5 then fin [b0, b2, b4, a0] [b0 + o1, b2 + o3, b4 + o5, a1]
    else fin (contract (b0 + o1) (b2 + o3) (b4 + o5) a1) (contract b0 b2 b4 a0)
  let scaled := fun (a0 a1 : Int) => fin [z 0 * z 3 / 256, z 1 * z 3 / 256, z 2 * z 3 / 256, a0] [z 0, z 1, z 2, a1]
  match mode with
  | 0 => fin [z 0, z 0, z 0, 255] [z 1, z 1, z 1, 255]
  | 1 =>
    let l0 : Int := (v 0 / 4 + v 1 / 64 * 64 : Nat)
    let l1 : Int := l0 + (v 1 % 64 : Nat)
    fin [l0, l0, l0, 255] [l1, l1, l1, 255]
  | 4 => fin [z 0, z 0, z 0, z 2] [z 1, z 1, z 1, z 3]
  | 5 =>
    let (o1, b0) := transfer (v 1) (v 0)
    let (o3, b2) := transfer (v 3) (v 2)
    fin [b0, b0, b0, b2] [b0 + o1, b0 + o1, b0 + o1, b2 + o3]
  | 6 => scaled 255 255
  | 8 => direct 255 255
  | 9 => offset 255 255
  | 10 => scaled (z 4) (z 5)
  | 12 => direct (z 6) (z 7)
  | 13 =>
    let (o7, b6) := transfer (v 7) (v 6)
    offset b6 (b6 + o7)
  | _ => none

/-- The error colour of the LDR profile: opaque magenta. -/
def magenta : List Chan := [chan1, chan0, chan1, chan1]

/-- A channel of 16 bits as the decoder gives it: the top 8 bits under sRGB; else 1 for 65535, and the value in 65536ths cut to the 11 bits of
an f16. -/
def astcChannel (srgb : Bool) (x : Nat) : Chan :=
  if srgb then unorm 8 (x / 256)
  else if x = 65535 then chan1
  else
    let k := Nat.log2 x - 10
    (x / 2 ^ k * 2 ^ k, 65536)

/-- A void-extent block: one colour; an HDR one, or one whose extents are wrong, is an error. -/
def voidExtent (srgb : Bool) (n : Nat) : List Chan :=
  let ext := (List.range 4).map fun k => bitsAt n (12 + 13 * k) 13
  let e := fun (k : Nat) => ext.getD k 0
  if bitsAt n 9 1 = 1 ∨ bitsAt n 10 2 ≠ 3 ∨ (ext.any (· != 8191) && (decide (e 1 ≤ e 0) || decide (e 3 ≤ e 2))) then magenta
  else (List.range 4).map fun ch => astcChannel srgb (bitsAt n (64 + 16 * ch) 16)

/-- The endpoint modes of the subsets, and the bits that they take right below the weights. -/
def astcModes (n count weightBits : Nat) : List Nat × Nat :=
  if count = 1 then ([bitsAt n 13 4], 0)
  else
    let low := bitsAt n 23 2
    if low = 0 then (List.replicate count (bitsAt n 25 4), 0)
    else
      let extra := 3 * count - 4
      let x := bitsAt n 25 4 + 16 * bitsAt n (128 - weightBits - extra) extra
      ((List.range count).map fun k => 4 * (low - 1 + bitsAt x k 1) + bitsAt x (count + 2 * k) 2, extra)

/-- The quantisation of the colour values: the finest one that fits. -/
def colourQuant (values bits : Nat) : Option (Digit × Nat) :=
  ((quants.drop 4).filter fun q => decide (sequenceBits q values ≤ bits)).getLast?

/-- A texel of an ASTC block of 4×4 texels. -/
def astc (srgb : Bool) (n i : Nat) : List Chan :=
  if bitsAt n 0 9 = 0x1FC then voidExtent srgb n
  else
    match astcMode (bitsAt n 0 11) with
    | none => magenta
    | some m =>
      let weights := m.w * m.h * (if m.dual then 2 else 1)
      let wbits := sequenceBits m.q weights
      let count := bitsAt n 11 2 + 1
      let (modes, extra) := astcModes n count wbits
      let values := (modes.map fun c => 2 * (c / 4 + 1)).foldl (· + ·) 0
      let start := if count = 1 then 17 else 29
      let below := 128 - wbits - extra - if m.dual then 2 else 0
      if 4 < m.w ∨ 4 < m.h ∨ 64 < weights ∨ wbits < 24 ∨ 96 < wbits ∨ (m.dual ∧ count = 4) ∨ 18 < values ∨ below < start then magenta
      else
        match colourQuant values (below - start) with
        | none => magenta
        | some q =>
          let s := astcSubset (if count = 1 then 0 else bitsAt n 13 10) count i
          let first := ((modes.take s).map fun c => 2 * (c / 4 + 1)).foldl (· + ·) 0
          let v := fun (k : Nat) => colourValue q (sequenceAt (n / 2 ^ start) (below - start) q (first + k))
          match endpoints (modes.getD s 0) v with
          | none => magenta
          | some (e0, e1) =>
            let second := if m.dual then some (bitsAt n below 2) else none
            (List.range 4).map fun ch =>
              let w := m.weight n i (if second = some ch then 1 else 0)
              let wide := fun (x : Nat) => 256 * x + if srgb && decide (ch < 3) then 0x80 else x
              astcChannel srgb (blend64 w (wide (e0.getD ch 0)) (wide (e1.getD ch 0)))

end Sys2Proof.Machine
end

