-- ==== Sys2Proof/Machine/Texture.lean ====
section
/-! DEFINITION. RTEX (15 R343, R344): textures filtered over a ray's footprint, every step f32 with nearest even. -/

namespace Sys2Proof.Machine

/-! ## Square roots and fifth roots, correctly rounded -/

/-- The square root of the sum of two squares, rounded once. -/
def hypotF (a b : Word32) : Word32 :=
  if !finiteF a || !finiteF b then (if nanF a || nanF b then 0x7FC00000 else f32Inf)
  else
    let n := ((fixed a) ^ 2 + (fixed b) ^ 2).toNat * 2 ^ 128
    let r := rootFrom n 345 0
    BitVec.ofNat 32 (fmtF32.roundFin 0 0 false false false r (-213) (decide (r * r ≠ n)))

/-- The largest r with r^5 · d ≤ n, from a partial root, bit by bit. -/
def root5 (n d : Nat) : Nat → Nat → Nat
  | 0, r => r
  | k + 1, r => root5 n d k (if (r + 2 ^ k) ^ 5 * d ≤ n then r + 2 ^ k else r)

/-- The transfer function of IEC 61966-2-1 on [0, 1], correctly rounded: c / 12.92 up to 0.04045, else ((c + 0.055) / 1.055)^2.4. -/
def srgbF (c : Word32) : Word32 :=
  let x := (fixed c).toNat
  if x * 100000 ≤ 4045 * 2 ^ 149 then BitVec.ofNat 32 (fmtF32.ofFrac 0 ((x * 100 : Nat), 1292 * 2 ^ 149))
  else
    let num := (200 * x + 11 * 2 ^ 149) ^ 12 * 2 ^ 500
    let den := (211 * 2 ^ 149) ^ 12
    let r := root5 num den 102 0
    BitVec.ofNat 32 (fmtF32.roundFin 0 0 false false false r (-100) (decide (r ^ 5 * den ≠ num)))

/-- A fraction rounded to f32. -/
def divRoundF (p : Chan) : Word32 := BitVec.ofNat 32 (fmtF32.ofFrac 0 ((p.1 : Int), p.2))

/-! ## Descriptors and texels (R343) -/

/-- A texture descriptor. -/
structure Tex where
  base : Word64
  width : Nat
  height : Nat
  levels : Nat
  fmt : Nat
  addrU : Nat
  addrV : Nat
  srgb : Bool
  bias : Word32
  aniso : Nat
  deriving DecidableEq, Repr

/-- Read a descriptor; none when it is malformed. -/
def texOf (bs : List Byte) : Option Tex :=
  let addr := fieldOf bs 0x0E 1
  let flags := fieldOf bs 0x0F 1
  let t : Tex := { base := BitVec.ofNat 64 (fieldOf bs 0 8), width := fieldOf bs 8 2, height := fieldOf bs 0x0A 2, levels := fieldOf bs 0x0C 1
                   fmt := fieldOf bs 0x0D 1, addrU := addr % 4, addrV := addr / 4 % 4, srgb := flags.testBit 0, bias := f32At bs 0x10
                   aniso := fieldOf bs 0x14 1 }
  let size := decide (1 ≤ t.width) && decide (t.width ≤ 16384) && decide (1 ≤ t.height) && decide (t.height ≤ 16384)
  let srgbOk := decide (flags < 2) && (!t.srgb || [0, 2, 3, 4, 8, 9].contains t.fmt)
  if size && decide (t.base.toNat % 256 = 0) && decide (1 ≤ t.levels) && decide (t.levels ≤ 1 + Nat.log2 (max t.width t.height)) &&
      decide (t.fmt ≤ 9) && decide (addr < 16) && t.addrU != 3 && t.addrV != 3 && srgbOk && decide (1 ≤ t.aniso) &&
      decide (t.aniso ≤ 16) && zeroAt bs 0x15 43 then some t
  else none

def Tex.w (t : Tex) (k : Nat) : Nat := max 1 (t.width / 2 ^ k)
def Tex.h (t : Tex) (k : Nat) : Nat := max 1 (t.height / 2 ^ k)

/-- Texels of a block's side, and its bytes. -/
def Tex.side (t : Tex) : Nat := if t.fmt < 2 then 1 else 4
def Tex.blockBytes (t : Tex) : Nat := if t.fmt = 0 then 4 else if t.fmt = 1 ∨ t.fmt = 2 ∨ t.fmt = 5 then 8 else 16

/-- Blocks of a row of level k, and the bytes of the level. -/
def Tex.pitch (t : Tex) (k : Nat) : Nat := (t.w k + t.side - 1) / t.side
def Tex.levelBytes (t : Tex) (k : Nat) : Nat := t.pitch k * ((t.h k + t.side - 1) / t.side) * t.blockBytes

/-- Where level k begins, from the base. -/
def Tex.levelAt (t : Tex) : Nat → Nat
  | 0 => 0
  | k + 1 => (t.levelAt k + t.levelBytes k + 255) / 256 * 256

/-- A texel of a block of the formats whose channels are fractions: BC1 to BC5, BC7, ASTC. A channel that a format lacks is 0, alpha 1. -/
def Tex.fractions (t : Tex) (n i : Nat) : List Chan :=
  match t.fmt with
  | 2 => colourBlock false n 0 i
  | 3 => (colourBlock true n 64 i).take 3 ++ [unorm 4 (bitsAt n (4 * i) 4)]
  | 4 => (colourBlock true n 64 i).take 3 ++ [channelBlock n 0 i]
  | 5 => [channelBlock n 0 i, chan0, chan0, chan1]
  | 6 => [channelBlock n 0 i, channelBlock n 64 i, chan0, chan1]
  | 8 => bc7 n i
  | _ => astc t.srgb n i

/-- A texel of a block, as four channels of f32: a fraction is rounded, and a colour under sRGB goes through the transfer function. -/
def Tex.decode (t : Tex) (block : List Byte) (x y : Nat) : List Word32 :=
  let n := natOfBytes block
  let i := 4 * y + x
  let colour := fun (p : Chan × Nat) =>
    let c := divRoundF p.1
    if t.srgb && decide (p.2 < 3) then srgbF c else c
  match t.fmt with
  | 0 => ((List.range 4).map fun ch => colour (unorm 8 (fieldOf block ch 1), ch))
  | 1 => (List.range 4).map fun ch => f16F (fieldOf block (2 * ch) 2)
  | 7 => (bc6 n i).map f16F ++ [f32One]
  | _ => (t.fractions n i).zipIdx.map colour

/-- A coordinate under an addressing mode: wrap, clamp, mirror. -/
def addressTexel (mode n : Nat) (i : Int) : Nat :=
  match mode with
  | 0 => (i % n).toNat
  | 1 => (max 0 (min ((n : Int) - 1) i)).toNat
  | _ =>
    let m := (i % (2 * n : Nat)).toNat
    if m < n then m else 2 * n - 1 - m

/-- One texel of a level. -/
def Tex.texel (t : Tex) (c : Cmd) (k : Nat) (i j : Int) : Eng (List Word32) := do
  let x := addressTexel t.addrU (t.w k) i
  let y := addressTexel t.addrV (t.h k) j
  let n := y / t.side * t.pitch k + x / t.side
  let bs ← readRay c (t.base + BitVec.ofNat 64 (t.levelAt k + n * t.blockBytes)) t.blockBytes
  pure (t.decode bs (x % t.side) (y % t.side))

/-! ## Filtering (R344) -/

/-- (1 − w) · a + w · b, channel by channel. -/
def lerpF (w : Word32) (a b : List Word32) : List Word32 :=
  (a.zip b).map fun p => addF (mulF (subF f32One w) p.1) (mulF w p.2)

/-- 2^-k as f32. -/
def scaleDown (k : Nat) : Word32 := BitVec.ofNat 32 (codePow (-(k : Int)))

/-- bilinear(k, q). -/
def Tex.bilinear (t : Tex) (c : Cmd) (k : Nat) (q : Word32 × Word32) : Eng (List Word32) := do
  let half : Word32 := 0x3F000000
  let x := subF (mulF q.1 (scaleDown k)) half
  let y := subF (mulF q.2 (scaleDown k)) half
  let i := floorScaled x 0
  let j := floorScaled y 0
  let wx := subF x (intF i)
  let wy := subF y (intF j)
  let a ← t.texel c k i j
  let b ← t.texel c k (i + 1) j
  let d ← t.texel c k i (j + 1)
  let e ← t.texel c k (i + 1) (j + 1)
  pure (lerpF wy (lerpF wx a b) (lerpF wx d e))

/-- The larger of two numbers; a NaN loses. -/
def maxF (a b : Word32) : Word32 := if nanF a then b else if nanF b then a else if ltF a b then b else a

/-- 2^-24. -/
def tinyF : Word32 := 0x33800000

/-- The axes of a footprint: a and b. A NaN or negative input makes the footprint 0. -/
def Footprint.axes (p : Footprint) (t : Tex) : (Word32 × Word32) × (Word32 × Word32) :=
  let x := fun k => p.xs.getD k 0
  let w := intF t.width
  let h := intF t.height
  if p.xs.any fun v => nanF v || ltF v f32Zero then ((f32Zero, f32Zero), (f32Zero, f32Zero))
  else if p.diff then ((mulF (x 0) w, mulF (x 1) h), (mulF (x 2) w, mulF (x 3) h))
  else
    let d := mulF (fmaF (x 1) (x 2) (x 0)) (x 3)
    ((mulF d w, f32Zero), (f32Zero, mulF d h))

/-- The least integer not below a finite f32. -/
def ceilF (a : Word32) : Int := -((-fixed a) / 2 ^ 149)

/-- What a footprint gathers: taps, level and weight. -/
structure Plan where
  n : Nat
  axis : Word32 × Word32
  l0 : Nat
  l1 : Nat
  f : Word32
  deriving DecidableEq, Repr

/-- The taps and the level of detail; none where the rule's steps come to a NaN. An infinite ratio gives MAXANISO taps. -/
def Footprint.plan (p : Footprint) (t : Tex) : Option Plan :=
  let (a, b) := p.axes t
  let la := hypotF a.1 a.2
  let lb := hypotF b.1 b.2
  let (maj, ax, mnr) := if ltF la lb then (lb, b, la) else (la, a, lb)
  let ratio := divF maj (maxF mnr tinyF)
  if nanF ratio then none
  else
    let n := if finiteF ratio then (min (t.aniso : Int) (max 1 (ceilF ratio))).toNat else t.aniso
    let arg := maxF (maxF mnr (divF maj (intF n))) tinyF
    let lam := addF (BitVec.ofNat 32 (special 4 (f32 arg) arg)) t.bias
    if nanF lam then none
    else
      let top := intF (t.levels - 1 : Nat)
      let l := if ltF lam f32Zero then f32Zero else if ltF top lam then top else lam
      let l0 := (floorScaled l 0).toNat
      some { n := n, axis := ax, l0 := l0, l1 := min (l0 + 1) (t.levels - 1), f := subF l (intF l0) }

/-- The centre of tap i. -/
def Footprint.tapAt (p : Footprint) (t : Tex) (x : Plan) (i : Nat) : Word32 × Word32 :=
  let k := divF (intF (2 * i + 1 - x.n)) (intF (2 * x.n : Nat))
  (addF (mulF (p.uv.getD 0 0) (intF t.width)) (mulF k x.axis.1), addF (mulF (p.uv.getD 1 0) (intF t.height)) (mulF k x.axis.2))

/-- The value where the rule's arithmetic leaves the numbers: free, one for each footprint and channel (log 12); a NaN is the canonical
one (04 R74). -/
def Footprint.open_ (p : Footprint) : List Word32 :=
  (List.range 4).map fun ch =>
    let w := Config.footprint (p.uv ++ p.xs) ch
    if nanF w then 0x7FC00000 else w

/-- Sum the taps. -/
def Footprint.gather (p : Footprint) (t : Tex) (x : Plan) : Eng (List Word32) :=
  (List.range x.n).foldlM
    (fun sum i => do
      let q := p.tapAt t x i
      let a ← t.bilinear p.cmd x.l0 q
      let b ← t.bilinear p.cmd x.l1 q
      pure ((sum.zip (lerpF x.f a b)).map fun v => addF v.1 (divF v.2 (intF x.n)))) (List.replicate 4 f32Zero)

/-- What a footprint's work comes to. -/
inductive Shade where
  | value (xs : List Word32)
  | malformed
  deriving DecidableEq, Repr

/-- Filter one footprint. -/
def Footprint.shade (p : Footprint) : Eng Shade := do
  let desc := p.cmd.regs.getD 0 0
  let bs ← readRay p.cmd desc 64
  match texOf bs with
  | none => pure .malformed
  | some t =>
    if desc.toNat % 64 ≠ 0 then pure .malformed
    else if p.uv.any fun v => !finiteF v then pure (.value (List.replicate 4 f32Zero))
    else
      match p.plan t with
      | none => pure (.value p.open_)
      | some x =>
        if (List.range x.n).any fun i => !finiteF (p.tapAt t x i).1 || !finiteF (p.tapAt t x i).2 then pure (.value p.open_)
        else do
          let v ← p.gather t x
          pure (.value v)

/-- Write a footprint's result, a join of span C (R345). -/
def State.shaded (s : State) (p : Footprint) (xs : List Word32) (tag : Bool) : State :=
  let s1 := (s.reconcileDest p.cmd.core 1).deliverLanes p.cmd p.word p.k p.rings (xs.map fun w => ⟨w, tag⟩)
  { s1 with footprints := s1.footprints.filter fun q => q.id != p.id }

/-- The move of a footprint. What it cannot read gives 0 with the tags set (R344). A fenced engine begins none (21 R445); one that a fault
has stopped goes on. -/
def State.moveFootprint (s : State) (p : Footprint) : State :=
  let zeros := List.replicate 4 f32Zero
  if s.engineWaits (.ray p.id) || (!p.begun && s.fenced p.cmd.part 2 p.cmd.core) then s
  else if p.dead then s.shaded p zeros true
  else
    match s.run p.shade with
    | (.ok (.value xs), s1, false) => s1.shaded p xs p.tagged
    | (.ok .malformed, s1, false) => s1.shaded p zeros true
    | (.ok _, s1, true) => (s1.consume p.cmd.ctx chkRay).shaded p zeros true
    | (.error (.fault x), s1, _) =>
      ({ s1 with footprints := updFirst (fun q => q.id == p.id) (fun q => { q with begun := true }) s1.footprints }.addFault x (.ray p.id)).2
    | (.error _, s1, _) => s1.shaded p zeros true

/-- RTEX (R344). -/
def execRtex (o : Wide) (s : State) : Out :=
  runWord (.rtex o) s fun g s =>
    let c := s.rctx g
    let ops := g.laneOps c o.pm
    match (g.activeSlices c o.pm).findSome? (baseTrap c o.ss) with
    | some t => .next (s.trapped g t)
    | none =>
      let s1 := if ops.isEmpty then s else (s.edgeSource g 1).reconcileDest g.core 1
      let new := fun (id : Nat) (sl : Slice) (k : Nat) =>
        let uv := sl.blockV c (vblock o.va 2) k
        let x := sl.blockV c (vblock o.vb 2) k
        let y := sl.blockV c (vblock o.vc 2) k
        ({ id := id, cmd := { g.command sl .tex false o [(sl.readS c o.ss).v] with id := id }, k := k, word := c.word
           rings := sl.ringsOf c.lregs (vblock o.vd 4), diff := o.fn.getLsbD 0, uv := uv.1, xs := x.1 ++ y.1
           tagged := uv.2 || x.2 || y.2, dead := false, begun := false } : Footprint)
      let s2 := ops.foldl (fun s p => { s with footprints := s.footprints ++ [new s.nextId p.1 p.2], nextId := s.nextId + 1 }) s1
      .next (s2.wordDone ((s2.cur.getD g).mapSlices fun sl =>
        ((lanesOf (sl.act c o.pm)).foldl (fun sl k => sl.expectV c (vblock o.vd 4) k) sl).advance 12 true))

/-! ## Moves of a ray engine -/

/-- One move of a ray, a march or a footprint, or the start of a queued march. -/
def State.moveRayUnit (s : State) (id : Nat) : State :=
  match s.ray? id with
  | some r => if s.ctxSaved r.cmd.ctx then s else s.moveRay r
  | none =>
    match s.marches.find? fun m => m.cmd.id == id with
    | some m => if s.ctxSaved m.cmd.ctx then s else s.moveMarch m
    | none =>
      match s.footprints.find? fun p => p.id == id with
      | some p => s.moveFootprint p
      | none =>
        match s.cmds.find? fun c => c.id == id && c.op == .march with
        | some c => s.beginMarch c
        | none => s

/-! ## Pre-emption of a gang that waits on rays (R336) -/

/-- The words of a strand's rays and unguarded marches that are in flight. -/
def State.rayWordsOf (s : State) (sid : Nat) : List Nat :=
  (s.rays.filter fun r => r.cmd.sid == sid && !r.spilled).map Ray.word ++
    (s.marches.filter fun m => m.cmd.sid == sid && !m.rings.isEmpty && !m.spilled).map March.word ++
    (s.cmds.filter fun c => c.op == .march && c.sid == sid).map Cmd.marchWord

/-- The gang waits only on results of RTRACE or of an unguarded RMARCH. -/
def State.waitsOnRays (s : State) (g : Gang) : Bool :=
  !g.framed && g.outstanding s.cycle && (g.waiting || g.park == .settle) &&
    g.slices.all fun sl => sl.pending.all fun p => !p.live s.cycle || (p.engine && (s.rayWordsOf sl.sid).contains p.n)

/-- The words on which a gang waits. -/
def Gang.waitWords (g : Gang) (now : Nat) : List Nat := g.slices.flatMap fun sl => (sl.pending.filter (Pending.live now)).map Pending.n

/-- A translation fault on a save slot of the gang's rays is in service (R339): the pre-emption waits for it. -/
def State.slotFaulted (s : State) (g : Gang) : Bool :=
  let on := fun (id slotAt : Nat) => s.faults.any fun f => f.units.contains (.ray id) && f.va / 4096 == slotAt / 4096 && f.ctx == g.ctx
  s.rays.any (fun r => g.sids.contains r.cmd.sid && on r.id r.slotAt) ||
    s.marches.any fun m => g.sids.contains m.cmd.sid && m.lanes.any fun l => on m.cmd.id l.slotAt

/-- Write rays to their slots, whole; the Bool tells that all are written. -/
def State.spillRays (s : State) : List Ray → Bool × State
  | [] => (true, s)
  | r :: rs =>
    match s.writeSlot r.cmd r.slot r.stateCode slotBytes with
    | (.ok _, s1) => (s1.setRay r).spillRays rs
    | (.error (.fault x), s1) => (false, (s1.addFault x (.ray r.id)).2)
    | (.error (.stop a), s1) => ((s1.poisonRay r 3 a).setRay { r.finish 4 3 with spilled := true }).spillRays rs
    | (.error .wait, s1) => (false, s1)

/-- Save marches in their slots. -/
def State.spillMarches (s : State) : List March → Bool × State
  | [] => (true, s)
  | m :: ms =>
    match s.marchSlots m (fun l => if l.over_.isSome then 4 else 3) slotBytes m.lanes with
    | (true, s1) => s1.spillMarches ms
    | q => q

/-- Stop the rays and marches of a gang's outstanding words at a node or record boundary, and save them (R336). A ray that has
stopped or ended in one of these words keeps its record to be returned once more. The Bool tells that all is saved; else a slot waits for
the service of a fault, and the rays run on till then. -/
def State.saveRays (s : State) (g : Gang) : Bool × State :=
  let words := g.waitWords s.cycle
  let mine := fun (sid word : Nat) => g.sids.contains sid && words.contains word
  let s1 : State :=
    { s with rays := s.rays.filter fun (r : Ray) => !(mine r.cmd.sid r.word && (r.phase == .fresh || r.phase == .refused))
             cmds := s.cmds.filter fun (c : Cmd) => !(c.op == .march && mine c.sid c.marchWord) }
  let hit := (s1.rays.filter fun r => mine r.cmd.sid r.word).map fun r =>
    { r with spilled := true, phase := if r.phase == .trace then .trace else .due }
  let ms := s1.marches.filter fun m => mine m.cmd.sid m.word && !m.rings.isEmpty && !m.wrote
  let ids := hit.map Ray.id ++ ms.map fun m => m.cmd.id
  let save := fun (m : March) =>
    if ids.contains m.cmd.id then { m with spilled := true, lanes := m.lanes.filter fun l => l.mine } else m
  let free := fun (f : FaultRec) => { f with units := f.units.filter fun u => !(ids.any fun i => u == .ray i) }
  match s1.spillRays hit with
  | (false, s2) => (false, { s with faults := s2.faults, nextId := s2.nextId, free := s2.free })
  | (true, s2) =>
    match s2.spillMarches ms with
    | (false, s3) => (false, { s with faults := s3.faults, nextId := s3.nextId, free := s3.free })
    | (true, s3) => (true, { s3 with marches := s3.marches.map save, faults := s3.faults.map free })

end Sys2Proof.Machine
end

