-- ==== Sys2Proof/Machine/Preempt.lean ====
section
/-! DEFINITION. Pre-emption of a gang (10 R228, R229), with the exception for a gang that waits on rays (15 R336). -/

namespace Sys2Proof.Machine

/-- A pre-emption can be taken now. -/
def State.mayPreempt (s : State) (g : Gang) : Bool :=
  (s.canPreempt g || (s.waitsOnRays g && !g.slices.any Slice.holdoff && !s.slotFaulted g)) && (!g.movable false || s.ackClear g.core g.tier)

/-- Take it: rays that the gang waits on are saved first; while a slot of theirs waits for a fault's service, the pre-emption waits too. -/
def State.takePreempt (s : State) (g : Gang) : State :=
  if s.canPreempt g then s.preemptGang g
  else
    match s.saveRays g with
    | (true, s1) => s1.preemptGang g
    | (false, s1) => s1.putGang { g with preempt := true }

end Sys2Proof.Machine
end

