-- ==== Sys2Proof/Machine/Tile.lean ====
section
/-! DEFINITION. Tile-task records (13 R286 to R288), the order of a tile's steps (R289, R291), the start checks (R293), and the
arithmetic of a chunk (04 R83 to R87). -/

namespace Sys2Proof.Machine

/-- A tile-task record (R286). -/
structure Tile where
  kind : Nat
  afmt : Nat
  bfmt : Nat
  flags : Nat
  tier : Nat
  chain : Nat
  m : Nat
  n : Nat
  k : Nat
  pad : Nat
  a : Word64
  lda : Word64
  asp : Word64
  b : Word64
  ldb : Word64
  bsp : Word64
  band : Word64
  c : Word64
  ldc : Word64
  cell : Word64
  rprs : Word64
  succ : Word64
  more : Word64
  deriving DecidableEq, Repr

def Tile.of (r : List Byte) : Tile :=
  let f := fieldOf r
  let w := fun off => BitVec.ofNat 64 (f off 8)
  { kind := f 0 1, afmt := f 1 1, bfmt := f 2 1, flags := f 3 1, tier := f 4 1, chain := f 5 1, m := f 8 4, n := f 12 4, k := f 16 4
    pad := f 20 4, a := w 0x18, lda := w 0x20, asp := w 0x28, b := w 0x30, ldb := w 0x38, bsp := w 0x40, band := w 0x48, c := w 0x50
    ldc := w 0x58, cell := w 0x60, rprs := w 0x68, succ := w 0x70, more := w 0x78 }

/-- Bits of an element of a T code (04 R72). -/
def elemBits (t : Nat) : Nat :=
  match t with
  | 13 => 4
  | 4 | 5 | 11 | 12 => 8
  | _ => 16

/-- Whether a T code is an integer format that a tile takes. -/
def intFmt (t : Nat) : Bool := t == 4 || t == 5

/-- The operand pairs of R284. -/
def pairOk (a b : Nat) : Bool :=
  (a == 13 && b == 13) || ([11, 12, 13].contains a && [11, 12, 13].contains b) || (intFmt a && intFmt b) ||
    ([9, 10].contains a && [9, 10].contains b)

/-- A tile with an e2m1 operand (R285). -/
def Tile.fp4 (t : Tile) : Bool := t.afmt == 13 || t.bfmt == 13

def Tile.acc (t : Tile) : Bool := t.flags.testBit 0
def Tile.nantrap (t : Tile) : Bool := t.flags.testBit 1
def Tile.femark (t : Tile) : Bool := t.flags.testBit 2
def Tile.afe (t : Tile) : Bool := t.flags.testBit 3
def Tile.atake (t : Tile) : Bool := t.flags.testBit 4

/-- Quotient rounded up. -/
def ceilDiv (a b : Nat) : Nat := (a + b - 1) / b

/-! ## The order of steps (R289 to R291) -/

/-- A step's place, as RPR names it (R291): PHASE 0 LATCH, 1 COMPUTE, 2 WRITE, 3 DONE. -/
structure Pos where
  phase : Nat
  kc : Nat
  mb : Nat
  nb : Nat
  st : Nat
  deriving DecidableEq, Repr

def Pos.word (p : Pos) : Word64 :=
  BitVec.ofNat 64 (p.phase * 2 ^ 62 + p.kc * 2 ^ 48 + p.mb * 2 ^ 38 + p.nb * 2 ^ 28 + p.st * 2 ^ 24)

def Pos.of (w : Word64) : Pos :=
  { phase := (w.extractLsb' 62 2).toNat, kc := (w.extractLsb' 48 14).toNat, mb := (w.extractLsb' 38 10).toNat
    nb := (w.extractLsb' 28 10).toNat, st := (w.extractLsb' 24 4).toNat }

def Pos.done : Pos := ⟨3, 0, 0, 0, 0⟩

def Tile.nkc (t : Tile) : Nat := ceilDiv t.k 64
def Tile.nmb (t : Tile) : Nat := ceilDiv t.m 1024
def Tile.nnb (t : Tile) (len : Nat) : Nat := ceilDiv t.n (64 * len)

/-- rows(mb). -/
def Tile.rows (t : Tile) (mb : Nat) : Nat := min 1024 (t.m - 1024 * mb)

/-- The first step of a chunk: LATCH for KIND 0. -/
def Tile.chunk (t : Tile) (mb nb kc : Nat) : Pos := ⟨if t.kind = 0 then 0 else 1, kc, mb, nb, 0⟩

/-- The first step of a block: WRITE alone when K = 0. -/
def Tile.block (t : Tile) (mb nb : Nat) : Pos := if t.nkc = 0 then ⟨2, 0, mb, nb, 0⟩ else t.chunk mb nb 0

/-- The first step of a tile. -/
def Tile.first (t : Tile) : Pos := if t.m = 0 ∨ t.n = 0 then .done else t.block 0 0

/-- The step after a step. -/
def Tile.after (t : Tile) (len : Nat) (p : Pos) : Pos :=
  match p.phase with
  | 0 => { p with phase := 1 }
  | 1 =>
    if p.st + 1 < ceilDiv (t.rows p.mb) 64 then { p with st := p.st + 1 }
    else if p.kc + 1 < t.nkc then t.chunk p.mb p.nb (p.kc + 1)
    else ⟨2, 0, p.mb, p.nb, 0⟩
  | 2 =>
    if p.nb + 1 < t.nnb len then t.block p.mb (p.nb + 1)
    else if p.mb + 1 < t.nmb then t.block (p.mb + 1) 0
    else .done
  | _ => .done

/-! ## Start checks (R293) -/

/-- A record that breaks R286. -/
def Tile.malformed (t : Tile) : Bool :=
  decide (1 < t.kind) || decide (16 ≤ t.afmt) || decide (16 ≤ t.bfmt) || decide (32 ≤ t.flags) || decide (8 ≤ t.tier) ||
    decide (8 ≤ t.chain) || t.pad != 0 || decide (2 ^ 20 < t.m) || decide (65536 < t.n) || decide (2 ^ 20 < t.k) || t.k % 8 != 0

/-- Misaligned addresses and strides, or LDC below 4N. -/
def Tile.misaligned (t : Tile) : Bool :=
  [t.a, t.b, t.c, t.lda, t.ldb, t.ldc, t.cell].any (fun x => x.toNat % 16 != 0) || t.band.toNat % 2 != 0 || t.more.toNat % 4 != 0 ||
    decide (t.ldc.toNat < 4 * t.n)

/-- Scale and band addresses that R285 requires, or requires to be 0. -/
def Tile.scalesBad (t : Tile) : Bool :=
  (t.asp != 0) != (t.afmt == 13) || (t.bsp != 0) != (t.bfmt == 13) || (t.band != 0) != t.fp4

/-- Bytes of a dense scale plane (04 R83). -/
def planeBytes (rows k : Nat) : Nat := ceilDiv (12 * (rows * (k / 8))) 8

/-- The operand ranges: base, and bytes from it. -/
def Tile.ranges (t : Tile) : List (Word64 × Nat) :=
  let span := fun (n : Nat) (ld : Word64) (bytes : Nat) => if n = 0 ∨ bytes = 0 then 0 else (n - 1) * ld.toNat + bytes
  [(t.a, span t.m t.lda (t.k * elemBits t.afmt / 8)), (t.b, span t.n t.ldb (t.k * elemBits t.bfmt / 8)),
    (t.c, span t.m t.ldc (4 * t.n)), (t.asp, if t.afmt = 13 then planeBytes t.m t.k else 0),
    (t.bsp, if t.bfmt = 13 then planeBytes t.n t.k else 0), (t.band, if t.fp4 then 2 * t.nkc else 0)]

/-- A range leaves its aperture or breaks a segment limit held at issue. -/
def Cmd.rangeBad (c : Cmd) (x : Word64 × Nat) : Bool :=
  (rangeOf x.1 x.2).any fun y => c.segs.rangeTrap c.crew y != (none, none)

/-- An operand lies in scratchpad. -/
def Tile.inScratch (t : Tile) : Bool := t.ranges.any fun x => decide (0 < x.2) && apertureOf x.1 == some .scratch

/-- The checks of R293 that need only the record, the command and the chain length; `far` is a tile queued at tier K or D or by a
TILE node. -/
def Tile.bad (t : Tile) (c : Cmd) (len : Nat) (far : Bool) : Bool :=
  t.malformed || !pairOk t.afmt t.bfmt || t.misaligned || t.scalesBad || t.ranges.any c.rangeBad || (far && t.inScratch) ||
    (t.afe && apertureOf t.a != some .scratch) || (t.atake && (!t.afe || decide (1 < t.nnb len))) ||
    (t.femark && (apertureOf t.c != some .scratch || t.n % 4 != 0))

/-- KIND 1 against the latches of its chain. -/
def Tile.latchBad (t : Tile) (head len : Nat) (es : List Matrix) : Bool :=
  t.kind == 1 && es.any fun e => e.owner != some (head, len) || t.bfmt != e.fmt || t.k != e.kb || decide (e.nb < t.n)

/-! ## Arithmetic (04 R83 to R87) -/

/-- An element of a row of codes. -/
def codeAt (bs : List Byte) (bits k : Nat) : Nat :=
  match bits with
  | 4 => (bs.getD (k / 2) 0).toNat / (if k % 2 = 0 then 1 else 16) % 16
  | 8 => (bs.getD k 0).toNat
  | _ => fieldOf bs (2 * k) 2

/-- Codes of `n` elements. -/
def codesOf (bs : List Byte) (bits n : Nat) : List Nat := (List.range n).map (codeAt bs bits)

/-- The value of an integer code. -/
def intValue (t code : Nat) : Int := if t = 4 then (BitVec.ofNat 8 code).toInt else code

/-- The value of an element with its block scale, 1 where the format has none. -/
def scaled (t code scale : Nat) : FVal :=
  let x := (fmtOf t).decode code
  if t = 13 then x.mul (fmtUe5m7.decode scale) else x

/-- A chunk's value (R85, R86): the exact sum of the terms times the band scale; an exact zero is +0. -/
def chunkValue (as bs : List FVal) (band : FVal) : FVal :=
  let sum := ((as.zip bs).map fun p => p.1.mul p.2).foldl (FVal.add false) (.fin false 0 0)
  match sum.mul band with
  | .fin n m e => .fin (n && decide (m ≠ 0)) m e
  | v => v

/-- One accumulation of R85. -/
def accumulate (acc : Word32) (v : FVal) : Word32 :=
  let x := fmtF32.decode (fmtF32.round 0 0 false false v)
  BitVec.ofNat 32 (fmtF32.round 0 0 false false ((fmtF32.decode acc.toNat).add false x))

/-- One accumulation of R87. -/
def accumulateInt (acc : Word32) (as bs : List Int) : Word32 :=
  acc + BitVec.ofInt 32 ((as.zip bs).map fun p => p.1 * p.2).sum

def nanF32 (w : Word32) : Bool := (fmtF32.decode w.toNat).isNan

/-! ## Reading operands -/

/-- `n` codes of a row or column that begins at `a`, from element `k0`. -/
def readCodes (c : Cmd) (unit : Nat) (a : Word64) (k0 n bits : Nat) : Eng (List Nat) := do
  let bs ← readE c unit (a + BitVec.ofNat 64 (k0 * bits / 8)) (n * bits / 8)
  pure (codesOf bs bits n)

/-- `n` scales of a plane, from scale `s0` (04 R83). -/
def readScales (c : Cmd) (unit : Nat) (plane : Word64) (s0 n : Nat) : Eng (List Nat) := do
  let lo := 12 * s0 / 8
  let bs ← readE c unit (plane + BitVec.ofNat 64 lo) (ceilDiv (12 * (s0 + n)) 8 - lo)
  let x := natOfBytes bs / 2 ^ (12 * s0 - 8 * lo)
  pure ((List.range n).map fun i => x / 4096 ^ i % 4096)

end Sys2Proof.Machine
end

