-- ==== Sys2Proof/Machine/Matrix.lean ====
section
/-! DEFINITION. The matrix engine (13, 14): its words, the steps of a tile, MQ records, and how a tile ends. -/

namespace Sys2Proof.Machine

/-! ## The engines (R282, R283) -/

def Matrix.init : Matrix :=
  { acc := [], accBad := [], active := ⟨[], [], []⟩, shadow := ⟨[], [], []⟩, fmt := 0, kb := 0, nb := 0, band := 0, owner := none, rpr := Pos.done.word, tiles := 0 }

def State.engine (s : State) (e : Nat) : Matrix := Map.get Matrix.init s.matrix e
def State.setEngine (s : State) (e : Nat) (x : Matrix) : State := { s with matrix := Map.set Matrix.init s.matrix e x }

/-- The engines of a chain. -/
def State.chainOf (s : State) (head len : Nat) : List Matrix := (List.range len).map fun i => s.engine (head + i)

/-! ## Words (R294 to R300) -/

/-- The record range and its alignment (R294 checks 2 and 3). -/
def Cmd.recordTrap (c : Cmd) : Option Trap :=
  let r := c.regs.getD 0 0
  if r.toNat % 128 ≠ 0 then some ⟨Cause.misaligned, r⟩
  else
    let t := (rangeOf r 128).map fun x => c.segs.rangeTrap c.crew x
    (t.findSome? Prod.fst).orElse fun _ => t.findSome? Prod.snd

/-- The chain does not fit where the word issues (R299). -/
def Cmd.chainTrap (c : Cmd) (len : Word64) : Option Trap :=
  if 4 < c.quad % 4 + len.toNat then some ⟨Cause.engineFault, len⟩ else none

/-- MWLD's block B, LDB, BSP, SHAPE, BANDV, CELL, then T and L. -/
def Cmd.mwldTrap (c : Cmd) : Option Trap :=
  let r := fun k => c.regs.getD k 0
  let kb := ((r 3).extractLsb' 0 32).toNat
  let nb := ((r 3).extractLsb' 32 32).toNat
  if r 5 ≠ 0 ∧ (r 5).extractLsb' 0 4 ≠ 0 then some ⟨Cause.misaligned, r 5⟩
  else if kb < 8 ∨ 64 < kb ∨ kb % 8 ≠ 0 ∨ nb < 1 ∨ 64 * (r 7).toNat < nb then some ⟨Cause.engineFault, r 3⟩
  else c.chainTrap (r 7)

/-- MWLD (R295). -/
def execMwld (o : Wide) (s : State) : Out :=
  commandWord (.mwld o) .mwld false o 6 1 (fun _ _ => false) (fun sl => [o.t.setWidth 64, BitVec.ofNat 64 sl.chain]) (fun _ _ c => c.mwldTrap) s

/-- The CELL of the record that an MTILE names is nonzero, as the engine would read it now; a record that cannot be read signals no cell. -/
def State.recordCell (s : State) (c : Cmd) : Bool :=
  match s.run (readE c 0 (c.regs.getD 0 0) 128) with
  | (.ok bs, _, _) => (Tile.of bs).cell != 0
  | _ => false

/-- MTILE (R296). Its cell lies in the record: with cell 0 the word is revocable (21 R436, R449). -/
def execMtile (o : Wide) (s : State) : Out :=
  commandWord (.mtile o) .mtile false o 1 1 State.recordCell (fun sl => [BitVec.ofNat 64 sl.chain])
    (fun _ _ c => c.recordTrap.orElse fun _ => c.chainTrap (c.regs.getD 1 0)) s

/-- MQ (R297): the record is registered at issue, or where its guard becomes TRUE. -/
def execMq (o : Wide) (s : State) : Out :=
  commandWord (.mq o) .mq false o 1 (o.fn.extractLsb' 0 3).toNat (fun _ _ => true) (fun _ => [(o.fn.extractLsb' 0 3).setWidth 64])
    (fun _ _ c => c.recordTrap) s

/-- MCHAIN (R299). -/
def execMchain (o : Wide) (s : State) : Out :=
  runWord (.mchain o) s fun g s =>
    let l := o.imm.toNat
    if 4 < g.quad + l then .next (s.trapped g ⟨Cause.engineFault, BitVec.ofNat 64 l⟩)
    else .next (s.wordDone (g.mapSlices fun sl => ({ sl with chain := l }).advance 12 true))

/-- MRPR and MSTAT write a value into every slice (R300), after one cycle, a figure that the spec does not give (log 66, DESIGN CHOICE). -/
def engineValue (i : Instr) (o : Wide) (f : State → Gang → Slice → Word64) (s : State) : Out :=
  runWord i s fun g s =>
    let c := s.rctx g
    .next (s.wordDone (g.mapSlices fun sl => (sl.writeS c (.variable 1) o.ss ⟨f s g sl, false⟩).advance 12 (regionEnding i)))

/-- MRPR. -/
def execMrpr (o : Wide) (s : State) : Out := engineValue (.mrpr o) o (fun s g _ => (s.engine g.quadNo).rpr) s

/-- A run holds an engine. -/
def TileRun.holds (r : TileRun) (e : Nat) : Bool := decide (r.head ≤ e) && decide (e < r.head + r.got)

/-- The status word of a quadrant's engine, for a strand with chain length L (R300). -/
def State.mstat (s : State) (e chain : Nat) : Word64 :=
  let x := s.engine e
  let depth := s.matrixQueue e
  let busy := s.tiles.any fun r => r.holds e && (r.stage == .run || (r.cmd.op == .mwld && r.stage == .start))
  let ok := decide (e % 4 + chain ≤ 4) && (s.chainOf e chain).all fun y => y.owner == some (e, chain)
  (x.tiles ++ 0#32) |||
    BitVec.ofNat 64 (depth * 65536 + (if busy then 256 else 0) + (if ok then 128 else 0) + chain * 16 + if x.owner.isNone then 15 else x.fmt)

/-- MSTAT. -/
def execMstat (o : Wide) (s : State) : Out := engineValue (.mstat o) o (fun s g sl => s.mstat g.quadNo sl.chain) s

/-! ## Runs -/

def State.tile? (s : State) (id : Nat) : Option TileRun := s.tiles.find? fun r => r.cmd.id == id

def State.setTile (s : State) (id : Nat) (f : TileRun → TileRun) : State :=
  { s with tiles := updFirst (fun r => r.cmd.id == id) f s.tiles }

/-- The record as a tile. -/
def TileRun.tile (r : TileRun) : Tile := Tile.of r.record

/-- The record's address. -/
def TileRun.at_ (r : TileRun) : Word64 := r.cmd.regs.getD 0 0

/-- Engine work on behalf of a run: its fault is recorded, poison is noted (14 R313). -/
def State.work {α : Type} (s : State) (r : TileRun) (e : Eng α) : Except Halt α × State :=
  match s.run e with
  | (.error (.fault f), s1, _) => (.error (.fault f), (s1.addFault f (.matrix r.cmd.id)).2)
  | (x, s1, true) => (x, (s1.consume r.cmd.ctx chkMatrix).setTile r.cmd.id fun y => { y with poison := true })
  | (x, s1, false) => (x, s1)

/-- The run ends with ENGINE_FAULT (14 R308): RPRS is kept, the cell takes FAULTED. -/
def State.tileFault (s : State) (r : TileRun) (at_ : Word64) : State :=
  (s.engineRecord r.cmd 0x0F r.head (if r.cmd.op = .mwld then 0 else r.at_) at_ (s.engine r.head).rpr).setTile r.cmd.id fun y =>
    { y with stage := .finish, status := statusFaulted, rprs := none }

/-- A run is over: its engines are free. -/
def State.releaseTile (s : State) (id : Nat) : State := { s with tiles := s.tiles.filter fun r => r.cmd.id != id }

/-- The chain contains a fenced engine (21 R445). -/
def State.chainFenced (s : State) (r : TileRun) : Bool := (List.range r.len).any fun i => s.fenced r.cmd.part 1 (r.head + i)

/-- A record that cannot be read at start: nothing is signalled or decremented (14 R308). -/
def State.tileUnreadable (s : State) (r : TileRun) : State :=
  (s.engineRecord r.cmd 0x0F r.head r.at_ 0 0).releaseTile r.cmd.id

/-! ## Taking a chain (R301) -/

/-- A command in an engine's own queue has reached it before a given arrival (R301). -/
def State.queuedBefore (s : State) (e reach : Nat) : Bool :=
  s.cmds.any fun c => c.op.engine == .matrix && c.op != .mq && c.quad == e && decide (c.id < reach) && s.mayStart c

/-- The run may take the next engine of its chain: free, and no command has reached it earlier. -/
def State.mayTake (s : State) (r : TileRun) : Bool :=
  let e := r.head + r.got
  r.stage == .acquire && decide (r.got < r.len) && !s.queuedBefore e r.reach && !s.tiles.any fun x =>
    x.holds e || (x.stage == .acquire && x.head + x.got == e && decide (x.got < x.len) && decide (x.reach < r.reach))

/-- Take engines in increasing number, as far as they are free. -/
def State.takeEngines (s : State) (id : Nat) : Nat → State
  | 0 => s
  | n + 1 =>
    match s.tile? id with
    | some r =>
      if s.mayTake r then
        ({ s with nextId := s.nextId + 1 }.setTile id fun x => { x with got := x.got + 1, reach := s.nextId }).takeEngines id n
      else s
    | none => s

/-- A command of a quadrant's queue that may leave it: no startable command of the queue stands ahead. -/
def State.mayLeave (s : State) (c : Cmd) : Bool :=
  s.mayStart c && !s.engineWaits c.unit && (s.cmds.takeWhile fun x => x.id != c.id).all fun x =>
    !(x.op.engine == .matrix && x.op != .mq && x.quad == c.quad && s.mayStart x)

/-- A new run of a command. -/
def Cmd.runOn (c : Cmd) (head len got reach : Nat) (stage : TileStage) (node : Option (Nat × Nat)) : TileRun :=
  { cmd := c, head := head, len := len, got := got, reach := reach, stage := stage, record := [], poison := false, status := statusOk
    rprs := none, cellAt := none, next := 0, node := node }

/-- Enter a queued command into the competition for its chain, and take what is free: it reached its first engine when it was queued. When the chain is whole the fork edge's
destination reconciles: span C for a chain of more than one engine (R302). -/
def State.acquire (s : State) (id len : Nat) (op : CmdOp) : State :=
  let s1 := match s.cmds.find? fun c => c.id == id && c.op == op with
    | some c =>
      if s.mayLeave c then
        { s.dropCmd id with tiles := s.tiles ++ [c.runOn c.quad len 0 c.id .acquire none] }
      else s
    | none => s
  let s2 := s1.takeEngines id 4
  match s2.tile? id with
  | some r =>
    if r.stage = .acquire ∧ r.got = r.len then
      (if 1 < r.len then s2.reconcileDest r.cmd.core 1 else s2).setTile id fun x => { x with stage := .start }
    else s2
  | none => s2

/-- The chain length that a queued command carries. -/
def State.queuedLen (s : State) (id k : Nat) : Nat :=
  ((s.cmds.find? fun c => c.id == id).map fun c => (c.regs.getD k 0).toNat).getD 1

/-! ## MWLD_EXECUTE (R295) -/

/-- One column of a block: its codes and scales. -/
def readColumn (c : Cmd) (unit : Nat) (a plane : Word64) (t k0 n s0 : Nat) : Eng (List Nat × List Nat) := do
  let w ← readCodes c unit a k0 n (elemBits t)
  let sc ← if t = 13 then readScales c unit plane s0 (n / 8) else pure []
  pure (w, sc)

/-- A bank from its columns. -/
def bankOf (cols : List (List Nat × List Nat)) : Bank :=
  { w := (cols.zipIdx.foldl (fun m p => Map.setMany 0 m (64 * p.2) p.1.1) ([] : Map Nat))
    sc := (cols.zipIdx.foldl (fun m p => Map.setMany 0 m (8 * p.2) p.1.2) ([] : Map Nat))
    bad := [] }

/-- A new active bank with its tag; the old one becomes the shadow. -/
def Matrix.latch (e : Matrix) (b : Bank) (fmt kb nb : Nat) (band : BitVec 16) (owner : Option (Nat × Nat)) : Matrix :=
  { e with shadow := e.active, active := b, fmt := fmt, kb := kb, nb := nb, band := band, owner := owner }

/-- The checks of B and BSP, for alignment and apertures. -/
def Cmd.mwldBad (c : Cmd) : Bool :=
  let r := fun k => c.regs.getD k 0
  let t := (r 6).toNat
  let kb := ((r 3).extractLsb' 0 32).toNat
  let nb := ((r 3).extractLsb' 32 32).toNat
  (r 0).toNat % 16 != 0 || (r 1).toNat % 16 != 0 || c.rangeBad (r 0, (nb - 1) * (r 1).toNat + kb * elemBits t / 8) ||
    (t == 13 && c.rangeBad (r 2, planeBytes nb kb))

/-- Read the block of every member. -/
def Cmd.mwldRead (c : Cmd) (head len : Nat) : Eng (List Bank) :=
  let r := fun k => c.regs.getD k 0
  let t := (r 6).toNat
  let kb := ((r 3).extractLsb' 0 32).toNat
  let nb := ((r 3).extractLsb' 32 32).toNat
  (List.range len).mapM fun i => do
    let cols ← (List.range (min 64 (nb - 64 * i))).mapM fun jj =>
      let j := 64 * i + jj
      readColumn c (head + i) (r 0 + BitVec.ofNat 64 (j * (r 1).toNat)) (r 2) t 0 kb (j * (kb / 8))
    pure (bankOf cols)

/-- The band scale 1.0. -/
def bandOne : BitVec 16 := 0x3F80

/-- The block into the latches, once its chain is taken. -/
def State.mwldLatch (s : State) (r : TileRun) : State :=
  let c := r.cmd
  let g := fun k => c.regs.getD k 0
  if c.mwldBad || s.chainFenced r then s.tileFault r (g 0)
  else
    match s.work r (c.mwldRead r.head r.len) with
    | (.error (.stop a), s1) => s1.tileFault r a
    | (.error _, s1) => s1
    | (.ok banks, s1) =>
      let t := (g 6).toNat
      let s2 := banks.zipIdx.foldl
        (fun s p => s.setEngine (r.head + p.2) ((s.engine (r.head + p.2)).latch p.1 t ((g 3).extractLsb' 0 32).toNat
          ((g 3).extractLsb' 32 32).toNat (if t = 13 then (g 4).extractLsb' 0 16 else bandOne) (some (r.head, r.len)))) s1
      s2.setTile c.id fun x => { x with stage := .finish, status := if x.poison then statusFaulted else statusOk }

/-- The cell of a run: signalled by 1 after the reconciliation of span P, none when it is 0 or cannot be signalled; the Bool tells
that the signal is behind. -/
def State.signalTile (s : State) (r : TileRun) (cell : Word64) : Bool × State :=
  if cell = 0 then (true, s)
  else if !s.ackClear r.cmd.core 4 then (false, s)
  else
    let s1 := s.reconcileSource r.cmd.core 4
    match s1.reachCell r.cmd.core r.cmd.part r.cmd.ctx r.cmd.segs cell with
    | (.at pa, s2) =>
      (true, (s2.signalCell pa 1 r.status false (.quad r.head)).setTile r.cmd.id fun x => { x with cellAt := some pa })
    | (.cannot, s2) => (true, if r.status = statusFaulted ∧ !r.poison then s2
      else s2.engineRecord r.cmd 0x0F r.head (if r.cmd.op = .mwld then 0 else r.at_) cell (s2.engine r.head).rpr)
    | (.fault why lv e pool va, s2) =>
      (false, (s2.addFault { token := 0, part := r.cmd.part, ctx := r.cmd.ctx, va := va, acc := 2, why := why, level := lv
                             entryAt := e, pool := pool, units := [], unitno := r.head, stage := .new, since := s.cycle }
        (.matrix r.cmd.id)).2)

/-- MWLD_EXECUTE: the chain is taken, the block latched, the cell signalled. -/
def execMwldExecute (id : Nat) (s : State) : Out :=
  if s.engineWaits (.matrix id) then .next s
  else
    let s1 := s.acquire id (s.queuedLen id 7) .mwld
    let s2 : State := match s1.tile? id with
      | some r => if r.stage = .start ∧ r.cmd.op = .mwld then s1.mwldLatch r else s1
      | none => s1
    match s2.tile? id with
    | some r =>
      if r.stage = .finish ∧ r.cmd.op = .mwld then
        let (fin, s3) := s2.signalTile r (r.cmd.regs.getD 5 0)
        .next (if fin then s3.releaseTile id else s3)
      else .next s2
    | none => .next s2

/-! ## TILE_START (R293, R296) -/

/-- The frame store's entry for a command's record (14 R307). -/
def State.saved? (s : State) (c : Cmd) (at_ : Word64) : Option SavedTile :=
  s.savedTiles.find? fun x => x.key == c.recordKey at_ && !x.engines.isEmpty

/-- The RPR with which a tile starts (R291), none when its record's RPRS cannot be taken. -/
def Tile.startAt (t : Tile) (saved : Option SavedTile) : Option Word64 :=
  if t.rprs = 0 then some t.first.word
  else if saved.isNone || t.rprs.getLsbD 0 || (t.kind == 1 && t.rprs.extractLsb' 62 2 == 0) then none
  else some t.rprs

/-- The entry of a record leaves the frame store. -/
def State.dropEntry (s : State) (r : TileRun) : State :=
  { s with savedTiles := s.savedTiles.filter fun y => y.key != r.cmd.recordKey r.at_ }

/-- Put a saved tile's accumulators and latches back (14 R307); the latch belongs to the new chain. Poison that it has read still counts. -/
def State.restoreTile (s : State) (r : TileRun) (x : SavedTile) : State :=
  let s1 := x.engines.zipIdx.foldl
    (fun s p =>
      s.setEngine (r.head + p.2)
        { p.1 with owner := p.1.owner.map fun _ => (r.head, r.len), tiles := (s.engine (r.head + p.2)).tiles }) s
  (s1.setTile r.cmd.id fun y => { y with poison := y.poison || x.poison }).dropEntry r

/-- Read and check the record, and start the tile. -/
def State.startTile (s : State) (r : TileRun) : State :=
  let c := r.cmd
  match s.work r (readE c r.head r.at_ 128) with
  | (.error (.stop _), s1) => s1.tileUnreadable r
  | (.error _, s1) => s1
  | (.ok bs, s1) =>
    let t := Tile.of bs
    let s2 := s1.setTile c.id fun x => { x with record := bs }
    let r' := { r with record := bs }
    let poisoned := ((s2.tile? c.id).map TileRun.poison).getD false
    let saved := s2.saved? c r.at_
    let far := c.op == .mq && (r.node.isSome || decide (2 ≤ (c.regs.getD 1 0).toNat))
    let at_ := t.startAt saved
    let s3 := match saved with
      | some x => if t.rprs = 0 then s2.dropEntry r' else s2.restoreTile r' x
      | none => s2
    match at_ with
    | none => s2.tileFault r' 0
    | some w =>
      if poisoned || s2.chainFenced r || t.bad c r.len far || t.latchBad r.head r.len (s3.chainOf r.head r.len) then s2.tileFault r' 0
      else
        let s4 := (List.range r.len).foldl
          (fun s i =>
            let e := s.engine (r.head + i)
            s.setEngine (r.head + i)
              { e with rpr := if i = 0 then w else e.rpr, owner := if t.kind = 0 then none else e.owner }) s3
        if w = Pos.done.word then s4.setTile c.id fun x => { x with stage := .finish, rprs := some 0 }
        else s4.setTile c.id fun x => { x with stage := .run }

/-- TILE_START: the tile takes its chain, then its record is read and checked. -/
def execTileStart (id : Nat) (s : State) : Out :=
  if s.engineWaits (.matrix id) then .next s
  else
    let s1 := s.acquire id (s.queuedLen id 1) .mtile
    match s1.tile? id with
    | some r => if r.stage = .start ∧ r.cmd.op ≠ .mwld then .next (s1.startTile r) else .next s1
    | none => .next s1

/-! ## The steps (R289, R290, R292) -/

/-- The step that a running tile is at. -/
def State.posOf (s : State) (r : TileRun) : Pos := Pos.of (s.engine r.head).rpr

/-- A step commits: RPR advances; after the last one RPRS is to take 0. -/
def State.commit (s : State) (r : TileRun) (p : Pos) : State :=
  let q := r.tile.after r.len p
  let s1 := s.setEngine r.head { s.engine r.head with rpr := q.word }
  if q = .done then
    s1.setTile r.cmd.id fun x => { x with stage := .finish, status := if x.poison then statusFaulted else statusOk, rprs := some 0 }
  else s1

/-- Act on a running tile that is at a phase. -/
def tileStep (id phase : Nat) (s : State) (f : TileRun → Pos → State → State) : Out :=
  match s.tile? id with
  | none => .next s
  | some r =>
    let p := s.posOf r
    if r.stage == .run && !s.engineWaits (.matrix id) && p.phase == phase then .next (f r p s) else .next s

/-- Columns that member `i` of the chain holds in n-block `nb`. -/
def Tile.cols (t : Tile) (len nb i : Nat) : List Nat :=
  let j0 := nb * 64 * len + 64 * i
  (List.range (min 64 (t.n - j0))).map (j0 + ·)

/-- Depth of a chunk that is fetched. -/
def Tile.depth (t : Tile) (kc : Nat) : Nat := min 64 (t.k - 64 * kc)

/-- The block of LATCH(nb, kc), member by member, with the band scale. -/
def TileRun.readLatch (r : TileRun) (p : Pos) : Eng (List Bank × BitVec 16) := do
  let t := r.tile
  let banks ← (List.range r.len).mapM fun i => do
    let cols ← (t.cols r.len p.nb i).mapM fun j =>
      readColumn r.cmd (r.head + i) (t.b + BitVec.ofNat 64 (j * t.ldb.toNat)) t.bsp t.bfmt (64 * p.kc) (t.depth p.kc)
        (j * (t.k / 8) + 8 * p.kc)
    pure (bankOf cols)
  let band ← if t.fp4 then readE r.cmd r.head (t.band + BitVec.ofNat 64 (2 * p.kc)) 2 else pure (toBytes bandOne 2)
  pure (banks, ofBytes 16 band)

/-- MATRIX_LATCH_STEP. -/
def execMatrixLatchStep (id : Nat) (s : State) : Out :=
  tileStep id 0 s fun r p s =>
    match s.work r (r.readLatch p) with
    | (.error (.stop a), s1) => s1.tileFault r a
    | (.error _, s1) => s1
    | (.ok (banks, band), s1) =>
      let t := r.tile
      (banks.zipIdx.foldl
        (fun s q => s.setEngine (r.head + q.2) ((s.engine (r.head + q.2)).latch q.1 t.bfmt (t.depth p.kc)
          (min (64 * r.len) (t.n - p.nb * 64 * r.len)) band none)) s1).commit r p

/-- A row of A for a chunk: its codes and scales; under AFE every granule must be full. -/
def TileRun.readRow (r : TileRun) (p : Pos) (row : Nat) : Eng (List Nat × List Nat) := do
  let t := r.tile
  let a := t.a + BitVec.ofNat 64 (row * t.lda.toNat)
  let n := t.depth p.kc
  let bits := elemBits t.afmt
  let gs := granulesOf (r.cmd.scratchOff a + 64 * p.kc * bits / 8) (n * bits / 8)
  let empty ← looking fun s => t.afe && gs.any (s.core r.cmd.core).empty.contains
  if empty then halt .wait
  else
    let w ← readCodes r.cmd r.head a (64 * p.kc) n bits
    let sc ← if t.afmt = 13 then readScales r.cmd r.head t.asp (row * (t.k / 8) + 8 * p.kc) (n / 8) else pure []
    pure (w, sc)

/-- What an accumulator entry holds before its chunk is added: C or +0 at the first chunk, else what it held. -/
def TileRun.before (r : TileRun) (p : Pos) (row i : Nat) (js : List Nat) : Eng (List Word32) := do
  let t := r.tile
  if p.kc = 0 then
    if t.acc then
      match js with
      | [] => pure []
      | j0 :: _ =>
        let bs ← readE r.cmd (r.head + i) (t.c + BitVec.ofNat 64 (row * t.ldc.toNat + 4 * j0)) (4 * js.length)
        pure ((List.range js.length).map fun q => BitVec.ofNat 32 (fieldOf bs (4 * q) 4))
    else pure (js.map fun _ => 0)
  else do
    let e ← looking fun s => s.engine (r.head + i)
    let keys := (List.range js.length).map fun q => 64 * (row - 1024 * p.mb) + q
    noting (keys.any e.accBad.contains)
    pure (keys.map fun k => Map.get 0 e.acc k)

/-- The entry of a column after a chunk. -/
def Tile.entry (t : Tile) (e : Matrix) (row : List Nat × List Nat) (n q : Nat) (old : Word32) : Word32 :=
  let w := (List.range n).map fun k => Map.get 0 e.active.w (64 * q + k)
  if intFmt t.afmt then accumulateInt old (row.1.map (intValue t.afmt)) (w.map (intValue t.bfmt))
  else
    let as := (List.range n).map fun k => scaled t.afmt (row.1.getD k 0) (row.2.getD (k / 8) 0)
    let bs := (List.range n).map fun k => scaled t.bfmt (w.getD k 0) (Map.get 0 e.active.sc (8 * q + k / 8))
    accumulate old (chunkValue as bs (if t.fp4 then fmtBf16.decode e.band.toNat else .fin false 1 0))

/-- One entry that a step computes: tile row, member, column within it, the value before and after. -/
structure Computed where
  row : Nat
  i : Nat
  q : Nat
  old : Word32
  new : Word32
  deriving DecidableEq, Repr

/-- COMPUTE(mb, nb, kc, s): every entry of its rows, row by row and column by column. -/
def TileRun.compute (r : TileRun) (p : Pos) : Eng (List Computed) := do
  let t := r.tile
  let r0 := 1024 * p.mb + 64 * p.st
  let rows := (List.range (min 64 (t.m - r0))).map (r0 + ·)
  let out ← rows.mapM fun row => do
    let a ← r.readRow p row
    let xs ← (List.range r.len).mapM fun i => do
      let js := t.cols r.len p.nb i
      let old ← r.before p row i js
      let e ← looking fun s => s.engine (r.head + i)
      noting (e.active.bad.any fun k => decide (k / 64 < js.length) && decide (k % 64 < t.depth p.kc))
      pure (old.zipIdx.map fun x => { row := row, i := i, q := x.2, old := x.1, new := t.entry e a (t.depth p.kc) x.2 x.1 : Computed })
    pure xs.flatten
  pure out.flatten

/-- A's granules that a committed step has read (R287 ATAKE). -/
def TileRun.takes (r : TileRun) (p : Pos) : List Nat :=
  let t := r.tile
  let bits := elemBits t.afmt
  let r0 := 1024 * p.mb + 64 * p.st
  (List.range (min 64 (t.m - r0))).flatMap fun x =>
    granulesOf (r.cmd.scratchOff (t.a + BitVec.ofNat 64 ((r0 + x) * t.lda.toNat)) + 64 * p.kc * bits / 8) (t.depth p.kc * bits / 8)

/-- The NaN report (14 R311). -/
def nanReport (p : Pos) (row col engine : Nat) : Word64 :=
  BitVec.ofNat 64 (2 ^ 62 + p.kc * 2 ^ 48 + row * 2 ^ 28 + col * 2 ^ 12 + engine * 4 + 1)

/-- MATRIX_COMPUTE_STEP: the entries become final, or a NaN that is new aborts the tile (14 R310, R311). -/
def execMatrixComputeStep (id : Nat) (s : State) : Out :=
  tileStep id 1 s fun r p s =>
    match s.work r (r.compute p) with
    | (.error (.stop a), s1) => s1.tileFault r a
    | (.error _, s1) => s1
    | (.ok xs, s1) =>
      let t := r.tile
      match if t.nantrap && !intFmt t.afmt then xs.find? fun x => nanF32 x.new && !nanF32 x.old else none with
      | some x =>
        let w := nanReport p x.row (p.nb * 64 * r.len + 64 * x.i + x.q) (r.head + x.i)
        (s1.engineRecord r.cmd 0x0A r.head r.at_ 0 w).setTile id fun y =>
          { y with stage := .finish, status := statusFaulted, rprs := some w }
      | none =>
        let s2 := xs.foldl
          (fun s x =>
            let e := s.engine (r.head + x.i)
            let k := 64 * (x.row - 1024 * p.mb) + x.q
            s.setEngine (r.head + x.i) { e with acc := Map.set 0 e.acc k x.new, accBad := NatSet.drop e.accBad k }) s1
        (if t.atake then s2.setEmpty r.cmd.core (r.takes p) else s2).commit r p

/-- The bytes that WRITE(mb, nb) writes: member, address, bytes. -/
def State.writeRows (s : State) (r : TileRun) (p : Pos) : List (Nat × Word64 × List Byte) :=
  let t := r.tile
  (List.range (t.rows p.mb)).flatMap fun x =>
    (List.range r.len).filterMap fun i =>
      match t.cols r.len p.nb i with
      | [] => none
      | j0 :: js =>
        let v := fun q => if t.k = 0 then (0 : Word32) else Map.get 0 (s.engine (r.head + i)).acc (64 * x + q)
        some (i, t.c + BitVec.ofNat 64 ((1024 * p.mb + x) * t.ldc.toNat + 4 * j0), (List.range (js.length + 1)).flatMap fun q => toBytes (v q) 4)

/-- WRITE(mb, nb) reads an accumulator entry with an uncorrectable error (14 R313). -/
def State.writesBad (s : State) (r : TileRun) (p : Pos) : Bool :=
  let t := r.tile
  decide (t.k ≠ 0) && (List.range r.len).any fun i =>
    (s.engine (r.head + i)).accBad.any fun k => decide (k / 64 < t.rows p.mb) && decide (k % 64 < (t.cols r.len p.nb i).length)

/-- MATRIX_WRITE_STEP: every page is translated and its permission checked before the first byte is written; with FEMARK each
granule is then full. -/
def execMatrixWriteStep (id : Nat) (s : State) : Out :=
  tileStep id 2 s fun r p s =>
    let t := r.tile
    let rows := if t.k = 0 ∧ t.acc then [] else s.writeRows r p
    match s.work r (do
      noting (s.writesBad r p)
      rows.mapM fun x => do
        let ps ← reachE r.cmd true (r.head + x.1) x.2.1 x.2.2.length
        pure (ps, x)) with
    | (.error (.stop a), s1) => s1.tileFault r a
    | (.error _, s1) => s1
    | (.ok ws, s1) =>
      let s2 := ws.foldl (fun s w => s.storeAll r.cmd false w.1 w.2.2.2) s1
      let s3 := if t.femark then
          ws.foldl (fun s w => s.setFull r.cmd.core (granulesOf (r.cmd.scratchOff w.2.2.1) w.2.2.2.length)) s2
        else s2
      s3.commit r p

/-! ## TILE_RETIRE (R298) -/

/-- Lower PRED of a record at home; a registered record that it makes ready takes its place among the ready ones. -/
def State.lowerPred (s : State) (pa head : Nat) : State :=
  let k := s.predAt pa
  if k = 0 then s
  else
    let s1 := s.writeHome (pa + 6) (toBytes (BitVec.ofNat 16 (k - 1)) 2)
    let s2 := { s1 with cellSrc := s1.cellSrc.put (pa + 6) (Map.get [] s1.cellSrc (pa + 6) ++ [.quad head]) }
    if k = 1 then
      { s2 with
        nextId := s2.nextId + 1
        mqs := s2.mqs.map fun m => if m.pa == some pa && m.ready.isNone then { m with ready := some s2.nextId } else m }
    else s2

/-- Deal with one successor: one that cannot be reached is not decremented and is recorded. -/
def State.retireOne (s : State) (r : TileRun) (at_ : Word64) : Bool × State :=
  match s.work r (do
    let ps ← reachE r.cmd true r.head at_ 128
    match ps with
    | (_, .l1 pa _, _) :: _ | (_, .home pa, _) :: _ => looking fun s => (pa, s.poisonedAt (pa + 6) 2)
    | _ => halt (.stop at_)) with
  | (.error (.stop a), s1) => (true, s1.engineRecord r.cmd 0x0F r.head r.at_ a 0)
  | (.error _, s1) => (false, s1)
  | (.ok (pa, bad), s1) =>
    (true, if bad then (s1.consume r.cmd.ctx chkMatrix).engineRecord r.cmd 0x0F r.head r.at_ at_ 0 else s1.lowerPred pa r.head)

/-- The record at a signed displacement of 128 bytes. -/
def Word64.disp (a : Word64) (d : Int) : Word64 := a + BitVec.ofInt 64 (128 * d)

/-- Successors named in the record: its nonzero SUCC entries (R288). -/
def Tile.succs (t : Tile) (at_ : Word64) : List Word64 :=
  ((List.range 4).map fun i => (t.succ.extractLsb' (16 * i) 16).toInt).filter (· ≠ 0) |>.map (Word64.disp at_)

/-- Deal with successors from a list, counting them; false when one waits. -/
def State.retireEach (s : State) (r : TileRun) : List Word64 → Bool × State
  | [] => (true, s)
  | a :: as =>
    match s.retireOne r a with
    | (true, s1) => (s1.setTile r.cmd.id fun x => { x with next := x.next + 1 }).retireEach r as
    | (false, s1) => (false, s1)

/-- Deal with the extension list from its entry `k` on, at most `n` more. -/
def State.retireMore (s : State) (r : TileRun) (more : Word64) : Nat → Nat → Bool × State
  | 0, _ => (true, s)
  | n + 1, k =>
    match s.run (readHomeE r.cmd r.head (more + BitVec.ofNat 64 (4 + 4 * k)) 4) with
    | (.error (.fault f), s1, _) => (false, (s1.addFault f (.matrix r.cmd.id)).2)
    | (.error (.stop a), s1, _) => (true, s1.engineRecord r.cmd 0x0F r.head r.at_ a 0)
    | (.error .wait, s1, _) => (false, s1)
    | (.ok _, s1, true) => (true, (s1.consume r.cmd.ctx chkMatrix).engineRecord r.cmd 0x0F r.head r.at_ (more + BitVec.ofNat 64 (4 + 4 * k)) 0)
    | (.ok bs, s1, false) =>
      let d := (ofBytes 32 bs : Word32).toInt
      match if d = 0 then (true, s1) else s1.retireOne r (Word64.disp r.at_ d) with
      | (true, s2) => (s2.setTile r.cmd.id fun x => { x with next := x.next + 1 }).retireMore r more n (k + 1)
      | (false, s2) => (false, s2)

/-- The extension list, read at home. -/
def State.retireList (s : State) (r : TileRun) (more : Word64) (k : Nat) : Bool × State :=
  if more = 0 then (true, s)
  else
    match s.run (readHomeE r.cmd r.head more 4) with
    | (.error (.fault f), s1, _) => (false, (s1.addFault f (.matrix r.cmd.id)).2)
    | (.error (.stop a), s1, _) => (true, s1.engineRecord r.cmd 0x0F r.head r.at_ a 0)
    | (.error .wait, s1, _) => (false, s1)
    | (.ok _, s1, true) => (true, (s1.consume r.cmd.ctx chkMatrix).engineRecord r.cmd 0x0F r.head r.at_ more 0)
    | (.ok bs, s1, false) => s1.retireMore r more (natOfBytes bs - k) k

/-- A successor, or the list, that an unresolvable fault has cut off: it counts as dealt with. -/
def listGivenUp : Nat := 2 ^ 40

/-- The tile is over. TILES counts it if its chain was ever taken. -/
def State.tileOver (s : State) (r : TileRun) : State :=
  let e := s.engine r.head
  let s1 := (if 0 < r.got then s.setEngine r.head { e with tiles := e.tiles + 1 } else s).releaseTile r.cmd.id
  s1.recordRetired r.node (match r.cellAt with
    | some pa => s1.cellStatus pa
    | none => r.status)

/-- Decrement every successor, then end the tile. -/
def State.retireTile (s : State) (r : TileRun) : State :=
  let named := r.tile.succs r.at_
  let (ok, s1) := s.retireEach r (named.drop r.next)
  if !ok then s1
  else if listGivenUp ≤ r.next then s1.tileOver r
  else
    let (ok2, s2) := s1.retireList r r.tile.more (r.next - named.length)
    if ok2 then s2.tileOver ((s2.tile? r.cmd.id).getD r) else s2

/-- RPRS of the record at home, then the cell. Retirement's edge to the successors has its source reconciled at span P, whether or not there
is a cell (R302). -/
def State.finishTile (s : State) (r : TileRun) : Bool × State :=
  let (ok, s1) := match r.rprs with
    | none => (true, s)
    | some w =>
      match s.work r (writeSeenE r.cmd r.head (r.at_ + 0x68) (toBytes w 8)) with
      | (.ok _, s1) => (true, s1.setTile r.cmd.id fun x => { x with rprs := none })
      | (.error (.stop a), s1) => (true, s1.tileFault r a)
      | (.error _, s1) => (false, s1)
  if !ok then (false, s1)
  else
    if !s1.ackClear r.cmd.core 4 then (false, s1)
    else
      let (fin, s2) := (s1.reconcileSource r.cmd.core 4).signalTile ((s1.tile? r.cmd.id).getD r) r.tile.cell
      (fin, if fin then s2.setTile r.cmd.id fun x => { x with stage := .retire } else s2)

/-- TILE_RETIRE: RPRS, the cell signal, and then the successors, whatever the status. -/
def execTileRetire (id : Nat) (s : State) : Out :=
  match s.tile? id with
  | none => .next s
  | some r =>
    if s.engineWaits (.matrix id) || r.cmd.op == .mwld then .next s
    else
      let (ok, s1) := if r.stage = .finish then s.finishTile r else (decide (r.stage = .retire), s)
      match ok, s1.tile? id with
      | true, some r1 => .next (s1.retireTile r1)
      | _, _ => .next s1

/-! ## MQ_DISPATCH (R297) -/

/-- The chain length of a registered record: what its CHAIN says at home, 0 meaning 1. -/
def State.mqLen (s : State) (m : MqRec) : Nat :=
  m.len.getD (max 1 ((m.pa.map fun a => (s.byteAt (a + 5)).toNat % 8).getD 1))

/-- Where a record of a tier may start: the issuing quadrant for Q, the issuing core for C, the stack group for K, the partition
for D. -/
def State.mqMay (s : State) (m : MqRec) (e : Nat) : Bool :=
  let t := (m.cmd.regs.getD 1 0).toNat
  let len := s.mqLen m
  let free := (List.range len).all fun i =>
    !s.queuedBefore (e + i) s.nextId && !s.tiles.any fun x => x.holds (e + i) || (x.stage == .acquire && x.head + x.got == e + i)
  !s.ctxSaved m.cmd.ctx && decide (e % 4 + len ≤ 4) && free &&
    match t with
    | 0 => e == m.cmd.quad
    | 1 => e / 4 == m.cmd.quad / 4
    | 2 => e / 48 == m.cmd.quad / 48
    | _ => decide (e < 768) && (s.part m.cmd.part).dies.contains (e / 192)

/-- No chain exists for a ready record (R293). -/
def State.mqNever (s : State) (m : MqRec) : Bool :=
  let len := s.mqLen m
  decide (4 < len) || ((m.cmd.regs.getD 1 0) == 0 && decide (4 < m.cmd.quad % 4 + len))

/-- A record that became ready earlier could take a chain of which an engine is one of the `len` engines from `e` on. -/
def State.mqEarlier (s : State) (k e len : Nat) : Bool :=
  s.mqs.any fun x => match x.ready with
    | some k' =>
      decide (k' < k) && !s.mqNever x && (List.range 4).any fun i =>
        let h := e / 4 * 4 + i
        decide (h < e + len) && decide (e < h + s.mqLen x) && s.mqMay x h
    | none => false

/-- The tile of a record that no chain fits ends without starting on an engine: its record is read for its cell. -/
def State.mqFail (s : State) (m : MqRec) : State :=
  let bs := (m.pa.map fun a => s.bytesAt a 128).getD []
  let r := { m.cmd.runOn m.cmd.quad 1 0 0 .finish m.node with record := bs, status := statusFaulted }
  { s with mqs := s.mqs.filter fun x => x.cmd.id != m.cmd.id, tiles := s.tiles ++ [r] }.tileFault r 0

/-- MQ_DISPATCH: a ready record starts on the first chain of its tier that becomes free. -/
def execMqDispatch (id e : Nat) (s : State) : Out :=
  match s.mqs.find? fun m => m.cmd.id == id with
  | none => .next s
  | some m =>
    match m.ready with
    | none => .next s
    | some k =>
      if s.mqNever m then .next (s.mqFail m)
      else if !s.mqMay m e || s.mqEarlier k e (s.mqLen m) then .next s
      else
        let preds := (m.pa.map fun a => Map.get [] s.cellSrc (a + 6)).getD []
        let srcs := Src.quad m.cmd.quad :: preds
        let s1 := s.reconcileDest (e / 4) (spanOf srcs e)
        let c := { m.cmd with core := e / 4, quad := e }
        let r := c.runOn e (s.mqLen m) (s.mqLen m) 0 .start m.node
        .next ({ s1 with mqs := s1.mqs.filter fun x => x.cmd.id != id, tiles := s1.tiles ++ [r]
                         cellSrc := (m.pa.map fun a => s1.cellSrc.erase (a + 6)).getD s1.cellSrc }.startTile r)

end Sys2Proof.Machine
end

