-- ==== Sys2Proof/Machine/Sequencer.lean ====
section
/-! DEFINITION. Communicators, start numbers and failover (19 R402 to R412): the table, the primary and the standby, and the
member agent. Messages from other devices, and the replies of a primary on another device, are steps that carry them. -/

namespace Sys2Proof.Machine

/-! ## The communicator table (R402, R403) -/

def regCtabBase : Nat := 0x50000

/-- An entry as the device reads it at home. -/
structure CommEntry where
  at_ : Nat
  image : List Byte
  nmem : Nat
  flags : Nat
  primary : Nat
  standby : Nat
  ctx : Nat
  self : Nat
  seq0 : BitVec 32
  members : Nat
  deriving DecidableEq, Repr

/-- An entry of the partition's table; none without a table, or where the table leaves the partition's memory, beyond which no access reaches
(22 R460). -/
def State.entry? (s : State) (part comm : Nat) : Option CommEntry :=
  let base := (s.reg part regCtabBase).toNat
  if base = 0 then none
  else
    let at_ := base + 64 * (comm % 4096)
    let bs := s.bytesAt at_ 64
    let e : CommEntry :=
      { at_ := at_, image := bs, nmem := fieldOf bs 0 2, flags := fieldOf bs 2 1, primary := fieldOf bs 4 2 % 4096, standby := fieldOf bs 6 2
        ctx := fieldOf bs 8 2 % 4096, self := fieldOf bs 0xA 2, seq0 := BitVec.ofNat 32 (fieldOf bs 0xC 4), members := fieldOf bs 0x10 8 }
    if s.owned part at_ 64 then some e else none

def CommEntry.valid (e : CommEntry) : Bool := decide (e.flags % 2 = 1) && decide (1 ≤ e.nmem) && decide (e.nmem ≤ 4096)
def CommEntry.failed (e : CommEntry) : Bool := decide (e.flags / 2 % 2 = 1)
def CommEntry.hasStandby (e : CommEntry) : Bool := decide (e.standby ≠ 0xFFFF)

/-- The device identifier of a member. A place of the list outside the partition's memory names no device: the value is none of the 12-bit
identifiers (22 R460; log 24). -/
def State.memberId (s : State) (part : Nat) (e : CommEntry) (m : Nat) : Nat :=
  if s.owned part (e.members + 2 * m) 2 then s.wordAt (e.members + 2 * m) 2 % 4096 else 4096

/-- The device identifier of a partition. -/
def State.devid (s : State) (part : Nat) : Nat := (s.part part).devid.toNat

/-- This device is the member that SELF names. -/
def State.isMember (s : State) (part : Nat) (e : CommEntry) : Bool := decide (e.self < e.nmem) && s.memberId part e e.self == s.devid part

/-- The partition of this device that has a device identifier. -/
def State.partOf (s : State) (dev : Nat) : Option Nat := (List.find? (fun e => e.2.devid.toNat == dev) s.parts).map Prod.fst

/-- What a device holds of a communicator when it takes up its entry: the other sequencer counts as heard at that moment. -/
def Comm.fresh (e : CommEntry) (dev now : Nat) : Comm :=
  let role := if e.primary = dev then Role.primary else if e.hasStandby && e.standby % 4096 == dev then .standby else .none
  { image := e.image
    seq := { role := role, epoch := 0, next := e.seq0, keys := [], busy := none, since := 0, heard := now, degraded := false }
    low := e.seq0, known := [], toward := e.primary, epoch := 0, inbox := [], reports := [], cancels := [], asked := [] }

/-- The member agent sends a request, unless the same one waits for its reply. -/
def Comm.request (c : Comm) (a : Ask) (key : BitVec 64) (now : Nat) : Comm :=
  if c.asked.any fun r => r.ask == a && r.key == key then c
  else { c with asked := c.asked ++ [{ ask := a, key := key, since := now, sent := now, toward := c.toward }] }

/-- The reply to a request has come. -/
def Comm.replied (c : Comm) (a : Ask) (key : BitVec 64) : Comm := { c with asked := c.asked.filter fun r => r.ask != a || r.key != key }

/-- A member learns of another primary: its requests go there. -/
def Comm.redirect (c : Comm) (dev : Nat) (epoch : BitVec 32) : Comm :=
  { c with toward := dev, epoch := epoch, asked := c.asked.map fun r => { r with toward := dev } }

/-- A request has been refused for now: it is sent again after 250 µs, to the same sequencer (R409). -/
def Comm.refused (c : Comm) (a : Ask) (key : BitVec 64) (now : Nat) : Comm :=
  { c with asked := c.asked.map fun r => if r.ask == a && r.key == key then { r with since := now, sent := now } else r }

/-- A valid communicator with its entry: as held, or afresh when software has rewritten the entry. -/
def State.comm? (s : State) (part k : Nat) : Option (CommEntry × Comm) :=
  match s.entry? part k with
  | none => none
  | some e =>
    if !e.valid then none
    else
      match Map.find? (s.part part).comms k with
      | some c => some (e, if c.image = e.image then c else Comm.fresh e (s.devid part) s.cycle)
      | none => some (e, Comm.fresh e (s.devid part) s.cycle)

def State.setComm (s : State) (part k : Nat) (c : Comm) : State :=
  s.setPart part { s.part part with comms := (s.part part).comms.put k c }

/-- SEQSTAT (R402), from the entries and the roles. -/
def State.seqStat (s : State) (part : Nat) : Nat :=
  let roles := (List.range 4096).filterMap fun k => (s.comm? part k).map fun p => p.2.seq.role
  let count := fun (r : Role) => (roles.filter (· == r)).length % 65536
  count .primary + 65536 * count .standby + if roles.contains .fenced then 2 ^ 32 else 0

/-- The communicator that a key or a DEVM names. -/
def commOf (x : Word64) : Nat := (x.extractLsb' 52 12).toNat

/-! ## Serial numbers (R409) -/

/-- a precedes b. -/
def precedes (a b : BitVec 32) : Bool := decide (1 ≤ (b - a).toNat) && decide ((b - a).toNat ≤ 2 ^ 31 - 1)

/-- NEXT − OLDEST, 0 when no number is outstanding. -/
def Sequencer.window (q : Sequencer) : Nat := (q.keys.map fun k => (q.next - k.number).toNat).foldl max 0

/-- The window is full: a new registration is refused. -/
def Sequencer.full (q : Sequencer) : Bool := q.window == 65536

/-! ## The primary (R405, R406) -/

def Sequencer.key? (q : Sequencer) (key : BitVec 64) : Option SeqKey := q.keys.find? fun k => k.key == key

def Sequencer.setKey (q : Sequencer) (k : SeqKey) : Sequencer :=
  { q with keys := updFirst (fun x => x.key == k.key) (fun _ => k) q.keys }

/-- A key registered for the first time takes NEXT. -/
def Sequencer.assign (q : Sequencer) (key : BitVec 64) (st : KeyState) (m : Nat) : SeqKey × Sequencer :=
  let k : SeqKey := { key := key, number := q.next, state := st, regs := if st = .assigned then [m] else [], started := [], done := [] }
  (k, { q with keys := q.keys ++ [k], next := q.next + 1 })

/-- The primary handles one request: what it grants, and the table; none when it gives no answer. -/
def Sequencer.handle (q : Sequencer) (nmem : Nat) (a : Ask) (m : Nat) (key : BitVec 64) : Option (Grant × Sequencer) :=
  if q.role ≠ .primary ∨ q.degraded ∨ q.busy.isSome then none
  else
    let grant := fun (k : SeqKey) (st : KeyState) (n : Option Notice) =>
      ({ ask := a, m := m, key := key, number := k.number, state := st, notice := n } : Grant)
    match a, q.key? key with
    | .register, some k =>
      let k' := { k with regs := k.regs.put m }
      some (grant k' k.state none, q.setKey k')
    | .register, none =>
      if q.full then none
      else
        let (k, q') := q.assign key .assigned m
        some (grant k .assigned (some .assigned), q')
    | .cancel, none =>
      if q.full then none
      else
        let (k, q') := q.assign key .void m
        some (grant k .void (some .voided), q')
    | .cancel, some k =>
      if k.state = .assigned then some (grant k .void (some .voided), q.setKey { k with state := .void }) else some (grant k k.state none, q)
    | .start, some k =>
      if k.state = .void then some (grant k .void none, q)
      else some (grant k .started none, q.setKey { k with state := .started, started := k.started.put m })
    | .start, none | .look, _ => none
    | .done, some k =>
      let k' := { k with done := k.done.put m }
      if (k.state = .started ∨ k.state = .void) ∧ nmem ≤ k'.done.length then
        some (grant k' .none (some .retired), { q with keys := q.keys.filter fun x => x.key != key })
      else some (grant k' k.state none, q.setKey k')
    | .done, none => none

/-- The primary refuses a registration, by COLL or by CCANCEL, that would take a new number (R409). -/
def Sequencer.refuses (q : Sequencer) (a : Ask) (key : BitVec 64) : Bool :=
  q.role == .primary && !q.degraded && q.busy.isNone && q.full && (q.key? key).isNone && (a == .register || a == .cancel)

/-- A request changed the assignments or states that the standby holds, the members that have registered, started and finished among them, so
that it can act for a member that is lost (R412). -/
def Sequencer.changed (q q' : Sequencer) : Bool := q.keys != q'.keys

/-- The reply to a request. -/
def Grant.reply (g : Grant) : Option Notice :=
  match g.ask with
  | .register => some (if g.state = .void then .voided else .assigned)
  | .start => some (if g.state = .void then .voided else .go)
  | .cancel => some (.answer (if g.state = .void then 0 else 1))
  | .done | .look => none

/-- A member's request has been granted: it is sent no more, and what it had to tell has been told. -/
def Comm.granted (c : Comm) (g : Grant) : Comm :=
  { c.replied g.ask g.key with
    cancels := if g.ask = .cancel then c.cancels.erase g.key else c.cancels
    reports := if g.ask = .done then c.reports.erase g.key else c.reports }

/-- A grant leaves: this device's own member takes its reply and the notice. Until then its request stands, so that one whose grant waits for the
standby is sent again, and goes to a new primary (R411). -/
def Comm.deliver (c : Comm) (self : Option Nat) (g : Grant) : Comm :=
  let mine := if self = some g.m then g.reply.toList else []
  let all := if self.isSome then g.notice.toList else []
  let c' := if self = some g.m then c.granted g else c
  { c' with inbox := c.inbox ++ (mine ++ all).map fun n => (g.number, g.key, n) }

/-- The member that this device is. -/
def State.selfOf (s : State) (part : Nat) (e : CommEntry) : Option Nat := if s.isMember part e then some e.self else none

/-- This device replicates what it grants: the table names a standby that is another device (R405, R410). -/
def State.replicates (s : State) (part : Nat) (e : CommEntry) : Bool := e.hasStandby && e.standby % 4096 != s.devid part

/-- A request at the primary: granted at once without a standby, or when nothing changes; else once the standby has
acknowledged. -/
def State.sequence (s : State) (part comm : Nat) (a : Ask) (m : Nat) (key : BitVec 64) : Option State :=
  match s.comm? part comm with
  | none => none
  | some (e, c) =>
    if e.nmem ≤ m ∨ commOf key ≠ comm then none
    else
      match c.seq.handle e.nmem a m key with
      | none => none
      | some (g, q) =>
        let c' := if s.replicates part e && c.seq.changed q then { c with seq := { q with busy := some g, since := s.cycle } }
          else { c with seq := q }.deliver (s.selfOf part e) g
        some (s.setComm part comm c')

/-- STANDBY_ACKNOWLEDGEMENT: the standby holds the change, so that it is granted and the notices go (R405). -/
def execStandbyAcknowledgement (part comm : Nat) (key : BitVec 64) (s : State) : Out :=
  match s.comm? part comm with
  | none => .next s
  | some (e, c) =>
    match c.seq.busy with
    | none => .next s
    | some g =>
      if g.key = key ∧ c.seq.role = .primary then
        .next (s.setComm part comm ({ c with seq := { c.seq with busy := none, degraded := false } }.deliver (s.selfOf part e) g))
      else .next s

/-! ## The member agent (R407, R425) -/

/-- A COLL of a partition under a key that is not over. -/
def CollRun.under (r : CollRun) (part : Nat) (key : BitVec 64) : Bool :=
  r.cmd.part == part && r.cmd.regs.getD 0 0 == key && r.stage != .finish

/-- A COLL waits for its number. -/
def State.issued (s : State) (part : Nat) (key : BitVec 64) : Bool := s.colls.any fun r => r.under part key && r.stage == .waiting

def State.setColl (s : State) (id : Nat) (f : CollRun → CollRun) : State :=
  { s with colls := updFirst (fun r => r.cmd.id == id) f s.colls }

/-- Something to tell the primary of a key: DONE or SKIPPED. -/
def State.report (s : State) (part : Nat) (key : BitVec 64) : State :=
  match s.comm? part (commOf key) with
  | some (_, c) => s.setComm part (commOf key) ({ c with reports := c.reports ++ [key] }.request .done key s.cycle)
  | none => s

/-- Signal a COLL's cell and drop it; a translation fault at the cell is served first. A cell that cannot be signalled is an engine
fault that names it (R417). DONE follows. -/
def State.finishColl (s : State) (id : Nat) : State :=
  match s.colls.find? fun r => r.cmd.id == id && r.stage == .finish && !s.engineWaits (.fabric id) with
  | none => s
  | some r =>
    let (fin, s1) := if r.deadCell then (true, s.engineRecord r.cmd 0x0F r.cmd.core 0 r.cmd.cell 0)
      else s.finishCmd r.cmd r.cmd.cell r.status r.cmd.core (.fabric id)
    if !fin then s1
    else
      let s2 := { s1 with colls := s1.colls.filter fun x => x.cmd.id != id }
      if r.report then s2.report r.cmd.part (r.cmd.regs.getD 0 0) else s2

/-- End a COLL with a status. -/
def State.endColl (s : State) (id status : Nat) (report : Bool) : State :=
  (s.setColl id fun r => { r with stage := .finish, status := status, report := report }).finishColl id

/-- End every COLL under a key that a test accepts. -/
def State.endColls (s : State) (part : Nat) (key : BitVec 64) (p : CollRun → Bool) (status : Nat) (report : Bool) : State :=
  (s.colls.filter fun r => r.under part key && p r).foldl (fun s r => s.endColl r.cmd.id status report) s

/-- A member learns of a number; what contradicts what it knows is no notice of this number. -/
def Comm.learn (c : Comm) (n : BitVec 32) (key : BitVec 64) (void : Bool) : Comm :=
  if c.known.any fun k => k.number == n then
    { c with known := updFirst (fun k => k.number == n && k.key == key) (fun k => { k with void := k.void || void }) c.known }
  else { c with known := c.known ++ [{ number := n, key := key, void := void, asking := false, mine := false }] }

/-- The member goes on from LOW in serial order: void numbers are skipped, their COLLs CANCELLED; for an assigned number whose key
it has issued it sends START. -/
def State.advance (s : State) (part comm : Nat) : Nat → State
  | 0 => s
  | fuel + 1 =>
    match s.comm? part comm with
    | none => s
    | some (_, c) =>
      match c.known.find? fun k => k.number == c.low with
      | none => s
      | some k =>
        if k.void then
          let s1 := s.setComm part comm ({ c with low := c.low + 1, reports := c.reports ++ [k.key] }.request .done k.key s.cycle)
          (s1.endColls part k.key (fun _ => true) statusCancelled false).advance part comm fuel
        else if s.issued part k.key then
          let known := updFirst (fun x => x.number == k.number) (fun x => { x with asking := true }) c.known
          s.setComm part comm ({ c with known := known }.request .start k.key s.cycle)
        else s

/-- Go on as far as the numbers known allow. -/
def State.goOn (s : State) (part comm : Nat) : State :=
  match s.comm? part comm with
  | some (_, c) => s.advance part comm (c.known.length + 1)
  | none => s

/-- A query's result reaches its register; the tag is clear (R413). -/
def State.answerQuery (s : State) (q : Query) (v : Word64) : State :=
  { s.deliverResult q.cmd q.word (.scalar q.reg) ⟨v, false⟩ with queries := s.queries.filter fun x => x.cmd.id != q.cmd.id }

/-- RESULT of CCANCEL and of CSEQ. -/
def resultWord (n : BitVec 32) (code : Nat) : Word64 := BitVec.ofNat 64 (n.toNat + 2 ^ 32 * code)

/-- The queries of a kind under a key that have gone to the sequencer: they share one request (R411). -/
def State.queriesOf (s : State) (part : Nat) (cancel : Bool) (key : BitVec 64) : List Query :=
  s.queries.filter fun q => q.cmd.part == part && q.cancel == cancel && q.key == key && q.sent

/-- A command of the same strand for the fabric stands ahead of a query and waits on a slot (03 R69). -/
def State.queryHeld (s : State) (q : Query) : Bool :=
  s.cmds.any fun x => x.sid == q.cmd.sid && x.op.engine == .fabric && decide (x.id < q.cmd.id) && (x.waits || x.gstate == .false)

/-- A query goes to the sequencer, once no waiting command of its strand is ahead; on a FAILED communicator it is answered at once (R412). -/
def State.sendQuery (s : State) (q : Query) : State :=
  let k := commOf q.key
  if q.sent || s.queryHeld q then s
  else if ((s.entry? q.cmd.part k).map CommEntry.failed).getD false then
    s.answerQuery q (resultWord (Config.failedNumber q.word) (if q.cancel then 2 else 5))
  else
    let s1 := { s with queries := updFirst (fun x => x.cmd.id == q.cmd.id) (fun x => { x with sent := true }) s.queries }
    match s1.comm? q.cmd.part k with
    | some (_, c) => s1.setComm q.cmd.part k (c.request (if q.cancel then .cancel else .look) q.key s.cycle)
    | none => s1

/-- The codes that a reply carries (R418, R419). -/
def noticeOk : Notice → Bool
  | .answer code => decide (code ≤ 2)
  | .state code => decide (code ≤ 3) || code == 5
  | _ => true

/-- What a CSEQ finds at the primary (R419). -/
def Sequencer.look (q : Sequencer) (key : BitVec 64) : BitVec 32 × Nat :=
  match q.key? key with
  | none => (q.next, 0)
  | some k => (k.number, match k.state with
    | .none => 0
    | .assigned => 1
    | .started => 2
    | .void => 3)

/-- A member takes a notice or a reply. A void number that it has passed and still knows, since it has not retired, ends a COLL issued under the key
since (20 R425). -/
def State.takeNotice (s : State) (part comm : Nat) (n : BitVec 32) (key : BitVec 64) (what : Notice) : State :=
  match s.comm? part comm with
  | none => s
  | some (_, c) =>
    let past := precedes n c.low
    let c := match what with
      | .assigned => c.replied .register key
      | .voided => (c.replied .register key).replied .start key
      | .retired => c.replied .done key
      | .go => c.replied .start key
      | .answer _ => c.replied .cancel key
      | .state _ => c.replied .look key
      | .refused => (c.refused .register key s.cycle).refused .cancel key s.cycle
    let s := s.setComm part comm c
    match what with
    | .assigned => ((if past then s else s.setComm part comm (c.learn n key false))).goOn part comm
    | .voided =>
      if past then
        if c.known.any fun k => k.number == n && k.key == key then
          s.endColls part key (fun r => r.stage == .waiting && !(c.known.any fun k => k.number != n && k.key == key)) statusCancelled false
        else s
      else (s.setComm part comm (c.learn n key true)).goOn part comm
    | .retired =>
      if past then s.setComm part comm { c with known := c.known.filter fun k => k.number != n, reports := c.reports.erase key } else s
    | .go =>
      if c.known.any fun k => k.number == n && k.key == key && k.asking && n == c.low then
        let known := updFirst (fun k => k.number == n) (fun k => { k with asking := false, mine := true }) c.known
        let s1 := s.setComm part comm { c with known := known, low := c.low + 1 }
        let run := fun (r : CollRun) => if r.under part key && r.stage == .waiting then { r with stage := .started } else r
        { s1 with colls := s1.colls.map run }.goOn part comm
      else s
    | .answer code => (s.queriesOf part true key).foldl (fun s q => s.answerQuery q (resultWord n code)) s
    | .state code => (s.queriesOf part false key).foldl (fun s q => s.answerQuery q (resultWord n code)) s
    | .refused => s

/-- MEMBER_NOTICE: from a primary on another device, or from this device's own. -/
def execMemberNotice (part comm : Nat) (number : BitVec 32) (key : BitVec 64) (what : Notice) (s : State) : Out :=
  match s.comm? part comm with
  | none => .next s
  | some (_, c) =>
    if commOf key ≠ comm || !noticeOk what then .next s
    else if c.seq.role = .primary then
      match what with
      | .state code =>
        if c.seq.busy.isNone ∧ c.seq.look key = (number, code) then .next (s.takeNotice part comm number key what) else .next s
      | _ =>
        if c.inbox.contains (number, key, what) then
          .next ((s.setComm part comm { c with inbox := c.inbox.erase (number, key, what) }).takeNotice part comm number key what)
        else .next s
    else .next (s.takeNotice part comm number key what)

/-! ## Requests (R406, R411) -/

/-- A request at this device's sequencer: one of this device's own member must be due and go to this device. A fenced sequencer redirects it to the
current primary (R410); one that a full window refuses is sent again later (R409). -/
def seqRequest (part comm : Nat) (a : Ask) (m : Nat) (key : BitVec 64) (due : State → Comm → Bool) (s : State) : Out :=
  match s.comm? part comm with
  | none => .next s
  | some (e, c) =>
    let own := s.selfOf part e == some m
    let mine := due s c && c.asked.any fun r => r.ask == a && r.key == key && r.toward == s.devid part
    if (own && !mine) || (!own && !s.portsUp part) then .next s
    else if own && c.seq.role == .fenced then .next (s.setComm part comm (c.redirect (e.standby % 4096) c.epoch))
    else if own && c.seq.refuses a key then .next (s.setComm part comm (c.refused a key s.cycle))
    else .next (((s.wake part).sequence part comm a m key).getD s)

/-- SEQ_REGISTER. -/
def execSeqRegister (part comm : Nat) (key : BitVec 64) (m : Nat) (s : State) : Out :=
  seqRequest part comm .register m key (fun s _ => s.issued part key) s

/-- SEQ_START. -/
def execSeqStart (part comm : Nat) (key : BitVec 64) (m : Nat) (s : State) : Out :=
  seqRequest part comm .start m key (fun _ c => c.known.any fun k => k.key == key && k.asking) s

/-- SEQ_CANCEL: a CCANCEL, or the cancellation of a key whose context has faulted (R412). -/
def execSeqCancel (part comm : Nat) (key : BitVec 64) (m : Nat) (s : State) : Out :=
  seqRequest part comm .cancel m key (fun s c => !(s.queriesOf part true key).isEmpty || c.cancels.contains key) s

/-- SEQ_DONE_REPORT. -/
def execSeqDoneReport (part comm : Nat) (key : BitVec 64) (m : Nat) (s : State) : Out :=
  seqRequest part comm .done m key (fun _ c => c.reports.contains key) s

/-- Cycles of a millisecond of the arithmetic clock, and of R411's 250 µs and 1.5 ms. -/
def cyclesMs : Nat := 3000000

/-- REQUEST_RETRY (R411): a request without a reply for 250 µs is sent again; once 1.5 ms have passed without a takeover notice, to the
standby. -/
def execRequestRetry (part comm : Nat) (key : BitVec 64) (s : State) : Out :=
  match s.comm? part comm with
  | some (e, c) =>
    let due := fun (r : Asked) => r.key == key && decide (cyclesMs / 4 ≤ s.cycle - r.sent)
    let late := fun (r : Asked) => c.epoch == 0 && e.hasStandby && decide (3 * cyclesMs / 2 ≤ s.cycle - r.since)
    let again := fun (r : Asked) => { r with sent := s.cycle, toward := if late r then e.standby % 4096 else r.toward }
    if c.asked.any due then .next (s.setComm part comm { c with asked := updFirst due again c.asked }) else .next s
  | none => .next s

/-! ## Failover (R410) -/

/-- Update a communicator's sequencer when a test of its entry and itself holds. -/
def onSequencer (part comm : Nat) (p : CommEntry → Sequencer → Bool) (f : CommEntry → Sequencer → Sequencer) (s : State) : Out :=
  match s.comm? part comm with
  | some (e, c) => .next (if p e c.seq then s.setComm part comm { c with seq := f e c.seq } else s)
  | none => .next s

/-- A primary that sees a higher EPOCH is fenced: it stops granting. -/
def Sequencer.fence (q : Sequencer) (epoch : BitVec 32) : Sequencer :=
  if q.role = .primary ∧ q.epoch < epoch then { q with role := .fenced, busy := none } else q

/-- REPLICATION_APPLY: the standby applies a message, then acknowledges it. -/
def Sequencer.apply (q : Sequencer) (r : Replica) : Sequencer :=
  if q.role = .standby then
    if r.epoch < q.epoch then q
    else
      let rest := q.keys.filter fun k => k.key != r.key
      let new : SeqKey := { key := r.key, number := r.number, state := r.state, regs := r.regs, started := r.started, done := r.done }
      let next := if (q.key? r.key).isNone ∧ r.state ≠ .none then r.number + 1 else q.next
      { q with epoch := r.epoch, next := next
               keys := if r.state = .none then rest else rest ++ [new] }
  else q.fence r.epoch

def execReplicationApply (part comm : Nat) (r : Replica) (s : State) : Out :=
  onSequencer part comm (fun _ _ => decide (commOf r.key = comm)) (fun _ q => q.apply r) s

/-- HEARTBEAT: the other sequencer is heard. -/
def execHeartbeat (part comm : Nat) (s : State) : Out :=
  onSequencer part comm (fun _ _ => true) (fun _ q => { q with heard := s.cycle }) s

/-- STANDBY_TAKEOVER: 1 ms without a heartbeat makes the standby PRIMARY with the next EPOCH; NEXT follows the last replicated
assignment. Its notice reaches this device's own member too. A standby counts the time from when it first acts under its entry (log 24). -/
def execStandbyTakeover (part comm : Nat) (s : State) : Out :=
  match s.comm? part comm with
  | some (_, c) =>
    if c.seq.role = .standby ∧ cyclesMs ≤ s.cycle - c.seq.heard then
      let q := { c.seq with role := .primary, epoch := c.seq.epoch + 1, busy := none, degraded := false }
      .next (s.setComm part comm ({ c with seq := q }.redirect (s.devid part) q.epoch))
    else .next (s.setComm part comm c)
  | none => .next s

/-- PRIMARY_DEGRADED: no acknowledgement for 2 ms. -/
def execPrimaryDegraded (part comm : Nat) (s : State) : Out :=
  onSequencer part comm (fun _ q => q.role == .primary && q.busy.isSome && decide (2 * cyclesMs ≤ s.cycle - q.since))
    (fun _ q => { q with degraded := true }) s

/-- EPOCH_FENCE. -/
def execEpochFence (part comm : Nat) (epoch : BitVec 32) (s : State) : Out :=
  onSequencer part comm (fun _ q => q.role == .primary && decide (q.epoch < epoch)) (fun _ q => q.fence epoch) s

/-- TAKEOVER_NOTICE: requests go to the new primary from now on; an old primary is fenced. -/
def execTakeoverNotice (part comm dev : Nat) (epoch : BitVec 32) (s : State) : Out :=
  match s.comm? part comm with
  | some (e, c) =>
    if e.hasStandby ∧ dev = e.standby % 4096 ∧ c.epoch < epoch then
      .next (s.setComm part comm ({ c with seq := c.seq.fence epoch }.redirect dev epoch))
    else .next s
  | none => .next s

/-! ## Losing a member or a communicator (R412) -/

/-- MEMBER_UNREACHABLE: on a lost member's behalf the sequencer cancels one of its keys that has not started, or reports one that
it has started as FAILED, which counts as its last report. -/
def execMemberUnreachable (part comm m : Nat) (s : State) : Out :=
  match s.comm? part comm with
  | none => .next s
  | some (e, c) =>
    if c.seq.role ≠ .primary ∨ s.selfOf part e = some m ∨ e.nmem ≤ m then .next s
    else
      match c.seq.keys.find? fun k => k.state == .assigned && k.regs.contains m with
      | some k => .next ((s.sequence part comm .cancel m k.key).getD s)
      | none =>
        match c.seq.keys.find? fun k => k.started.contains m && !k.done.contains m with
        | some k =>
          let s1 := (s.sequence part comm .done m k.key).getD s
          .next (s1.endColls part k.key (fun r => r.stage == .started || r.stage == .running) statusFaulted true)
        | none => .next s

/-- FAILED_REPORT: a started collective ends with FAULTED, and DONE is reported. -/
def execFailedReport (part comm : Nat) (key : BitVec 64) (s : State) : Out :=
  if commOf key ≠ comm then .next s
  else .next (s.endColls part key (fun r => r.stage == .started || r.stage == .running) statusFaulted true)

/-- Set CFLAGS.FAILED of an entry (R412). -/
def State.failEntry (s : State) (part comm : Nat) (e : CommEntry) (c : Comm) : State :=
  let s1 := s.writeHome (e.at_ + 2) [BitVec.ofNat 8 (e.flags ||| 2)]
  s1.setComm part comm { c with image := s1.bytesAt e.at_ 64 }

/-- COMMUNICATOR_FAILURE: the primary of a communicator without a standby is lost: FAILED is set, and every outstanding COLL, CCANCEL
and CSEQ of it ends. -/
def execCommunicatorFailure (part comm : Nat) (s : State) : Out :=
  match s.comm? part comm with
  | none => .next s
  | some (e, c) =>
    if e.hasStandby ∨ e.primary = s.devid part ∨ e.failed then .next s
    else
      let s1 := s.failEntry part comm e c
      let s2 := (s1.colls.filter fun r => r.cmd.part == part && commOf (r.cmd.regs.getD 0 0) == comm && r.stage != .finish).foldl
        (fun s r => s.endColl r.cmd.id statusFaulted false) s1
      .next ((s2.queries.filter fun q => q.cmd.part == part && commOf q.key == comm).foldl
        (fun s q => s.answerQuery q (resultWord (Config.failedNumber q.word) (if q.cancel then 2 else 5))) s2)

end Sys2Proof.Machine
end

