-- ==== Sys2Proof/Machine/Fabric.lean ====
section
/-! DEFINITION. The fabric words and the fabric agent (19 R399 to R401, R413 to R423): COLL and its run, CCANCEL, CSEQ, FPUT and FGET,
and what comes in from other devices. -/

namespace Sys2Proof.Machine

/-! ## The checks of R414 -/

/-- Bytes of an element of a type (03 R61), none for the types that R415 does not take. -/
def collBytes (t : Nat) : Option Nat :=
  match t with
  | 0 | 1 | 8 => some 4
  | 2 | 3 | 9 | 10 => some 2
  | 4 | 5 | 11 | 12 => some 1
  | 6 | 7 => some 8
  | _ => none

/-- CTL's fields (R415). -/
structure Ctl where
  t : Nat
  op : Nat
  red : Nat
  root : Nat
  deriving DecidableEq, Repr

def ctlOf (x : Word64) : Ctl :=
  { t := (x.extractLsb' 0 4).toNat, op := (x.extractLsb' 4 3).toNat, red := (x.extractLsb' 7 3).toNat, root := (x.extractLsb' 10 12).toNat }

/-- CTL is as R415 says, for a communicator of `n` members. -/
def ctlOk (x : Word64) (n : Nat) : Bool :=
  let c := ctlOf x
  x.extractLsb' 22 42 == 0 && decide (c.op ≤ 4) &&
    if c.op = 0 ∨ c.op = 2 then
      ([0, 1, 6, 7].contains c.t && decide (c.red ≤ 5) || c.t == 8 && decide (c.red ≤ 2)) && c.root == 0
    else decide (c.t ≤ 12) && c.red == 0 && (if c.op = 3 then decide (c.root < n) else c.root == 0)

/-- Bytes of SRC and of DST on one member (R416). -/
def collSizes (c : Ctl) (n count : Nat) : Nat × Nat :=
  let z := (collBytes c.t).getD 1
  let one := count * z
  let all := n * one
  match c.op with
  | 1 => (one, all)
  | 2 => (all, one)
  | 4 => (all, all)
  | _ => (one, one)

/-- The entry serves a strand: VALID, its context, and this device as SELF. -/
def State.serves (s : State) (part ctx : Nat) (e : CommEntry) : Bool :=
  e.valid && ctx % 4096 == e.ctx && s.isMember part e

/-- Check 4 of a local range. -/
def Segs.localTrap (g : Segs) (a : Word64) (n : Nat) : Option Trap :=
  if n = 0 then none
  else
    match apertureOf a with
    | none => some ⟨Cause.addressHole, a⟩
    | some ap =>
      match g.limit ap a n with
      | .error t => some t
      | .ok _ => none

/-- A range of local memory that lies in the scratchpad aperture. -/
def inScratch (a : Word64) (n : Nat) : Bool := decide (n ≠ 0) && apertureOf a == some .scratch

/-- The checks of a communicator that a register names. -/
def State.commTrap (s : State) (part ctx : Nat) (x : Word64) : Except Trap CommEntry :=
  match s.entry? part (commOf x) with
  | none => .error ⟨Cause.engineFault, x⟩
  | some e => if s.serves part ctx e then .ok e else .error ⟨Cause.engineFault, x⟩

/-- ENGINE_FAULT with a register's value. -/
def engineFault (x : Word64) : Trap := ⟨Cause.engineFault, x⟩

/-- A nonzero cell is aligned. -/
def cellTrap (a : Word64) : Option Trap := if a.toNat % 16 ≠ 0 then some ⟨Cause.misaligned, a⟩ else none

/-- Ranges of `n` and `m` bytes that overlap. -/
def rangesMeet (a b : Word64) (n m : Nat) : Bool := decide (a.toNat < b.toNat + m) && decide (b.toNat < a.toNat + n) && decide (n ≠ 0) && decide (m ≠ 0)

/-- Checks 2 to 4 of COLL (R414, R415). -/
def State.collTrap (s : State) (c : Cmd) : Option Trap :=
  let r := fun k => c.regs.getD k 0
  let ctl := ctlOf (r 4)
  let z := (collBytes ctl.t).getD 1
  ((cellTrap (r 5)).orElse fun _ => ([r 1, r 2].find? fun a => decide (a.toNat % z ≠ 0)).map fun a => ⟨Cause.misaligned, a⟩).orElse fun _ =>
    match s.commTrap c.part c.ctx (r 0) with
    | .error t => some t
    | .ok e =>
      if !ctlOk (r 4) e.nmem then some (engineFault (r 4))
      else if 2 ^ 32 ≤ (r 3).toNat then some (engineFault (r 3))
      else
        let (sn, dn) := collSizes ctl e.nmem (r 3).toNat
        if 2 ^ 40 ≤ sn || inScratch (r 1) sn then some (engineFault (r 1))
        else if 2 ^ 40 ≤ dn || inScratch (r 2) dn then some (engineFault (r 2))
        else if r 1 ≠ r 2 ∧ rangesMeet (r 1) (r 2) sn dn then some (engineFault (r 2))
        else (c.segs.localTrap (r 1) sn).orElse fun _ => c.segs.localTrap (r 2) dn

/-- Checks 2 to 4 of FPUT and FGET. -/
def State.moveTrap (s : State) (c : Cmd) (rcell : Word64) : Option Trap :=
  let r := fun k => c.regs.getD k 0
  ((cellTrap (r 4)).orElse fun _ => cellTrap rcell).orElse fun _ =>
    match s.commTrap c.part c.ctx (r 0) with
    | .error t => some t
    | .ok e =>
      if e.nmem ≤ ((r 0).extractLsb' 0 12).toNat then some (engineFault (r 0))
      else if 2 ^ 40 ≤ (r 3).toNat then some (engineFault (r 3))
      else if inScratch (r 2) (r 3).toNat then some (engineFault (r 2))
      else c.segs.localTrap (r 2) (r 3).toNat

/-! ## The words (R413) -/

/-- COLL (R415): a fork of span P. -/
def execColl (o : Wide) (s : State) : Out := commandWord (.coll o) .coll false o 6 4 (fun _ _ => true) (fun _ => []) (fun s _ c => s.collTrap c) s

/-- FPUT (R420). -/
def execFput (o : Wide) (s : State) : Out :=
  commandWord (.fput o) .fput false o 6 4 (fun _ _ => true) (fun _ => []) (fun s _ c => s.moveTrap c (c.regs.getD 5 0)) s

/-- FGET (R421). -/
def execFget (o : Wide) (s : State) : Out := commandWord (.fget o) .fget false o 5 4 (fun _ _ => true) (fun _ => []) (fun s _ c => s.moveTrap c 0) s

/-- CCANCEL and CSEQ: a query of every slice, which waits for the reply. It goes to the sequencer behind the strand's commands for the fabric that
wait on a slot (03 R69). -/
def queryWord (i : Instr) (o : Wide) (cancel : Bool) (s : State) : Out :=
  runWord i s fun g s =>
    let c := s.rctx g
    let key := fun (sl : Slice) => (sl.readS c o.ss).v
    let trapOf := fun (sl : Slice) =>
      if (sl.readS c o.ss).tag then some (⟨Cause.poisonUse, 32⟩ : Trap)
      else match s.commTrap g.part g.ctx (key sl) with
        | .error t => some t
        | .ok _ => none
    match g.firstTrap trapOf with
    | some t => .next (s.trapped g t)
    | none =>
      if s.twinWaits g then .next (s.setCur { g with park := .twin false })
      else
        let s1 := s.irrevocable g
        let rd : SReg := o.ss + 1
        let ask := fun (s : State) (sl : Slice) =>
          let q : Query := { cmd := { g.command sl .coll false { o with aux := 0 } [] with id := s.nextId }, cancel := cancel, key := key sl
                             word := c.word, reg := sl.scalKey rd, since := s.cycle, sent := false }
          { s with queries := s.queries ++ [q], nextId := s.nextId + 1 }
        let s2 := if s1.isShadow g then s1 else g.slices.foldl ask s1
        let g' := (s2.cur.getD g).mapSlices fun sl => ((sl.expectS c rd).takeMail c.word).advance 12 true
        let s3 := s2.wordDone g'
        .next ((s3.queries.filter fun q => q.word == c.word && !q.sent).foldl State.sendQuery s3)

/-- CCANCEL (R418). -/
def execCcancel (o : Wide) (s : State) : Out := queryWord (.ccancel o) o true s

/-- CSEQ (R419). -/
def execCseq (o : Wide) (s : State) : Out := queryWord (.cseq o) o false s

/-! ## COLL (R416, R417) -/

/-- One step of a fold: ADD, MIN, MAX, AND, OR, XOR. -/
def collStep (t red x y : Nat) : Nat :=
  if t = 8 then
    let a := f32 (BitVec.ofNat 32 x)
    let b := f32 (BitVec.ofNat 32 y)
    (rd (match red with
      | 0 => a.add false b
      | 1 => a.min b
      | _ => a.max b)).toNat
  else
    let w := 8 * (collBytes t).getD 1
    let num := fun (v : Nat) => if t % 2 = 0 then (BitVec.ofNat w v).toInt else (v : Int)
    match red with
    | 0 => (x + y) % 2 ^ w
    | 1 => if num x ≤ num y then x else y
    | 2 => if num y ≤ num x then x else y
    | 3 => x &&& y
    | 4 => x ||| y
    | _ => x ^^^ y

/-- The fold in ascending member index; a NaN result is canonical. -/
def collFold (t red : Nat) : List Nat → Nat
  | [] => 0
  | x :: xs =>
    let r := xs.foldl (collStep t red) x
    if t = 8 ∧ nanF (BitVec.ofNat 32 r) then 0x7FC00000 else r

/-- DST of member `r` from every member's SRC. -/
def collResult (c : Ctl) (r count : Nat) (srcs : List (List Byte)) : List Byte :=
  let z := (collBytes c.t).getD 1
  let one := count * z
  match c.op with
  | 1 => srcs.flatMap fun b => b.take one
  | 3 => (srcs.getD c.root []).take one
  | 4 => srcs.flatMap fun b => (b.drop (r * one)).take one
  | _ =>
    let at_ := if c.op = 2 then r * one else 0
    (List.range count).flatMap fun i =>
      toBytes (BitVec.ofNat (8 * z) (collFold c.t c.red (srcs.map fun b => fieldOf b (at_ + i * z) z))) z

/-- A COLL takes part under its key: it is FAULTED at once when its communicator has FAILED, or when the key is outstanding on this
device (R412, R417). -/
def State.beginColl (s : State) (c : Cmd) : State :=
  let key := c.regs.getD 0 0
  let s1 := s.dropCmd c.id
  let r : CollRun := { cmd := c, stage := .waiting, since := s.cycle, src := [], dst := [], failed := false, status := 0, report := false, deadCell := false }
  let outstanding := s.colls.any fun x => x.cmd.part == c.part && x.cmd.regs.getD 0 0 == key
  let add : State := { s1 with colls := s1.colls ++ [r] }
  match s.comm? c.part (commOf key) with
  | none => add.endColl c.id statusFaulted false
  | some (e, k) =>
    if e.failed || outstanding || k.known.any (fun x => x.key == key && x.mine) then add.endColl c.id statusFaulted false
    else
      let past := k.known.any fun x => x.key == key && x.void && precedes x.number k.low
      if past then add.endColl c.id statusCancelled false
      else (add.setComm c.part (commOf key) (k.request .register key s.cycle)).goOn c.part (commOf key)

/-- The physical ranges that a DST takes. -/
def homeParts (ps : List (Nat × Where × Nat)) : List (Nat × Nat × Nat) :=
  ps.map fun p => (p.1, (match p.2.1 with
    | .l1 pa _ | .home pa | .scratch pa => pa), p.2.2)

/-- A COLL that cannot go on: FAULTED on every member, nothing written (R417). -/
def State.collFails (s : State) (c : Cmd) (a : Word64) : State :=
  (s.engineRecord c 0x0F c.core 0 a 0).setColl c.id fun r => { r with stage := .running, failed := true }

/-- COLL_START: the members compare CTL and COUNT; this member reaches SRC and DST, and reads SRC, in BCAST at ROOT only (R416, R417). `others` are the other members'
CTL and COUNT. -/
def execCollStart (part : Nat) (key : BitVec 64) (others : List (BitVec 64 × BitVec 64)) (s : State) : Out :=
  match s.colls.find? fun r => r.under part key && r.stage == .started && !s.engineWaits (.fabric r.cmd.id) with
  | none => .next s
  | some r =>
    let c := r.cmd
    let reg := fun k => c.regs.getD k 0
    match s.comm? part (commOf key) with
    | none => .next s
    | some (e, _) =>
      if others.length + 1 ≠ e.nmem then .next s
      else if others.any fun p => p.1 != reg 4 || p.2 != reg 3 then .next (s.endColl c.id statusFaulted true)
      else
        let ctl := ctlOf (reg 4)
        let (sn, dn) := collSizes ctl e.nmem (reg 3).toNat
        let reads := ctl.op ≠ 3 ∨ ctl.root = e.self
        match s.run (do
          let ps ← reachE c true c.core (reg 2) dn
          let bs ← if reads then readHomeE c c.core (reg 1) sn else do
            let _ ← uncountedE (reachE c false c.core (reg 1) sn)
            pure []
          pure (homeParts ps, bs)) with
        | (.error (.fault f), s1, _) => .next (s1.addFault f (.fabric c.id)).2
        | (.error (.stop a), s1, _) => .next (s1.collFails c a)
        | (.error .wait, s1, _) => .next s1
        | (.ok (ps, bs), s1, bad) =>
          let s2 := if bad then s1.consume c.ctx chkFabric else s1
          .next (s2.setColl c.id fun r => { r with stage := .running, src := bs, dst := ps, failed := bad })

/-- COLL_COMPLETE: every member has reached its DST and sent its SRC (`srcs`, in member order, this member's own replaced), or some
member has failed: DST is written at home, then the cell signalled at span P. A cell in DST that has had a strand parked on it since DST was
reached is an engine fault, and nothing is written (01 R17). -/
def execCollComplete (part : Nat) (key : BitVec 64) (srcs : List (List Byte)) (failed : Bool) (s : State) : Out :=
  match s.colls.find? fun r => r.under part key && r.stage == .running with
  | none => .next s
  | some r =>
    let reg := fun k => r.cmd.regs.getD k 0
    match s.comm? part (commOf key) with
    | none => .next s
    | some (e, _) =>
      if failed || r.failed then .next (s.endColl r.cmd.id statusFaulted true)
      else
        let ctl := ctlOf (reg 4)
        let sn := (collSizes ctl e.nmem (reg 3).toNat).1
        let all := srcs.set e.self r.src
        let whole := (List.range e.nmem).all fun m => decide ((all.getD m []).length = sn) || (decide (ctl.op = 3) && decide (m ≠ ctl.root))
        if srcs.length ≠ e.nmem ∨ !whole then .next s
        else
          let out := collResult ctl e.self (reg 3).toNat all
          match r.dst.find? fun p => s.hitsWaiter p.2.1 p.2.2 with
          | some p => .next ((s.engineRecord r.cmd 0x0F r.cmd.core 0 (reg 2 + BitVec.ofNat 64 p.1) 0).endColl r.cmd.id statusFaulted true)
          | none =>
          let s1 := r.dst.foldl (fun s p => s.writeHome p.2.1 ((out.drop p.1).take p.2.2)) s
          .next (s1.endColl r.cmd.id statusOk true)

/-! ## FPUT (R420, R422, R423) -/

/-- The fabric agent's translation unit in a partition. -/
def fabricUnit (part : Nat) : Nat := 768 + part

/-- An access that comes in for a communicator: in its CTX, as user mode. -/
def incoming (part ctx op : Nat) : Cmd :=
  { id := op, op := .fput, flag := false, sid := 0, part := part, ctx := 4096 * part + ctx, core := fabricUnit part, quad := 0, crew := none
    segs := rootSegs, guard := none, gstate := .true, regs := [] }

/-- The core of the partition that owns the port over which an operation comes (R423): a free choice (log 24). -/
def State.portOwner (s : State) (part op : Nat) : Nat :=
  let dies := (s.part part).dies
  let n := Config.portCore op % (48 * dies.length)
  48 * dies.getD (n / 48) 0 + n % 48

/-- The device that DEVM names. -/
def State.targetOf (s : State) (c : Cmd) : Nat :=
  match s.entry? c.part (commOf (c.regs.getD 0 0)) with
  | some e => s.memberId c.part e ((c.regs.getD 0 0).extractLsb' 0 12).toNat
  | none => 0

/-- Mark the units of a range uncorrectable (21 R427). -/
def State.markBad (s : State) (pa n : Nat) : State := { s with bad8 := (unitsOf 8 pa n).foldl NatSet.put s.bad8 }

/-- Mark the units at home of the bytes, by their places in what was written, that were read with an uncorrectable error (R423). -/
def State.markBytes (s : State) (ps : List (Nat × Where × Nat)) (bad : NatSet) : State :=
  (homeParts ps).foldl (fun s q => (bad.filter fun i => decide (q.1 ≤ i) && decide (i < q.1 + q.2.2)).foldl (fun s i => s.markBad (q.2.1 + i - q.1) 1) s) s

/-- What becomes of a packet at its target. -/
inductive Landed where
  | done | failed | waits
  deriving DecidableEq, Repr

/-- A packet is performed at its target: translated in CTX with W and USER; faults are served here (R423). Data that was read with an
uncorrectable error is written marked. -/
def State.land (s : State) (part : Nat) (p : Packet) : Landed × State :=
  let u := FaultUnit.packet p.op p.va.toNat
  match s.entry? part p.comm with
  | none => (.failed, s)
  | some e =>
    let c := incoming part e.ctx p.op
    let port := s.portOwner part p.op
    if !e.valid ∨ p.va.extractLsb' 56 8 ≠ 0 then (.failed, s)
    else if s.engineWaits u then (.waits, s)
    else if p.signal then
      match s.reachCell c.core part c.ctx rootSegs p.va with
      | (.at pa, s1) => (.done, s1.signalCell pa 1 statusOk false .pod)
      | (.cannot, s1) => (.failed, s1)
      | (.fault why lv e pool va, s1) =>
        (.waits, (s1.addFault { token := 0, part := part, ctx := c.ctx, va := va, acc := 2, why := why, level := lv, entryAt := e, pool := pool
                                units := [], unitno := port, stage := .new, since := s.cycle } u).2)
    else
      match s.run (reachE c true port p.va p.data.length) with
      | (.error (.fault f), s1, _) => (.waits, (s1.addFault f u).2)
      | (.error _, s1, _) => (.failed, s1)
      | (.ok ps, s1, _) =>
        let s2 := s1.storeAll c true ps p.data
        (.done, s2.markBytes ps p.bad)

def State.setPut (s : State) (id : Nat) (f : PutRun → PutRun) : State :=
  { s with puts := updFirst (fun r => r.cmd.id == id) f s.puts }

/-- FPUT_PACKET_PERFORM: a packet of another device, or one on its way between partitions of this device. -/
def execFputPacketPerform (part : Nat) (p : Packet) (s : State) : Out :=
  if !s.portsUp part then .next s else
  match s.partOf p.origin with
  | none => .next ((s.wake part).land part p).2
  | some _ =>
    match s.puts.find? fun r => r.cmd.id == p.op && s.partOf (s.targetOf r.cmd) == some part && r.flight.any fun f => f.p == p && !f.held with
    | none => .next s
    | some r =>
      let (l, s1) := (s.wake part).land part p
      let mark := fun (r : PutRun) =>
        { r with flight := updFirst (fun f => f.p == p) (fun f => { f with held := true, failed := l == .failed }) r.flight }
      .next (if l = .waits then s1 else s1.setPut r.cmd.id mark)

/-- An FPUT is taken up; on a FAILED communicator it ends at once with FAULTED (R412). -/
def State.beginPut (s : State) (c : Cmd) : State :=
  let failed := ((s.entry? c.part (commOf (c.regs.getD 0 0))).map CommEntry.failed).getD true
  let r : PutRun := { cmd := c, sent := 0, flight := [], owed := c.acks, signalled := false, status := if failed then statusFaulted else statusOk
                      ended := failed, deadCell := false }
  { s.dropCmd c.id with puts := s.puts ++ [r] }

/-- One acknowledgement less is awaited. -/
def State.repay (s : State) (r : PutRun) (f : PutRun → PutRun) : State :=
  (s.paid r.cmd.core 1).setPut r.cmd.id fun r => { f r with owed := r.owed - 1 }

/-- Read and send the next packet, or, when every packet has been acknowledged, the remote signal. -/
def State.sendPut (s : State) (r : PutRun) : State :=
  let c := r.cmd
  let reg := fun k => c.regs.getD k 0
  let base : Packet := { comm := commOf (reg 0), va := 0, data := [], bad := [], signal := false, origin := s.devid c.part, op := c.id }
  let fly := fun (p : Packet) => ({ p := p, sent := s.cycle, again := false, held := false, failed := false } : Flight)
  if r.ended || s.engineWaits (.fabric c.id) then s
  else if r.sent < c.packets then
    let off := c.packetAt r.sent
    match s.run (readMarkedE c c.core (reg 2 + BitVec.ofNat 64 off) (c.packetLen r.sent)) with
    | (.error (.fault f), s1, _) => (s1.addFault f (.fabric c.id)).2
    | (.error (.stop a), s1, _) => (s1.engineRecord c 0x0F c.core 0 a 0).repay r fun r => { r with sent := r.sent + 1, status := statusFaulted }
    | (.error .wait, s1, _) => s1
    | (.ok (bs, marks), s1, bad) =>
      let s2 := if bad then s1.consume c.ctx chkFabric else s1
      let p := { base with va := reg 1 + BitVec.ofNat 64 off, data := bs, bad := marks }
      s2.setPut c.id fun r => { r with sent := r.sent + 1, flight := r.flight ++ [fly p], status := if bad then statusFaulted else r.status }
  else if r.flight.isEmpty && reg 5 != 0 && !r.signalled then
    s.setPut c.id fun r => { r with signalled := true, flight := [fly { base with va := reg 5, signal := true }] }
  else s

/-- FABRIC_ACK: an acknowledgement of a packet of command `c` reaches its core's counter (R400). -/
def execFabricAck (core c : Nat) (failed : Bool) (s : State) : Out :=
  match s.puts.find? fun r => r.cmd.id == c && r.cmd.core == core && !r.ended with
  | none => .next s
  | some r =>
    let here := (s.partOf (s.targetOf r.cmd)).isSome
    match r.flight.find? fun f => f.held || !here with
    | none => .next s
    | some f =>
      .next (s.repay r fun r => { r with flight := r.flight.erase f
                                         status := if f.failed || (failed && !here) then statusFaulted else r.status })

/-- Every acknowledgement has come, or the FPUT has ended. -/
def PutRun.over (r : PutRun) : Bool :=
  r.ended || (decide (r.cmd.packets ≤ r.sent) && r.flight.isEmpty && (r.signalled || r.cmd.regs.getD 5 0 == 0))

/-- FPUT_COMPLETE: CELL is signalled by 1 with the status. What an ended FPUT still owes its core's counter is given up. -/
def execFputComplete (id : Nat) (s : State) : Out :=
  match s.puts.find? fun r => r.cmd.id == id && r.over && !s.engineWaits (.fabric id) with
  | none => .next s
  | some r =>
    let (fin, s1) := if r.deadCell then (true, s.engineRecord r.cmd 0x0F r.cmd.core 0 r.cmd.cell 0)
      else s.finishCmd r.cmd r.cmd.cell r.status r.cmd.core (.fabric id)
    if fin then .next { s1.paid r.cmd.core r.owed with puts := s1.puts.filter fun x => x.cmd.id != id } else .next s1

/-! ## FGET (R421) -/

def State.setGet (s : State) (id : Nat) (f : GetRun → GetRun) : State :=
  { s with gets := updFirst (fun r => r.cmd.id == id) f s.gets }

/-- Change a packet of an FGET. -/
def GetRun.setPart (r : GetRun) (k : Nat) (f : GetPart → GetPart) : GetRun :=
  { r with parts := r.parts.zipIdx.map fun p => if p.2 = k then f p.1 else p.1 }

/-- An FGET is taken up: every packet is asked for, unless its communicator has FAILED (R412). -/
def State.beginGet (s : State) (c : Cmd) : State :=
  let failed := ((s.entry? c.part (commOf (c.regs.getD 0 0))).map CommEntry.failed).getD true
  let r : GetRun := { cmd := c, parts := List.replicate c.packets { sent := s.cycle, again := false, reply := none, done := false }, stuck := 0
                      status := if failed then statusFaulted else statusOk, ended := failed, deadCell := false }
  { s.dropCmd c.id with gets := s.gets ++ [r] }

/-- Every packet is over, or the FGET has ended. -/
def GetRun.over (r : GetRun) : Bool := r.ended || r.parts.all GetPart.done

/-- Signal an FGET's cell and drop it. -/
def State.finishGet (s : State) (id : Nat) : State :=
  match s.gets.find? fun r => r.cmd.id == id && r.over && !s.engineWaits (.fabric id) with
  | none => s
  | some r =>
    let (fin, s1) := if r.deadCell then (true, s.engineRecord r.cmd 0x0F r.cmd.core 0 r.cmd.cell 0)
      else s.finishCmd r.cmd r.cmd.cell r.status r.cmd.core (.fabric id)
    if fin then { s1 with gets := s1.gets.filter fun x => x.cmd.id != id } else s1

/-- A packet of an FGET that asks for `len` bytes at `va` and has no reply. -/
def GetRun.asks (r : GetRun) (va : BitVec 64) (len : Nat) : Option Nat :=
  if r.over then none
  else (r.parts.zipIdx.find? fun p =>
    p.1.reply.isNone && !p.1.done && r.cmd.regs.getD 1 0 + BitVec.ofNat 64 (r.cmd.packetAt p.2) == va && r.cmd.packetLen p.2 == len).map Prod.snd

/-- FGET_TARGET_READ: this device serves the read of a packet at its home slices, in CTX with R and USER. A reply to an FGET of a partition of this
device is kept for it; a reply to another device leaves. -/
def execFgetTargetRead (part comm : Nat) (va : BitVec 64) (len tag : Nat) (s : State) : Out :=
  let u := FaultUnit.packet tag va.toNat
  match s.entry? part comm with
  | none => .next s
  | some e =>
    let c := incoming part e.ctx tag
    let mine := (s.gets.find? fun r => r.cmd.id == tag && s.partOf (s.targetOf r.cmd) == some part).bind fun r => r.asks va len
    let reply := fun (s : State) (x : List Byte × NatSet × Bool) =>
      match mine with
      | some k => s.setGet tag fun r => r.setPart k fun p => { p with reply := some x }
      | none => s
    if !s.portsUp part || !e.valid || s.engineWaits u then .next s
    else if va.extractLsb' 56 8 ≠ 0 then .next (reply s ([], [], true))
    else
      match (s.wake part).run (readMarkedE c (s.portOwner part tag) va len) with
      | (.error (.fault f), s1, _) => .next (s1.addFault f u).2
      | (.error _, s1, _) => .next (reply s1 ([], [], true))
      | (.ok (bs, bad), s1, _) => .next (reply s1 (bs, bad, false))

/-- FGET_COMPLETE: what the target has read for a packet is written at local home slices, marked where it was read with an uncorrectable error,
the other packets apart from it; after the last one CELL is signalled. -/
def execFgetComplete (id k : Nat) (data : Payload) (failed : Bool) (s : State) : Out :=
  let (data, bad) := (data.bytes, data.bad)
  match s.gets.find? fun r => r.cmd.id == id && !s.engineWaits (.fabric id) with
  | none => .next s
  | some r =>
    let c := r.cmd
    let here := (s.partOf (s.targetOf c)).isSome
    let lose := fun (s : State) => (s.setGet id fun r => { r.setPart k fun p => { p with done := true } with status := statusFaulted }).finishGet id
    match r.parts[k]? with
    | none => .next (s.finishGet id)
    | some p =>
      if r.over || p.done then .next (s.finishGet id)
      else if here && p.reply != some (data, bad, failed) then .next s
      else if failed then .next (lose s)
      else if data.length ≠ c.packetLen k then .next s
      else
        match s.run (reachE c true c.core (c.regs.getD 2 0 + BitVec.ofNat 64 (c.packetAt k)) data.length) with
        | (.error (.fault f), s1, _) => .next ((s1.addFault f (.fabric id)).2.setGet id fun r => { r with stuck := k })
        | (.error (.stop a), s1, _) => .next (lose (s1.engineRecord c 0x0F c.core 0 a 0))
        | (.error .wait, s1, _) => .next s1
        | (.ok ps, s1, _) =>
          let s2 := (s1.storeAll c true ps data).markBytes ps bad
          let s3 := if bad.isEmpty then s2 else s2.consume c.ctx chkFabric
          .next ((s3.setGet id fun r =>
            { r.setPart k fun p => { p with done := true } with status := if bad.isEmpty then r.status else statusFaulted }).finishGet id)

/-! ## Paths (R399) -/

/-- PACKET_RESEND: the n-th packet of a command that no path has delivered for 1 ms is sent over another path. -/
def execPacketResend (id n : Nat) (s : State) : Out :=
  let late := fun (t : Nat) => decide (cyclesMs ≤ s.cycle - t)
  match s.puts.find? fun r => r.cmd.id == id with
  | some r =>
    match r.flight[n]? with
    | some f =>
      if late f.sent && !f.again && !f.held then
        .next (s.setPut id fun r => { r with flight := r.flight.set n { f with sent := s.cycle, again := true } })
      else .next s
    | none => .next s
  | none =>
    .next (s.setGet id fun r => if r.ended then r else r.setPart n fun p =>
      if late p.sent && !p.again && p.reply.isNone && !p.done then { p with sent := s.cycle, again := true } else p)

/-- PATH_FAILURE: no path has delivered a packet for a further 1 ms: its operation ends with FAULTED. -/
def execPathFailure (id : Nat) (s : State) : Out :=
  let lost := fun (t : Nat) => decide (cyclesMs ≤ s.cycle - t)
  let s1 := s.setPut id fun r =>
    if r.flight.any fun f => f.again && !f.held && lost f.sent then { r with ended := true, flight := [], status := statusFaulted } else r
  .next (s1.setGet id fun r =>
    if !r.ended && r.parts.any fun p => p.again && p.reply.isNone && !p.done && lost p.sent then { r with ended := true, status := statusFaulted } else r)

/-! ## The agent's moves -/

/-- Take up a queued command, send the next packet or a query that had to wait, or signal a cell. -/
def State.moveFabric (s : State) (id : Nat) : State :=
  match s.cmds.find? fun c => c.id == id && c.op.engine == .fabric with
  | some c =>
    if !s.mayStart c || s.engineWaits c.unit then s
    else
      match c.op with
      | .coll => s.beginColl c
      | .fput => s.beginPut c
      | .fget => s.beginGet c
      | _ => s
  | none =>
    match s.puts.find? fun r => r.cmd.id == id with
    | some r => s.sendPut r
    | none =>
      match s.queries.find? fun q => q.cmd.id == id with
      | some q => s.sendQuery q
      | none => (s.finishColl id).finishGet id

end Sys2Proof.Machine
end

