-- ==== Sys2Proof/Machine/Queues.lean ====
section
/-! DEFINITION. The task engine's queues (18 R386, R388; 11 R235; 21 R434, R439): what waits in them, where it fits, whom they serve
first, the resumption of frames and the pre-emption that makes room for work of higher priority. -/

namespace Sys2Proof.Machine

/-! ## Units and loads -/

/-- Occupied slots of a core. -/
def State.coreLoad (s : State) (core : Nat) : Nat := ((List.range 4).map fun k => 32 - (s.freeSlots (4 * core + k)).length).sum

/-- Cores of the tier unit that holds a quadrant (R386): D and P are the partition. -/
def State.coresOf (s : State) (part tier q : Nat) : List Nat :=
  match tier with
  | 0 | 1 => [q / 4]
  | 2 => (List.range 12).map (q / 48 * 12 + ·)
  | _ => (s.part part).dies.flatMap fun d => (List.range 48).map (48 * d + ·)

/-- Slices of an entry that are placed together next: a gang of up to 8, or a crew's whole brood. -/
def Spawn.batch (e : Spawn) : Nat := if e.tier = 1 then e.count - e.next else min 8 (e.count - e.next)

/-! ## Attic and scratchpad -/

/-- Insert a range by its base, joining it with a range that it touches. -/
def joinRange (r : Nat × Nat) : List (Nat × Nat) → List (Nat × Nat)
  | [] => [r]
  | x :: xs =>
    if r.1 + r.2 = x.1 then (r.1, r.2 + x.2) :: xs
    else if x.1 + x.2 = r.1 then
      match xs with
      | y :: ys => if x.1 + x.2 + r.2 = y.1 then (x.1, x.2 + r.2 + y.2) :: ys else (x.1, x.2 + r.2) :: xs
      | [] => [(x.1, x.2 + r.2)]
    else if r.1 < x.1 then r :: x :: xs
    else x :: joinRange r xs

/-- Take `n` bytes from the lowest range that has them; none when no range has. -/
def takeRange (n : Nat) (rs : List (Nat × Nat)) : Option (Nat × List (Nat × Nat)) :=
  let sorted := (rs.foldl (fun acc r => joinRange r acc) []).filter fun r => decide (0 < r.2)
  match sorted.find? fun r => decide (n ≤ r.2) with
  | some r => some (r.1, (sorted.map fun x => if x == r then (x.1 + n, x.2 - n) else x).filter fun x => decide (0 < x.2))
  | none => none

/-- Take Attic for `k` strands of `n` bytes each. -/
def takeAttics (n : Nat) : Nat → List (Nat × Nat) → Option (List Nat × List (Nat × Nat))
  | 0, rs => some ([], rs)
  | k + 1, rs =>
    match takeRange n rs with
    | none => none
    | some (b, rs') => (takeAttics n k rs').map fun p => (b :: p.1, p.2)

/-- Attic bases for `k` strands, and the context without them. -/
def State.takeAttic (s : State) (ctx n k : Nat) : Option (List Nat × State) :=
  match Map.find? s.ctxs ctx with
  | none => none
  | some c => (takeAttics n k c.free).map fun p => (p.1, { s with ctxs := s.ctxs.put ctx { c with free := p.2 } })

/-- Crews resident on a core: one that a context switch has taken away is not. -/
def State.crewsOn (s : State) (core : Nat) : List Crew := (s.crews.map Prod.snd).filter fun c => c.core == core && c.image.isNone

/-- The units that a crew takes leave room for the lines that the L1 of a core must keep: those that twin crews hold, and `more` that come with
the crew (11 R235, 21 R441; log 56). -/
def State.heldFits (s : State) (core bytes : Nat) (rb : Bool) (more : Nat) : Bool :=
  decide (((s.core core).l1.filter fun e => e.2.held != 0).length + more + 32 * crewUnits bytes rb ≤ s.l1Lines core)

/-- The lowest scratchpad units of 4 KiB that are free on a core: at most 1 MiB in all (11 R235). -/
def State.findScratch (s : State) (core bytes : Nat) : Option Nat :=
  let cs := s.crewsOn core
  let size := (bytes + 4095) / 4096 * 4096
  (List.range 257).map (4096 * ·) |>.find? fun b =>
    decide (b + size ≤ scratchSize) && !cs.any fun c => overlap b size c.base ((c.bytes + 4095) / 4096 * 4096)

/-- A core has an undo reserve for another crew (11 R235). -/
def State.reserveFree (s : State) (core : Nat) : Bool := decide (((s.crewsOn core).filter Crew.rb).length < 4)

/-! ## Where a batch fits -/

/-- Spread a crew's slices over the quadrants of a core that are not fenced (21 R445), gangs of 8 whole: the quadrant of each gang, beginning
at `q`. -/
def State.spread (s : State) (part q n : Nat) : Option (List Nat) :=
  let core := q / 4
  let qs := (q :: ((List.range 4).map (4 * core + ·)).filter (· != q)).filter fun x => !s.fenced part 0 x
  let sizes := (List.range ((n + 7) / 8)).map fun i => min 8 (n - 8 * i)
  let r := sizes.foldl
    (fun (p : Option (List Nat × List (Nat × Nat))) k =>
      match p with
      | none => none
      | some (out, room) =>
        match List.find? (fun e => decide (k ≤ e.2)) room with
        | some e => some (out ++ [e.1], room.map fun x => if x.1 = e.1 then (x.1, x.2 - k) else x)
        | none => none) (some ([], qs.map fun x => (x, (s.freeSlots x).length)))
  r.map Prod.fst

/-- Reliability modes of a context (21 R434): RB, TWIN. -/
def State.modes (s : State) (part ctx : Nat) : Bool × Bool :=
  let v := s.reg part (0x60000 + 8 * (ctx % 4096))
  (v.getLsbD 0 || v.getLsbD 1, v.getLsbD 1)

/-- Where the shadow of a twin crew goes (21 R439): the least loaded core of another stack group of the partition that has room. -/
def State.shadowCore (s : State) (e : Spawn) (core : Nat) : Option Nat :=
  let room := fun (c : Nat) =>
    decide (groupOf c ≠ groupOf core) && (s.spread e.part (4 * c) e.batch).isSome &&
      (s.findScratch c (1024 * e.kib)).isSome && s.reserveFree c && s.heldFits c (1024 * e.kib) true 0
  ((s.coresOf e.part 3 0).filter room).foldl
    (fun acc c =>
      match acc with
      | some b => if s.coreLoad c < s.coreLoad b then some c else acc
      | none => some c) none

/-- The slots of a batch are free: on a quadrant, or for a crew on its core. -/
def State.slotsAt (s : State) (e : Spawn) (q : Nat) : Bool :=
  if e.tier = 1 then (s.spread e.part q e.batch).isSome else decide (e.batch ≤ (s.freeSlots q).length)

/-- A quadrant may take a batch but for its slots: it stands in the unit, and a crew's core has scratchpad and a reserve. -/
def State.roomAt (s : State) (e : Spawn) (q : Nat) : Bool :=
  !s.fenced e.part 0 q && s.inTier e.part e.tier e.quad q &&
    (e.tier != 1 ||
      (s.findScratch (q / 4) (1024 * e.kib)).isSome && (!(s.modes e.part e.ctx).1 || s.reserveFree (q / 4)) &&
        s.heldFits (q / 4) (1024 * e.kib) (s.modes e.part e.ctx).1 0 &&
        (!(s.modes e.part e.ctx).2 || (s.shadowCore e (q / 4)).isSome))

/-- A batch fits on a quadrant. -/
def State.fitsAt (s : State) (e : Spawn) (q : Nat) : Bool := s.roomAt e q && s.slotsAt e q

/-- A batch fits on some quadrant of a core. -/
def State.fitsOn (s : State) (e : Spawn) (core : Nat) : Bool := (List.range 4).any fun k => s.fitsAt e (4 * core + k)

/-- The least loaded core of the unit that has room for the batch; ties to the lower number (R386). -/
def State.bestCore (s : State) (e : Spawn) : Option Nat :=
  ((s.coresOf e.part e.tier e.quad).filter (s.fitsOn e)).foldl
    (fun acc c =>
      match acc with
      | some b => if s.coreLoad c < s.coreLoad b ∨ (s.coreLoad c = s.coreLoad b ∧ c < b) then some c else acc
      | none => some c) none

/-- The context's pool has Attic for a batch. -/
def State.hasAttic (s : State) (e : Spawn) : Bool := (s.takeAttic e.ctx e.attic e.batch).isSome

/-! ## Who is served first (R386, R388) -/

/-- Work that waits for slots: an entry of a spawn queue, or the frame of a gang. -/
inductive Work where
  | entry (e : Spawn)
  | frame (g : Gang)
  deriving DecidableEq, Repr

/-- The number of the unit of a tier that holds a quadrant. -/
def tierUnit (tier q : Nat) : Nat :=
  match tier with
  | 0 => q
  | 1 => q / 4
  | 2 => q / 48
  | _ => 0

def Work.part : Work → Nat
  | .entry e => e.part
  | .frame g => g.part

def Work.ctx : Work → Nat
  | .entry e => e.ctx
  | .frame g => g.ctx

def Work.prio : Work → Nat
  | .entry e => e.prio
  | .frame g => g.prio

/-- The spawn queue that work stands in: one for each unit of a tier and each priority (R386). -/
def Work.queue : Work → Nat × Nat × Nat × Nat
  | .entry e => (e.part, e.prio, e.tier, tierUnit e.tier e.quad)
  | .frame g => (g.part, g.prio, g.tier, tierUnit g.tier g.quadNo)

/-- Since when it waits in its queue; none for a frame that a cell has released, which stands in no queue. -/
def Work.since : Work → Option Nat
  | .entry e => some e.id
  | .frame g => g.queued

/-- A frame that waits for a place. -/
def State.waitingFrame (s : State) (g : Gang) : Bool := g.framed && g.ready && g.park == .none && !s.halted g

/-- What waits, in no order. -/
def State.works (s : State) : List Work := (s.gangs.filter s.waitingFrame).map .frame ++ s.spawns.map .entry

/-- One goes before another of the same queue: frames stand in front, the one pre-empted last first (R388); entries in order. -/
def Work.ahead (a b : Work) : Bool :=
  a.queue == b.queue &&
    match a, b with
    | .frame g, .frame h => match g.queued, h.queued with
      | some x, some y => decide (y < x)
      | _, _ => false
    | .frame g, .entry _ => g.queued.isSome
    | .entry _, .frame _ => false
    | .entry e, .entry f => decide (e.id < f.id)

/-- The head of its queue: no later entry passes it (R386). -/
def State.atFront (s : State) (w : Work) : Bool := !s.works.any fun x => x.ahead w

/-- A quadrant may take it but for its slots. -/
def State.mayUse (s : State) (w : Work) (q : Nat) : Bool :=
  !s.ctxHeld w.ctx &&
    match w with
    | .entry e => s.hasAttic e && s.roomAt e q
    | .frame g => s.mayResume g q

/-- The slots that it needs are free on a quadrant. -/
def State.hasSlots (s : State) (w : Work) (q : Nat) : Bool :=
  match w with
  | .entry e => s.slotsAt e q
  | .frame g => decide (g.slices.length ≤ (s.freeSlots q).length)

/-- A quadrant is where it would be placed next: an entry goes to the least loaded core of its unit. -/
def State.wants (s : State) (w : Work) (q : Nat) : Bool :=
  s.atFront w && s.mayUse w q && s.hasSlots w q &&
    match w with
    | .entry e => s.bestCore e == some (q / 4)
    | .frame _ => true

/-- A queue is served before another: by priority, and within one priority the one whose head has waited longest (R386). -/
def Work.before (a b : Work) : Bool :=
  decide (a.prio < b.prio) ||
    (a.prio == b.prio &&
      match a.since, b.since with
      | some x, some y => decide (x < y)
      | _, _ => false)

/-- A stage of higher priority has records for a core of its shares and could place one of them on a quadrant (R389). -/
def State.ringBefore (s : State) (part prio q : Nat) : Bool :=
  !(s.freeSlots q).isEmpty && !s.fenced part 0 q &&
    s.launches.any fun x => x.part == part && decide (x.prio < prio) && !s.ctxHeld x.ctx && (s.takeAttic x.ctx x.attic 1).isSome &&
      x.stages.any fun y => y.started && !y.ended && !y.queue.isEmpty && y.shares.contains (q / 4)

/-- It may be placed on a quadrant now: nothing that goes before it could use the slots. -/
def State.mayServe (s : State) (w : Work) (q : Nat) : Bool :=
  s.wants w q && !s.ringBefore w.part w.prio q && !s.works.any fun x => x.part == w.part && x.before w && s.wants x q

/-- An entry may be placed on a quadrant now. -/
def State.mayPlace (s : State) (e : Spawn) (q : Nat) : Bool := s.mayServe (.entry e) q

/-- STRAND_RESUME: a released or pre-empted gang resumes on a quadrant (01 R28), when its turn has come (R386, R388). -/
def execStrandResume (gid q : Nat) (s : State) : Out :=
  onGang s gid (fun g => s.waitingFrame g && s.mayServe (.frame g) q) fun g s =>
    if g.frameBad then s.poisonedFrame g else s.resumeOn g q

/-! ## Pre-emption for priority (R388) -/

/-- The state when every gang that is asked to has given its slots up. -/
def State.vacated (s : State) : State := { s with gangs := s.gangs.map fun g => if g.preempt then { g with framed := true } else g }

/-- A head waits for nothing but slots, and its unit holds none that it can use, nor will when the gangs already asked have gone (log 68). -/
def State.starved (s : State) (w : Work) : Bool :=
  s.atFront w && w.since.isSome && (List.range 768).any (s.mayUse w) &&
    !(List.range 768).any fun q => s.mayUse w q && s.vacated.hasSlots w q

/-- The gangs that would give way to a head: resident ones in its unit, of lower priority. -/
def State.givers (s : State) (w : Work) : List Gang :=
  s.gangs.filter fun g => !g.framed && !g.preempt && g.part == w.part && decide (w.prio < g.prio) && s.mayUse w g.quadNo

/-- A gang gives way first: the lowest priority, then the youngest. -/
def Gang.givesBefore (a b : Gang) : Bool := decide (b.prio < a.prio) || (a.prio == b.prio && decide (b.age < a.age))

/-- It is the turn of a gang to give way to a head of higher priority. -/
def State.givesWay (s : State) (g : Gang) : Bool :=
  s.works.any fun w => decide (w.prio < g.prio) && s.starved w && (s.givers w).contains g && !(s.givers w).any fun h => h.givesBefore g

/-- A pre-emption of a gang is due: one asked for before, its context's save (10 R230), or work of higher priority (R388). -/
def State.preemptDue (s : State) (g : Gang) : Bool :=
  g.preempt || ((Map.find? s.ctxs g.ctx).map Ctx.saving).getD false || s.givesWay g

/-- PREEMPT: taken now, or when the gang reaches a state in which it can be (10 R228). -/
def execPreempt (gid : Nat) (s : State) : Out :=
  onGang s gid (fun g => !g.framed && s.preemptDue g) fun g s =>
    if g.park.isRegang then s.putGang g.keepRegang
    else if s.mayPreempt g then s.takePreempt g else s.putGang { g with preempt := true }

end Sys2Proof.Machine
end

