-- ==== Sys2Proof/Machine/Place.lean ====
section
/-! DEFINITION. Placement (18 R386, R387; 05 R92, R108; 11 R235; 21 R435, R439): the state with which a strand starts, and the placing of gangs
and crews. -/

namespace Sys2Proof.Machine

/-! ## The state with which a strand starts (05 R108, 18 R387) -/

/-- A slice of a brood: index, position, slot, Attic base. -/
def Spawn.slice (e : Spawn) (sid ix slot stkb scrb : Nat) : Slice :=
  let pos := ix % 8
  let f := fun k => seedLane (BitVec.ofNat 64 ix) (4 * pos + k)
  { sid := sid, pos := pos, index := ix, slot := slot, pc := e.pc
    scal := ((Map.set {} [] 1 ({ v := e.args.getD ix e.arg } : SVal)).set {} 2 { v := 0xFD00000000000000 + BitVec.ofNat 64 e.attic }).set {} 3 { v := e.cell }
    lane := [], masks := [], em := 0xF, exited := 0, recon := [], link := [], wb := 0, lb := 0, spillp := 0, spilled := 0, guards := []
    scrb := BitVec.ofNat 64 scrb, scrl := if e.tier = 1 then BitVec.ofNat 64 (1024 * e.kib) else 0
    stkb := BitVec.ofNat 64 stkb, stkl := BitVec.ofNat 64 e.attic, glbb := e.glbb, glbl := e.glbl
    regangfail := false, ppriv := false, priv := e.priv, ftz := e.ftz, nantrap := e.nantrap, tvec := e.tvec, tcause := 0, tval := 0, tepc := 0
    lfsr := ⟨f 0, f 1, f 2, f 3⟩, regionpc := e.pc, lives := 0, livev := 0, snap := { em := 0xF, masks := [], recon := [] }
    between := true, justRegion := false, tsave := none, unfin := none, chain := 1, triggered := false, arrival := none, depth := e.depth
    ring := none, holdoff := false, sig := 0, heldAt := [], pending := [], noted := [], notePos := 0, noteMark := 0, mail := [], attic := (stkb, e.attic), keep := none }

/-- A gang of a brood on a quadrant. -/
def Spawn.gang (e : Spawn) (gid age q : Nat) (crew : Option Nat) (slices : List Slice) : Gang :=
  { gid := gid, og := gid, brood := e.brood, part := e.part, ctx := e.ctx, core := q / 4, quad := q % 4, tier := e.tier, crew := crew
    prio := e.prio, node := e.node, launch := e.launch, stage := e.stage, lregs := e.lregs, attic := e.attic, age := age, wait := 0, issued := 0
    floor := gid + 1, icinvs := [], floors := [], park := .none
    bubble := 0, buf := [], stopped := false, stepOne := false, passStop := false, framed := false, ready := false, pinned := false, srcs := []
    preempt := false, queued := none, waiting := false, sbit := false, cleared := false, frameBad := false, slices := slices }

/-- One gang's slices: children `first` to `first + k − 1`, with their Attic, on free slots. -/
def State.gangOf (s : State) (e : Spawn) (first k q scrb : Nat) (attics : List Nat) (crew : Option Nat) : Gang × State :=
  let slots := s.freeSlots q
  let gid := s.nextId
  let sls := (List.range k).map fun i => e.slice (gid + 1 + i) (first + i) (slots.getD i 0) (attics.getD i 0) scrb
  (e.gang gid gid q crew sls, { s with nextId := s.nextId + k + 1 })

/-- Drop a queue's entry once its last child is placed. -/
def State.placed (s : State) (e : Spawn) (n : Nat) : State :=
  if e.count ≤ e.next + n then { s with spawns := s.spawns.filter fun x => x.id != e.id }
  else { s with spawns := s.spawns.map fun x => if x.id == e.id then { x with next := x.next + n } else x }

/-- Place a gang of a brood: its fork edge reconciles its destination at the span that joins the sources to it (01 R22). -/
def State.placeGang (s : State) (e : Spawn) (q : Nat) : State :=
  match s.takeAttic e.ctx e.attic e.batch with
  | none => s
  | some (as, s1) =>
    let (g, s2) := (s1.reconcileDest (q / 4) (spanOf e.srcs q)).gangOf e e.next e.batch q 0 as none
    { s2 with gangs := s2.gangs ++ [g] }.placed e e.batch

/-- Clear a crew's scratchpad: every byte 0, every granule full (11 R235). -/
def State.clearScratch (s : State) (core base bytes : Nat) : State :=
  let co := s.core core
  let out := fun (a : Nat) => decide (a < base) || decide (base + bytes ≤ a)
  s.setCore core { co with scratch := co.scratch.filter fun e => out e.1
                           scratchBad := co.scratchBad.filter fun u => out (8 * u)
                           empty := co.empty.filter fun gr => out (16 * gr) }

/-- Gangs of a crew on its quadrants. -/
def State.crewGangs (s : State) (e : Spawn) (qs : List Nat) (scrb crew : Nat) (attics : List Nat) : List Gang × State :=
  qs.zipIdx.foldl
    (fun (p : List Gang × State) x =>
      let k := min 8 (e.count - 8 * x.2)
      let (g, s1) := p.2.gangOf e (8 * x.2) k x.1 scrb (attics.drop (8 * x.2)) (some crew)
      (p.1 ++ [g], { s1 with gangs := s1.gangs ++ [g] })) ([], s)

/-- A crew takes its units from the L1 of its core (11 R235): lines that no longer have room go home and are dropped, and its scratchpad is
cleared. -/
def State.takeUnits (s : State) (k : Nat) (c : Crew) : State :=
  let s1 := { s with crews := s.crews.put k c }
  (s1.shrinkL1 c.core (s1.core c.core).l1.length).clearScratch c.core c.base c.bytes

/-- Place one crew on a core (R386): its interval begins, recoverable (21 R435). -/
def State.placeOne (s : State) (e : Spawn) (q crew : Nat) (partner : Option Nat) (shadow : Bool) (attics : List Nat) : State :=
  match s.spread e.part q e.batch, s.findScratch (q / 4) (1024 * e.kib) with
  | some qs, some base =>
    let (rb, twin) := s.modes e.part e.ctx
    let span := (qs.map (spanOf e.srcs)).foldl max 0
    let c0 : Crew := { part := e.part, ctx := e.ctx, core := q / 4, base := base, bytes := 1024 * e.kib, rb := rb, twin := twin, partner := partner
                       shadow := shadow, recoverable := true, rolled := false, log := [], barCopy := [], shadows := []
                       since := 0, syncDue := false, image := none }
    let s1 := (s.reconcileDest (q / 4) span).takeUnits crew c0
    let (gs, s2) := s1.crewGangs e qs base crew attics
    { s2 with crews := s2.crews.put crew { c0 with barCopy := (s2.core (q / 4)).bars, shadows := gs, since := s2.nextId } }
  | _, _ => s

/-- Place a crew; under TWIN its shadow too, which starts from the same state and gives no Attic back (21 R439). -/
def State.placeCrew (s : State) (e : Spawn) (q : Nat) : State :=
  match s.takeAttic e.ctx e.attic e.batch with
  | none => s
  | some (as, s1) =>
    let k := s1.nextId
    if (s1.modes e.part e.ctx).2 then
      match s1.shadowCore e (q / 4) with
      | none => s
      | some c =>
        let s2 := { s1 with nextId := k + 2 }.placeOne e q k (some (k + 1)) false as
        let s3 := s2.placeOne e (4 * c) (k + 1) (some k) true as
        let same := fun (sl : Slice) => { sl with attic := (0, 0) }
        let fix := fun (g : Gang) => if g.crew == some (k + 1) then g.mapSlices same else g
        let s4 := { s3 with gangs := s3.gangs.map fix }
        (match Map.find? s4.crews (k + 1) with
          | some w => { s4 with crews := s4.crews.put (k + 1) { w with shadows := w.shadows.map fix } }
          | none => s4).placed e e.batch
    else ({ s1 with nextId := k + 1 }.placeOne e q k none false as).placed e e.batch

/-- PLACE_STRAND: the head of a spawn queue is placed on a quadrant, a gang of up to 8 children together, a crew whole (R386). -/
def execPlaceStrand (entry q : Nat) (s : State) : Out :=
  match s.spawns.find? fun e => e.id == entry with
  | none => .next s
  | some e =>
    if q < 768 && s.mayPlace e q then .next (if e.tier = 1 then s.placeCrew e q else s.placeGang e q) else .next s

end Sys2Proof.Machine
end

