-- ==== Sys2Proof/Machine/Tasks.lean ====
section
/-! DEFINITION. Launches and nodes of task graphs (18 R376 to R385, R395 to R397): the Loft, the launch write, its acceptance, and the
start and the retirement of nodes. -/

namespace Sys2Proof.Machine

/-! ## The Loft and the directory (R376) -/

/-- Bytes of the Loft at home, and whether a unit of them is poisoned; an offset beyond the Loft wraps. -/
def State.loft (s : State) (part off n : Nat) : List Byte × Bool :=
  let ats := (List.range n).map fun i => ((s.part part).loftAddr ((off + i) % loftSize)).getD 0
  (ats.map s.byteAt, ats.any fun a => s.poisonedAt a 1)

def State.loftField (s : State) (part off n : Nat) : Nat := natOfBytes (s.loft part off n).1

/-- The entry of a graph; one with a poisoned unit counts as not VALID, so that its launch is refused (21 R428). -/
def State.directory (s : State) (part g : Nat) : Directory :=
  let (bs, bad) := s.loft part (64 * g) 64
  { nodeOff := fieldOf bs 0 4, count := fieldOf bs 4 2, valid := !bad && decide (fieldOf bs 6 1 % 2 = 1), ctx := 4096 * part + fieldOf bs 8 2 % 4096
    attic := fieldOf bs 0xA 2, ptab := fieldOf bs 0xC 4, inst := fieldOf bs 0x10 8, ninst := fieldOf bs 0x18 2
    tvec := BitVec.ofNat 64 (fieldOf bs 0x20 8) }

/-- NINST, NNODES and ATTIC are in range (reason 6). -/
def Directory.ranges (d : Directory) : Bool :=
  decide (1 ≤ d.ninst) && decide (d.ninst ≤ 256) && decide (1 ≤ d.count) && decide (4 ≤ d.attic) && decide (d.attic ≤ 65532) && decide (d.attic % 4 = 0)

/-- ISIZE (R377). -/
def instanceSize (nodes : Nat) : Nat := (2048 + 16 * nodes + 4095) / 4096 * 4096

/-! ## LAUNCH (R381) -/

def regLdrop : Nat := 0x20048

/-- A partition's launches that wait; those that have a launch slot but no nodes yet; those in flight. -/
def State.waitingIn (s : State) (part : Nat) : List Waiting := s.waiting.filter fun w => w.part == part && w.inst.isNone
def State.takenIn (s : State) (part : Nat) : List Waiting := s.waiting.filter fun w => w.part == part && w.inst.isSome
def State.inFlightIn (s : State) (part : Nat) : List Launch := s.launches.filter fun x => x.part == part

/-- Launch slots in use. -/
def State.slotsUsed (s : State) (part : Nat) : Nat := (s.inFlightIn part).length + (s.takenIn part).length

/-- LSTAT: launches waiting and in flight. -/
def State.lstat (s : State) (part : Nat) : Nat := (s.waitingIn part).length + 65536 * s.slotsUsed part

/-- Count a launch write dropped. -/
def State.dropLaunch (s : State) (part : Nat) : State :=
  s.setReg part regLdrop (BitVec.ofNat 64 (((s.reg part regLdrop).toNat + 1) % 2 ^ 32))

/-- LAUNCH: a write of 64 bytes queues a launch; any other, one that finds 64 launches waiting, or one that finds the partition off is
dropped and counted (22 R459). -/
def execLaunch (part : Nat) (words : List (BitVec 64)) (s : State) : Out :=
  match Map.find? s.parts part with
  | none => .next s
  | some p =>
    if words.length ≠ 8 ∨ 64 ≤ (s.waitingIn part).length ∨ 2 ≤ p.power ∨ s.reg part regFatalStat ≠ 0 then .next (s.dropLaunch part)
    else
      .next { s.setPart part { p with power := 0 } with
        waiting := s.waiting ++ [{ id := s.nextId, part := part, words := words, checked := none, inst := none, dead := 0 }], nextId := s.nextId + 1 }

/-! ## Acceptance (R382) -/

def Waiting.word0 (w : Waiting) : Word64 := w.words.getD 0 0
def Waiting.graph (w : Waiting) : Nat := (w.word0.extractLsb' 0 10).toNat
def Waiting.prio (w : Waiting) : Nat := (w.word0.extractLsb' 10 2).toNat
def Waiting.npatch (w : Waiting) : Nat := (w.word0.extractLsb' 12 3).toNat
def Waiting.ind (w : Waiting) : Bool := w.word0.getLsbD 15
def Waiting.tag (w : Waiting) : BitVec 32 := w.word0.extractLsb' 32 32

/-- Waiting launches in the order in which they are taken. -/
def State.launchOrder (s : State) (part : Nat) : List Waiting :=
  (List.range 4).flatMap fun p => (s.waitingIn part).filter fun w => w.prio == p

/-- The lowest instance of a graph that no launch of it is using (R377). -/
def State.freeInstance (s : State) (part g ninst : Nat) : Option Nat :=
  (List.range ninst).find? fun i =>
    !(s.inFlightIn part).any (fun x => x.graph == g && x.inst == i) && !(s.takenIn part).any fun w => w.graph == g && w.inst == some i

/-- Change a waiting launch. -/
def State.setWaiting (s : State) (id : Nat) (f : Waiting → Waiting) : State := { s with waiting := updFirst (fun w => w.id == id) f s.waiting }

/-- The task engine waits on a fault of a key. -/
def State.taskWaits (s : State) (key : Nat) : Bool := s.engineWaits (.task key)

/-- How a check comes out. -/
inductive Accept where
  | refuse (reason : Nat)
  | waits
  | ready (patches : List Word64)
  deriving DecidableEq, Repr

/-- The patches of a launch: inline, then the list's (R381), which is read in user mode (11 R247). -/
def State.readPatches (s : State) (w : Waiting) (d : Directory) : Accept × State :=
  let inline := (List.range w.npatch).map fun i => w.words.getD (i + 1) 0
  if !w.ind then (.ready inline, s)
  else
    let c := { taskCmd w.id w.part d.ctx with segs := rootSegs }
    let a := w.words.getD 7 0
    if a.toNat % 8 ≠ 0 then (.refuse 4, s)
    else
      match s.run (do
        let h ← readHomeE c 0 a 8
        let n := natOfBytes h
        if 256 < n then pure (n, []) else
          let bs ← readHomeE c 0 (a + 8) (8 * n)
          pure (n, bs)) with
      | (.error (.fault f), s1, _) => (.waits, (s1.addFault f (.task w.id)).2)
      | (.error _, s1, _) => (.refuse 4, s1)
      | (.ok (n, bs), s1, bad) =>
        if bad then (.refuse 4, s1)
        else if 256 < n then (.refuse 5, s1)
        else (.ready (inline ++ (List.range n).map fun i => BitVec.ofNat 64 (fieldOf bs (8 * i) 8)), s1)

/-- Step 1: the checks of a launch, in the order of the reason codes, the context before the list that is read in it. -/
def State.checkLaunch (s : State) (w : Waiting) (d : Directory) : Accept × State :=
  if w.dead ≠ 0 then (.refuse w.dead, s)
  else if !d.valid then (.refuse 1, s)
  else if w.word0.extractLsb' 16 16 ≠ 0 then (.refuse 2, s)
  else if w.ind && decide (6 < w.npatch) then (.refuse 3, s)
  else if (Map.find? s.ctxs d.ctx).isNone then (.refuse (if d.ranges then 7 else 6), s)
  else if s.taskWaits w.id then (.waits, s)
  else
    match s.readPatches w d with
    | (.ready ps, s1) => (if d.ranges then .ready ps else .refuse 6, s1)
    | r => r

/-- Refuse a launch: a fault record with its reason. -/
def State.refuseLaunch (s : State) (w : Waiting) (d : Directory) (reason : Nat) : State :=
  { s with waiting := s.waiting.filter fun x => x.id != w.id }.record w.part
    { kind := 3, cause := reason, ctx := if d.valid then d.ctx else 0, info := w.tag.setWidth 64, graph := w.graph }

/-- The parameter table with patches in order: a later one replaces an earlier one. -/
def patchSlots (table : List Byte) (patches : List Word64) : List Byte :=
  patches.foldl
    (fun t p =>
      let at_ := 8 * (p.extractLsb' 56 8).toNat
      t.take at_ ++ toBytes ((p.extractLsb' 0 56).setWidth 64 : Word64) 8 ++ t.drop (at_ + 8)) table

/-- A TCB with slot values in the place of the parameters that SLOTSEL selects (R378). -/
def substitute (raw slots : List Byte) : List Byte :=
  (List.range 8).foldl
    (fun t k =>
      let sel := fieldOf raw (0x20 + k) 1
      if sel = 0xFF then t else t.take (0x28 + 8 * k) ++ (slots.drop (8 * sel)).take 8 ++ t.drop (0x30 + 8 * k)) raw

/-- A parameter of a TCB. -/
def tcbParam (t : List Byte) (k : Nat) : Word64 := BitVec.ofNat 64 (fieldOf t (0x28 + 8 * k) 8)

/-- A stage as its launch's image has it (R380, R390): its ring exists from the launch. -/
def stageFrom (n : Nat) (t : List Byte) : Stage :=
  let p2 := tcbParam t 2
  let f := fun (o w : Nat) => (p2.extractLsb' o w).toNat
  { node := n, qid := f 0 16, cap := f 16 16, rlim := f 32 8, minsh := f 40 8, maxsh := f 48 8, initsh := f 56 8, unit := fieldOf t 2 2
    tier := fieldOf t 1 1 % 8, ring := tcbParam t 1
    outs := ((List.range 4).map fun k => ((tcbParam t 3).extractLsb' (16 * k) 16).toNat).filter (· != 0xFFFF)
    pc := tcbParam t 0, lregs := 256, shares := [], next := 0, queue := [], started := false, ended := false }

/-- The raw TCB of a node. -/
def State.tcbRaw (s : State) (part nodeOff n : Nat) : List Byte × Bool := s.loft part (nodeOff + 128 * n) 128

/-- A launch in flight: every node's remaining count starts at PRED. A root node's fork edge comes from the launch, an end outside every tier of
the device, so that its destination reconciles at span P (01 R20, R397; log 76, DESIGN CHOICE). -/
def State.launchOf (s : State) (w : Waiting) (d : Directory) (inst : Nat) (slots : List Byte) : Launch :=
  let raws := (List.range d.count).map fun n => (s.tcbRaw w.part d.nodeOff n).1
  { id := s.nextId, part := w.part, ctx := d.ctx, graph := w.graph, prio := w.prio, tag := w.tag, inst := inst
    base := d.inst + inst * instanceSize d.count, tvec := d.tvec, attic := 1024 * d.attic, nodeOff := d.nodeOff, count := d.count
    nodes := raws.zipIdx.map fun p =>
      (p.2, { remaining := fieldOf p.1 4 2, started := false, done := false, retired := false, released := false, tcb := [], succ := []
              left := 0, status := 0, preds := [], srcs := if fieldOf p.1 4 2 = 0 then [.pod] else [], dead := 0 })
    stages := raws.zipIdx.filterMap fun p => if fieldOf p.1 0 1 = 1 then some (stageFrom p.2 (substitute p.1 slots)) else none }

/-- Steps 3 to 5 for a launch that has its instance and its slot. -/
def State.takeLaunch (s : State) (w : Waiting) (d : Directory) (inst : Nat) (patches : List Word64) : State :=
  let base := BitVec.ofNat 64 (d.inst + inst * instanceSize d.count)
  match s.run (reachE (taskCmd w.id w.part d.ctx) true 0 base (instanceSize d.count)) with
  | (.error (.fault f), s1, _) => (s1.addFault f (.task w.id)).2
  | (.error _, s1, _) => s1.refuseLaunch w d 8
  | (.ok ps, s1, _) =>
    let slots := patchSlots (s1.loft w.part d.ptab 2048).1 patches
    let here := ps.filterMap fun p => if p.1 < 2048 then some (p.1, p.2.1, min p.2.2 (2048 - p.1)) else none
    let s2 := s1.storeAll (taskCmd w.id w.part d.ctx) true here slots
    { s2 with waiting := s2.waiting.filter fun x => x.id != w.id, launches := s2.launches ++ [s2.launchOf w d inst slots], nextId := s2.nextId + 1 }

/-- Step 2 for a launch that has passed its checks: it takes an instance and a slot, and goes on; none while the graph has no free instance. -/
def State.placeLaunch (s : State) (w : Waiting) (d : Directory) (patches : List Word64) : Option State :=
  (s.freeInstance w.part w.graph d.ninst).map fun i =>
    if 256 ≤ s.slotsUsed w.part then s else (s.setWaiting w.id fun x => { x with inst := some i }).takeLaunch w d i patches

/-- Look for the launch to take: a refused one goes at once; one that waits for an instance or for a fault holds back the later ones of
its graph alone. -/
def State.pickLaunch (s : State) (part : Nat) : List Nat → List Waiting → State
  | _, [] => s
  | held, w :: ws =>
    if held.contains w.graph then s.pickLaunch part held ws
    else
      match w.checked with
      | some (d, ps) => (s.placeLaunch w d ps).getD (s.pickLaunch part (w.graph :: held) ws)
      | none =>
        let d := s.directory part w.graph
        match s.checkLaunch w d with
        | (.refuse r, s1) => s1.refuseLaunch w d r
        | (.waits, s1) => s1.pickLaunch part (w.graph :: held) ws
        | (.ready ps, s1) =>
          let s2 := s1.setWaiting w.id fun x => { x with checked := some (d, ps) }
          (s2.placeLaunch w d ps).getD (s2.pickLaunch part (w.graph :: held) ws)

/-- Step 3 again for a launch that has its instance, once the service of its fault is over: its pages are reached, or it is refused. -/
def State.tryAgain (s : State) (w : Waiting) : State :=
  match w.checked, w.inst with
  | some (d, ps), some i =>
    if s.taskWaits w.id then s else if w.dead ≠ 0 then s.refuseLaunch w d w.dead else s.takeLaunch w d i ps
  | _, _ => s

/-- LAUNCH_ACCEPT: the launches that have a slot go on, then the next one is taken. -/
def execLaunchAccept (part : Nat) (s : State) : Out :=
  let s1 := (s.takenIn part).foldl State.tryAgain s
  .next (s1.pickLaunch part [] (s1.launchOrder part))

/-! ## Retirement (R384, R396) -/

/-- The key of a node's translation faults. -/
def nodeKey (l n : Nat) : Nat := 2 ^ 40 * (l + 1) + n

/-- Where a node cell lies, when it can be reached. -/
def State.nodeCell (s : State) (x : Launch) (n : Nat) : Reach × State :=
  s.reachCell (taskUnit x.part) x.part x.ctx taskSegs (x.cellVa n)

/-- A launch completes when every node has retired: its instance and its slot are free. -/
def State.completeLaunch (s : State) (l : Nat) : State :=
  match s.launch? l with
  | none => s
  | some x =>
    if x.nodes.all fun e => e.2.retired then
      { s with launches := s.launches.filter fun y => y.id != l, trig := s.trig.filter fun e => e.1 / 65536 != l }
    else s

/-- A node retires with a cell's status and sources: raised to FAULTED while a consumption bit is set; both kinds of successors are
released. -/
def State.retireNode (s : State) (l n status : Nat) (srcs : List Src) : State :=
  match s.launch? l, s.node? l n with
  | some x, some y =>
    let st := if (s.chkiv x.ctx).toNat % 32 ≠ 0 then statusFaulted else status
    let s1 := s.setNode l n fun y => { y with retired := true, done := true, status := st, released := true }
    let s2 := if y.released then s1 else s1.releaseSuccs l n true srcs
    (s2.releaseSuccs l n false srcs).completeLaunch l
  | _, _ => s

/-- NODE_RETIRE: a node that is done retires. -/
def execNodeRetire (l n : Nat) (s : State) : Out :=
  match s.launch? l, s.node? l n with
  | some x, some y =>
    if !y.started || y.retired || s.taskWaits (nodeKey l n) then .next s
    else
      match s.nodeCell x n with
      | (.at pa, s1) => if s1.cellCount pa ≤ 0 then .next (s1.retireNode l n (s1.cellStatus pa) (Map.get [] s1.cellSrc pa)) else .next s1
      | (.cannot, s1) => .next (s1.retireNode l n statusFaulted [])
      | (.fault why lv e pool va, s1) =>
        if y.dead ≠ 0 then .next (s1.retireNode l n statusFaulted []) else .next (s1.taskFault x.part x.ctx why lv e pool va 2 (nodeKey l n))
  | _, _ => .next s

/-! ## The checks of a node at its start (R378, R380, R383) -/

/-- The number of units of a tier, and those of a partition. -/
def State.unitInside (s : State) (part tier unit : Nat) : Bool :=
  let die := match tier with
    | 0 => unit / 192
    | 1 => unit / 48
    | 2 => unit / 4
    | _ => (s.part part).dies.headD 0
  (s.part part).dies.contains die && (decide (tier ≠ 3) || unit == 0)

/-- Cores of a stage's unit. -/
def State.unitCores (s : State) (part tier unit : Nat) : List Nat :=
  match tier with
  | 1 => [unit]
  | 2 => (List.range 12).map (12 * unit + ·)
  | _ => s.coresOf part 3 0

/-- Tiers that a kind allows. -/
def tiersOf : Nat → List Nat
  | 0 => [0, 1, 2, 3]
  | 1 => [1, 2, 3]
  | 2 => [0, 1]
  | 3 => [1]
  | _ => [3]

/-- Parameters that a kind uses. -/
def paramsOf : Nat → Nat
  | 0 | 1 => 4
  | 2 => 2
  | 3 | 4 => 5
  | _ => 3

/-- A TCB, its slots put in, breaks R378 or R380. -/
def State.tcbBad (s : State) (x : Launch) (n : Nat) (t : List Byte) : Bool :=
  let kind := fieldOf t 0 1
  let tier := fieldOf t 1 1
  let p := fun k => (tcbParam t k).toNat
  let unused := (List.range 8).any fun k => decide (paramsOf kind ≤ k) && decide (p k ≠ 0)
  let st := stageFrom n t
  decide (5 < kind) || !(tiersOf kind).contains tier || fieldOf t 6 2 != 0 || fieldOf t 0x1C 4 != 0 || ((t.drop 0x68).any fun b => b != 0) || unused ||
    match kind with
    | 0 => decide (tierCap tier < p 2) || decide (p 0 % 4 ≠ 0) || (if tier = 1 then decide (1024 < p 3) || decide (p 3 % 4 ≠ 0) else decide (p 3 ≠ 0))
    | 1 =>
      decide (p 0 % 4 ≠ 0) || decide (p 1 % 64 ≠ 0) || st.cap == 0 || st.rlim == 0 || st.minsh == 0 || decide (st.initsh < st.minsh) ||
        decide (st.maxsh < st.initsh) || decide ((s.unitCores x.part tier (fieldOf t 2 2)).length < st.maxsh) ||
        x.stages.any fun y => y.node != n && y.qid == st.qid
    | 2 => decide (p 0 % 128 ≠ 0) || decide (p 1 = 0) || decide (65536 < p 1)
    | 5 => decide (p 0 % 8 ≠ 0) || decide (2 ^ 30 ≤ p 1) || decide (2 ^ 11 ≤ p 2)
    | _ => false

/-- An entry of a successor list: VALID names a node with bits 31:18 zero; an entry without VALID is zero. -/
def entryBad (count e : Nat) : Bool :=
  if e / 2 ^ 17 % 2 = 1 then decide (2 ^ 18 ≤ e) || decide (count ≤ e % 65536) else decide (e ≠ 0)

/-- The well-formed successors of a list of entries. -/
def entrySuccs (count : Nat) (es : List Nat) : List (Nat × Bool) :=
  es.filterMap fun e => if e / 2 ^ 17 % 2 = 1 ∧ e % 65536 < count then some (e % 65536, decide (e / 65536 % 2 = 1)) else none

/-- A node's successor entries; none in the list's place when it lies badly; and whether the list was read with an error. -/
def State.entries (s : State) (part : Nat) (t : List Byte) : List Nat × Option (List Nat) × Bool :=
  let own := (List.range 4).map fun k => fieldOf t (8 + 4 * k) 4
  let more := fieldOf t 0x18 4
  if more = 0 then (own, some [], false)
  else if more % 4 ≠ 0 ∨ loftSize < more + 4 then (own, none, false)
  else
    let n := s.loftField part more 4
    if loftSize < more + 4 + 4 * n then (own, none, (s.loft part more 4).2)
    else
      let (bs, bad) := s.loft part (more + 4) (4 * n)
      (own, some ((List.range n).map fun k => fieldOf bs (4 * k) 4), bad || (s.loft part more 4).2)

/-! ## NODE_START (R383) -/

/-- The cell of a node that fails: COUNT 0, STATUS FAULTED. -/
def State.failCell (s : State) (x : Launch) (n : Nat) : State :=
  match s.nodeCell x n with
  | (.at pa, s1) => (s1.initCell pa 0).signalCell pa 0 statusFaulted false .pod
  | (_, s1) => s1

/-- A node fails at start: its cell, a record of kind 4, and it retires at once. -/
def State.failNode (s : State) (l n reason : Nat) (succ : List (Nat × Bool)) : State :=
  match s.launch? l with
  | none => s
  | some x =>
    let s1 := (s.failCell x n).record x.part
      { kind := 4, cause := reason, ctx := x.ctx, info := x.tag.setWidth 64, graph := x.graph, node := n }
    (s1.setNode l n fun y => { y with started := true, succ := succ }).retireNode l n statusFaulted []

/-- The TCB or its list cannot be read: every node that has not yet started fails, releasing nothing. -/
def State.failUnread (s : State) (l n : Nat) : State :=
  match s.launch? l with
  | none => s
  | some x =>
    let rest := (x.nodes.filter fun e => e.1 != n && !e.2.started).map Prod.fst
    (n :: rest).foldl (fun s m => s.failNode l m 3 []) s

/-- The entry header of a root strand, each parcel read at home with the checks of instruction fetch in user mode (05 R107). -/
def State.rootHeader (s : State) (x : Launch) (key : Nat) (e : Word64) : Header × State :=
  let c := { taskCmd key x.part x.ctx with segs := rootSegs }
  if 2 ^ 56 ≤ e.toNat ∨ e.toNat < 8 then (.bad, s)
  else
    let parcel := fun (va : Nat) (s : State) =>
      match s.xlate (taskUnit x.part) x.part x.ctx va { x := true, user := true } with
      | (.denied, s1) => ((.error .bad : Except Header (Nat × Bool)), s1)
      | (.fault why lv at_ pool, s1) =>
        (.error (.fault { token := 0, part := c.part, ctx := c.ctx, va := va, acc := 3, why := why, level := lv, entryAt := at_, pool := pool
                          units := [], unitno := 0, stage := .new, since := s.cycle }), s1)
      | (.ok pa l, s1) => (.ok (s1.wordAt pa 4, l.por || s1.poisonedAt pa 4), s1)
    match parcel (e.toNat - 8) s with
    | (.error h, s1) => (h, s1)
    | (.ok (p, bad), s1) =>
      match parcel (e.toNat - 4) s1 with
      | (.error h, s2) => (h, s2)
      | (.ok (p', bad'), s2) =>
        let lregs := p / 65536 % 256
        if bad || bad' || decide (p / 2 ^ 24 ≠ 0x2B) || decide (p % 65536 ≠ 0) || decide (p' ≠ 0) || decide (lregs < 16) || decide (64 < lregs) then
          (.bad, s2)
        else (.ok (4 * lregs), s2)

/-- The core and quadrant of a node that names a unit of tier Q or C. -/
def nodeQuad (tier unit : Nat) : Nat := if tier = 0 then unit else 4 * unit

/-- A COPY or COLL node's command: its node cell is its cell. -/
def nodeCmd (id : Nat) (x : Launch) (op : CmdOp) (q : Nat) (regs : List Word64) : Cmd :=
  { id := id, op := op, flag := false, sid := 0, part := x.part, ctx := x.ctx, core := q / 4, quad := q, crew := none, segs := rootSegs, guard := none
    gstate := .true, regs := regs }

/-- Queue the brood of a KERNEL node (R386, R387). -/
def State.queueBrood (s : State) (x : Launch) (n : Nat) (t : List Byte) (lregs : Nat) (srcs : List Src) : State :=
  let tier := fieldOf t 1 1
  let unit := fieldOf t 2 2
  let q := match tier with
    | 0 => unit
    | 1 => 4 * unit
    | 2 => 48 * unit
    | _ => 192 * (s.part x.part).dies.headD 0
  let e : Spawn :=
    { id := s.nextId, brood := s.nextId + 1, part := x.part, ctx := x.ctx, tier := tier, quad := q, prio := x.prio, node := some (x.id, n)
      launch := some x.id, stage := none, pc := tcbParam t 0, cell := x.cellVa n, arg := tcbParam t 1, args := [], count := (tcbParam t 2).toNat, next := 0
      kib := (tcbParam t 3).toNat, lregs := lregs, ftz := false, nantrap := false, priv := false, tvec := x.tvec, glbb := 0
      glbl := BitVec.ofNat 64 (2 ^ 56), attic := x.attic, depth := 0, srcs := srcs }
  { s with nextId := s.nextId + 2, spawns := if (tcbParam t 2).toNat = 0 then s.spawns else s.spawns ++ [e] }

/-- A stage starts as its TCB reads now, with the records that its ring holds (R383, R390): it takes the lowest cores of its unit (R389). -/
def State.startStage (s : State) (x : Launch) (n : Nat) (t : List Byte) (lregs : Nat) : State :=
  let y := stageFrom n t
  let cores := (s.unitCores x.part y.tier y.unit).take y.initsh
  let z := (x.stages.find? fun z => z.node == n).getD y
  let y' := { y with started := true, lregs := lregs, shares := cores.foldl NatSet.put [], queue := z.queue, next := z.next % y.cap }
  s.setLaunch x.id fun x => { x with stages := x.stages.filter (fun z => z.node != n) ++ [y'] }

/-- Give a TILE node's records to the task engine as if MQ had been issued (R385). -/
def State.queueTiles (s : State) (x : Launch) (n : Nat) (t : List Byte) (srcs : List Src) : State :=
  let q := nodeQuad (fieldOf t 1 1) (fieldOf t 2 2)
  let s1 := s.reconcileDest (q / 4) (spanOf srcs q)
  let cs := (List.range (tcbParam t 1).toNat).map fun k =>
    nodeCmd (s.nextId + k) x .mq q ([tcbParam t 0 + BitVec.ofNat 64 (128 * k), 0] ++ mqExtra none (some (x.id, n)))
  { s1 with nextId := s1.nextId + cs.length, cmds := s1.cmds ++ cs }.registerAll

/-- What a node that has passed its checks does at its start. -/
def State.beginNode (s : State) (x : Launch) (n : Nat) (t : List Byte) (lregs : Nat) (srcs : List Src) : State :=
  match fieldOf t 0 1 with
  | 0 => s.queueBrood x n t lregs srcs
  | 1 => s.startStage x n t lregs
  | 2 => s.queueTiles x n t srcs
  | 3 =>
    let q := 4 * fieldOf t 2 2
    let c := nodeCmd s.nextId x .cpy2 q ((List.range 5).map (tcbParam t) ++ [x.cellVa n])
    let s1 := s.reconcileDest (q / 4) (spanOf srcs q)
    { s1 with nextId := s.nextId + 1, cmds := s1.cmds ++ [c] }
  | 4 =>
    let c := nodeCmd s.nextId x .coll (192 * (s.part x.part).dies.headD 0) ((List.range 5).map (tcbParam t) ++ [x.cellVa n])
    { s with nextId := s.nextId + 1 }.beginColl c
  | _ => s

/-- The engine command that a COPY or COLL node's parameters make, for its checks. -/
def State.nodeTrap (s : State) (x : Launch) (n : Nat) (t : List Byte) : Option Nat :=
  let regs := (List.range 5).map (tcbParam t) ++ [x.cellVa n]
  match fieldOf t 0 1 with
  | 3 => if (nodeCmd 0 x .cpy2 (4 * fieldOf t 2 2) regs).copyTrap.isSome then some 1 else none
  | 4 => if (s.collTrap (nodeCmd 0 x .coll 0 regs)).isSome then some 5 else none
  | _ => none

/-- A node that has been read starts, or fails. -/
def State.startNode (s : State) (x : Launch) (n : Nat) (y : Node) (raw slots : List Byte) : State :=
  let t := substitute raw slots
  let (own, more, bad) := s.entries x.part raw
  let succ := entrySuccs x.count (own ++ more.getD [])
  let kind := fieldOf t 0 1
  let key := nodeKey x.id n
  if bad then s.failUnread x.id n
  else if y.dead ≠ 0 then s.failNode x.id n y.dead succ
  else if more.isNone || (own ++ more.getD []).any (entryBad x.count) || s.tcbBad x n t then s.failNode x.id n 1 succ
  else if !s.unitInside x.part (fieldOf t 1 1) (fieldOf t 2 2) then s.failNode x.id n 2 succ
  else
    let (h, s1) := if kind = 0 ∨ kind = 1 then s.rootHeader x key (tcbParam t 0) else (.ok 0, s)
    match h with
    | .bad => s1.failNode x.id n 4 succ
    | .fault f => (s1.addFault f (.task key)).2
    | .ok lregs =>
      match s1.nodeTrap x n t with
      | some r => s1.failNode x.id n r succ
      | none =>
        match s1.nodeCell x n with
        | (.cannot, s2) => s2.failNode x.id n 1 succ
        | (.fault why lv e pool va, s2) => s2.taskFault x.part x.ctx why lv e pool va 2 key
        | (.at pa, s2) =>
          if s2.waitedCells.contains pa then s2.failNode x.id n 1 succ
          else
            let count := if kind = 0 then (tcbParam t 2).setWidth 32 else (1 : BitVec 32)
            let s3 := s2.initCell pa count
            let s4 := s3.setNode x.id n fun y =>
              { y with started := true, tcb := t, succ := succ, left := if kind = 2 then (tcbParam t 1).toNat else 0 }
            s4.beginNode x n t lregs y.srcs

/-- NODE_START: a node whose remaining count is 0 reads its TCB and starts. -/
def execNodeStart (l n : Nat) (s : State) : Out :=
  match s.launch? l, s.node? l n with
  | some x, some y =>
    if y.started || y.remaining != 0 || s.taskWaits (nodeKey l n) then .next s
    else
      let (raw, bad) := s.tcbRaw x.part x.nodeOff n
      if bad then .next (s.failUnread l n)
      else
        match s.run (readHomeE (taskCmd (nodeKey l n) x.part x.ctx) 0 (BitVec.ofNat 64 x.base) 2048) with
        | (.error (.fault f), s1, _) =>
          .next (if y.dead ≠ 0 then s1.startNode x n y raw (List.replicate 2048 0) else (s1.addFault f (.task (nodeKey l n))).2)
        | (.error _, s1, _) => .next (s1.startNode x n { y with dead := if y.dead = 0 then 1 else y.dead } raw (List.replicate 2048 0))
        | (.ok slots, s1, _) => .next (s1.startNode x n y raw slots)
  | _, _ => .next s

/-! ## HOST nodes (R385, R397) -/

/-- HOST_NODE_WRITE: once every node that released it has retired, a HOST node writes its value, raises its vector, and is done. -/
def execHostNodeWrite (l n : Nat) (s : State) : Out :=
  match s.launch? l, s.node? l n with
  | some x, some y =>
    let preds := y.preds.filterMap fun m => Map.find? x.nodes m
    if !y.started || y.done || fieldOf y.tcb 0 1 != 5 || preds.any (fun p => !p.retired) then .next s
    else
      let st := (preds.map Node.status).foldl max 0
      let v := x.tag.toNat * 2 ^ 32 + st * 2 ^ 30 + (tcbParam y.tcb 1).toNat % 2 ^ 30
      let s1 := { s with host := Map.setMany 0 s.host (tcbParam y.tcb 0).toNat (toBytes (BitVec.ofNat 64 v) 8) }
      let s2 := (s1.raiseVector x.part (tcbParam y.tcb 2)).setNode l n fun y => { y with done := true }
      .next (s2.signalNode l n statusOk)
  | _, _ => .next s

end Sys2Proof.Machine
end

