-- ==== Sys2Proof/Machine/Stages.lean ====
section
/-! DEFINITION. Pipeline stages (18 R389 to R394): rings, EMIT, the placing of records, the end of stages and the rebalancing of
shares; and the waking of gangs, which stage queues take part in (08 R193). -/

namespace Sys2Proof.Machine

/-- A stage of a launch. -/
def Launch.stage? (x : Launch) (n : Nat) : Option Stage := x.stages.find? fun y => y.node == n
def State.stage? (s : State) (l n : Nat) : Option Stage := (s.launch? l).bind fun x => x.stage? n

def State.setStage (s : State) (l n : Nat) (f : Stage → Stage) : State :=
  s.setLaunch l fun x => { x with stages := updFirst (fun y => y.node == n) f x.stages }

/-- The ring slots whose strands have not yet exited. -/
def State.runningSlots (s : State) (l n : Nat) : List Nat :=
  ((s.gangs ++ s.cur.toList).filter fun g => g.launch == some l && g.stage == some n).flatMap fun g => g.slices.filterMap Slice.ring

/-- OCCUPANCY (R389): the records queued and those whose strands have not yet exited. -/
def State.occupied (s : State) (l : Nat) (y : Stage) : Nat := y.queue.length + (s.runningSlots l y.node).length

/-- A stage's ring has room, or the stage has ended (R393). -/
def State.hasRoom (s : State) (l n : Nat) : Bool :=
  match s.stage? l n with
  | some y => y.ended || decide (s.occupied l y < y.cap)
  | none => true

/-- GANG_READY (08 R193, R194). -/
def execGangReady (gid : Nat) (s : State) : Out := gangReady State.hasRoom gid s

/-! ## EMIT (R393, R394) -/

/-- The next ring slot that holds no record, from the stage's next one on. -/
def State.freeSlot (s : State) (l : Nat) (y : Stage) : Option Nat :=
  let used := y.queue.map Entry.slot ++ s.runningSlots l y.node
  (List.range y.cap).map (fun i => (y.next + i) % y.cap) |>.find? fun k => !used.contains k

/-- The stage that a queue register names in the strand's launch. -/
def State.emitStage (s : State) (g : Gang) (q : Word64) : Option (Launch × Stage) :=
  match g.launch.bind s.launch? with
  | none => none
  | some x => (x.stages.find? fun y => y.qid == (q.extractLsb' 0 16).toNat).map fun y => (x, y)

/-- The checks of a slice's queue register, in the order of R393. -/
def State.emitTrap (s : State) (g : Gang) (sl : Slice) (q : Word64) : Option Trap :=
  let fail : Trap := ⟨Cause.engineFault, q⟩
  if q.extractLsb' 16 48 ≠ 0 then some fail
  else
    match s.emitStage g q with
    | none => some fail
    | some (x, y) =>
      let outs := (g.stage.bind x.stage?).map Stage.outs
      if (outs.map fun o => !o.contains y.qid).getD false then some fail
      else if y.ended then some ⟨Cause.queueAbort, q⟩
      else if y.rlim < sl.depth + 1 then some fail
      else none

/-- The checks of a slice's record pointer, then of its queue. -/
def State.emitCheck (s : State) (g : Gang) (sl : Slice) (a q : Word64) : Check × State :=
  if a.extractLsb' 0 6 ≠ 0 then (.trap ⟨Cause.misaligned, a⟩, s)
  else
    match s.resolve g sl .load a 64 with
    | (.ok x, s1) =>
      match s1.emitTrap g sl q with
      | some t => (.trap t, s1)
      | none => (.ok x, s1)
    | r => r

/-- How a slice's record comes out. -/
inductive Emitted where
  | done
  | full (l n : Nat)
  | trap (t : Trap)
  | fault (f : FaultRec)
  deriving DecidableEq, Repr

/-- Queue one record: 64 bytes read at SA are written into the next ring slot at home, with the strand's depth + 1. -/
def State.emitOne (s : State) (g : Gang) (sl : Slice) (a : Access) (q : Word64) : Emitted × State :=
  match s.emitTrap g sl q, s.emitStage g q with
  | some t, _ => (.trap t, s)
  | none, none => (.trap ⟨Cause.engineFault, q⟩, s)
  | none, some (x, y) =>
    if y.cap ≤ s.occupied x.id y then (.full x.id y.node, s)
    else
      match s.freeSlot x.id y with
      | none => (.full x.id y.node, s)
      | some k =>
        match s.xlate g.core g.part g.ctx (y.ring.toNat + 64 * k) { w := true, user := false } with
        | (.fault why lv e pool, s1) => (.fault (faultOf g (y.ring.toNat + 64 * k) 1 why lv s.cycle e pool), s1)
        | (.denied, s1) => (.trap ⟨Cause.engineFault, q⟩, s1)
        | (.ok pa _, s1) =>
          let (bs, bad, s2) := s1.readAt g.core a.loc 64
          let s3 := s2.writeHome pa bs
          let s4 := if bad || a.por then s3.markBad pa 64 else s3
          (.done, s4.setStage x.id y.node fun y =>
            { y with next := (k + 1) % y.cap, queue := y.queue ++ [{ slot := k, depth := sl.depth + 1, quad := g.quadNo }] })

/-- Queue the records of the slices in position order, up to the first that cannot be: what stops it, the slices with what they have
still to do, and the state. -/
def State.emitAll (s : State) (g : Gang) (q : Slice → Word64) (cs : List (Slice × Option Check)) : Emitted × List Slice × State :=
  cs.foldl
    (fun p c =>
      match c.2, p.1 with
      | some (.ok a), .done =>
        match p.2.2.emitOne g c.1 a (q c.1) with
        | (.done, s1) => (.done, p.2.1 ++ [{ c.1 with unfin := some { scalar := false, lanes := 0, home := false } }], s1)
        | (e, s1) => (e, p.2.1 ++ [{ c.1 with unfin := some { scalar := true, lanes := 0, home := false } }], s1)
      | some _, e => (e, p.2.1 ++ [{ c.1 with unfin := some { scalar := true, lanes := 0, home := false } }], p.2.2)
      | none, e => (e, p.2.1 ++ [c.1], p.2.2)) (.done, [], s)

/-- EMIT: parks until every slice's record is queued; a record already queued is not repeated. -/
def execEmit (o : FormNR) (s : State) : Out :=
  runWord (.emit o) s fun g s =>
    let c := s.rctx g
    let q := fun (sl : Slice) => (sl.readS c o.sb).v
    let (cs, s1) := s.checkSlices g (tagFirst (fun sl => poisonTrap (sl.readS c) [o.sa, o.sb]) fun s sl =>
      s.emitCheck g sl (sl.readS c o.sa).v (q sl))
    match firstTrapOf cs, firstFaultOf cs with
    | some t, _ => .next (s1.trapped g t)
    | none, some f => .next (s1.parkFault g f)
    | none, none =>
      if s1.twinWaits g then .next (s1.setCur { g with park := .twin false })
      else
        let s2 := (s1.edgeSource g 3).irrevocable g
        let g2 := s2.cur.getD g
        if s2.isShadow g then .next (s2.wordDone (g2.mapSlices (·.advance 4 true)))
        else
          match s2.emitAll g q cs with
          | (.done, sls, s3) => .next (s3.wordDone { g2 with slices := sls.map (·.advance 4 true) })
          | (.full l n, sls, s3) => .next (s3.setCur { g2 with slices := sls, park := .emit l n })
          | (.trap t, sls, s3) => .next (s3.trapped { g2 with slices := sls } t)
          | (.fault f, sls, s3) => .next (s3.parkFault { g2 with slices := sls } f)

/-! ## Placing records (R389) -/

/-- Records that can be placed together on a quadrant: up to 8, as slots and Attic allow. -/
def State.takeable (s : State) (x : Launch) (y : Stage) (q : Nat) : Nat :=
  let most := min 8 (min y.queue.length (s.freeSlots q).length)
  ((List.range most).map fun i => most - i).find? (fun k => (s.takeAttic x.ctx x.attic k).isSome) |>.getD 0

/-- The start of a stage's strands (R387): g1 is the record's address, g3 is 0. -/
def stageSpawn (x : Launch) (y : Stage) (brood : Nat) (es : List Entry) (srcs : List Src) (q : Nat) : Spawn :=
  { id := 0, brood := brood, part := x.part, ctx := x.ctx, tier := y.tier, quad := q, prio := x.prio, node := none, launch := some x.id
    stage := some y.node, pc := y.pc, cell := 0, arg := 0, args := es.map fun e => y.ring + BitVec.ofNat 64 (64 * e.slot), count := es.length, next := 0
    kib := 0, lregs := y.lregs, ftz := false, nantrap := false, priv := false, tvec := x.tvec, glbb := 0, glbl := BitVec.ofNat 64 (2 ^ 56)
    attic := x.attic, depth := 0, srcs := srcs }

/-- Give the slices of a stage's gang their records. -/
def withEntries (sls : List Slice) (es : List Entry) : List Slice :=
  (sls.zip es).map fun p => { p.1 with depth := p.2.depth, ring := some p.2.slot, scrl := 0 }

/-- STAGE_TAKE_RECORDS: records from the head of a ring are placed as one gang on a core on which the stage holds a share; the
destination reconciles at the span from the emitting cores (R394). Work of higher priority that could use the slots, a stage's records among it, goes first (R386). -/
def execStageTakeRecords (l n core q : Nat) (s : State) : Out :=
  match s.launch? l, s.stage? l n with
  | some x, some y =>
    let k := s.takeable x y q
    let later := s.ringBefore x.part x.prio q || s.works.any fun w => w.part == x.part && decide (w.prio < x.prio) && s.wants w q
    if !y.started || y.ended || !y.shares.contains core || q / 4 ≠ core || s.fenced x.part 0 q || s.ctxHeld x.ctx || k = 0 || later then .next s
    else
      match s.takeAttic x.ctx x.attic k with
      | none => .next s
      | some (as, s1) =>
        let es := y.queue.take k
        let srcs := es.map (fun e => Src.core (e.quad / 4)) ++ ((Map.find? x.nodes n).map Node.srcs).getD []
        let e := stageSpawn x y s1.nextId es srcs q
        let (g, s2) := ({ s1 with nextId := s1.nextId + 1 }.reconcileDest core (spanOf srcs q)).gangOf e 0 k q 0 as none
        let s3 := { s2 with gangs := s2.gangs ++ [{ g with slices := withEntries g.slices es }] }
        .next (s3.setStage l n fun y => { y with queue := y.queue.drop k })
  | _, _ => .next s

/-! ## The end of stages (R390) -/

/-- Nodes that name a stage as a successor and are not stages, all retired. -/
def Launch.feedersRetired (x : Launch) (succs : Nat → List Nat) (n : Nat) : Bool :=
  x.nodes.all fun e => (x.stage? e.1).isSome || !(succs e.1).contains n || e.2.retired

/-- Stages that feed a stage: by a successor link or by their output QIDs. -/
def Launch.stageFeeders (x : Launch) (succs : Nat → List Nat) (y : Stage) : List Stage :=
  x.stages.filter fun z => (succs z.node).contains y.node || z.outs.contains y.qid

/-- The successors that a node's image names, read for a node that has not started. -/
def State.succsOf (s : State) (x : Launch) (n : Nat) : List Nat :=
  match Map.find? x.nodes n with
  | some y =>
    if y.started then y.succ.map Prod.fst
    else
      let (own, more, _) := s.entries x.part (s.tcbRaw x.part x.nodeOff n).1
      (entrySuccs x.count (own ++ more.getD [])).map Prod.fst
  | none => []

/-- One round: from a set of stages that may end together, keep those whose stage feeders have ended or stay in it. -/
def keepEnding (feeders : Stage → List Stage) (set : List Stage) : List Stage :=
  set.filter fun y => (feeders y).all fun z => z.ended || set.any fun w => w.node == z.node

/-- The greatest set of stages that end together. -/
def endingFrom (feeders : Stage → List Stage) : Nat → List Stage → List Stage
  | 0, set => set
  | fuel + 1, set => endingFrom feeders fuel (keepEnding feeders set)

/-- The stages of a launch that end now. -/
def State.endingStages (s : State) (x : Launch) : List Stage :=
  let succs := s.succsOf x
  let may := x.stages.filter fun y => y.started && !y.ended && s.occupied x.id y == 0 && x.feedersRetired succs y.node
  endingFrom (x.stageFeeders succs) x.stages.length may

/-- STAGE_END: the stage ends, with every stage that meets the conditions together with it: each node cell is signalled. -/
def execStageEnd (l n : Nat) (s : State) : Out :=
  match s.launch? l with
  | none => .next s
  | some x =>
    let es := s.endingStages x
    if es.any fun y => y.node == n then
      .next (es.foldl (fun s y => (s.setStage l y.node fun y => { y with ended := true, shares := [] }).signalNode l y.node statusOk) s)
    else .next s

/-! ## Rebalancing (R391, R392) -/

/-- One stage's sample: the stage, its occupancy, its shares. -/
structure Sample where
  stage : Stage
  occ : Nat
  deriving DecidableEq, Repr

/-- A queue is more than three quarters full. -/
def Sample.pressed (p : Sample) : Bool := decide (3 * p.stage.cap < 4 * p.occ)

/-- Fuller: occupancy against CAP; ties to the lower node index. -/
def Sample.fuller (p q : Sample) : Bool :=
  decide (q.occ * p.stage.cap < p.occ * q.stage.cap) ||
    (decide (q.occ * p.stage.cap = p.occ * q.stage.cap) && decide (p.stage.node < q.stage.node))

/-- The fullest output stage of a stage. -/
def fullestOut (ps : List Sample) (p : Sample) : Option Sample := bestBy Sample.fuller (ps.filter fun q => p.stage.outs.contains q.stage.qid)

/-- The move of a launch, if any: the gaining and the losing stage, and the core that each gains or gives up. -/
def State.shareMove (s : State) (x : Launch) : Option (Nat × Nat × Nat × Nat) :=
  let all := x.stages.map fun y => ({ stage := y, occ := s.occupied x.id y } : Sample)
  let ps := all.filter fun p => p.stage.started && !p.stage.ended
  let free := fun (y : Stage) => (s.unitCores x.part y.tier y.unit).filter fun c => !y.shares.contains c
  let gainers := ps.filter fun p => p.pressed && decide (p.stage.shares.length < p.stage.maxsh)
  match bestBy Sample.fuller gainers with
  | none => none
  | some g =>
    let losers := ps.filter fun p => decide (p.stage.minsh < p.stage.shares.length) && ((fullestOut all p).map Sample.pressed).getD false &&
      p.stage.node != g.stage.node
    let worse := fun (p q : Sample) =>
      match fullestOut all p, fullestOut all q with
      | some a, some b =>
        decide (b.occ * a.stage.cap < a.occ * b.stage.cap) ||
          (decide (b.occ * a.stage.cap = a.occ * b.stage.cap) && decide (p.stage.node < q.stage.node))
      | _, _ => false
    match bestBy worse losers, free g.stage with
    | some p, c :: _ => some (g.stage.node, c, p.stage.node, p.stage.shares.foldl max 0)
    | _, _ => none

/-- Move one share within a launch. -/
def State.rebalance (s : State) (x : Launch) : State :=
  match s.shareMove x with
  | none => s
  | some (g, c, p, d) =>
    let s1 := s.setStage x.id p fun y => { y with shares := NatSet.drop y.shares d }
    s1.setStage x.id g fun y => { y with shares := NatSet.put y.shares c }

/-- REBALANCE_PERIOD: at the start of a period of 4096 cycles one share may move within each launch of the partition. -/
def execRebalancePeriod (part : Nat) (s : State) : Out :=
  if s.cycle % 4096 ≠ 0 ∨ s.cycle / 4096 = (s.part part).period ∨ (Map.find? s.parts part).isNone then .next s
  else
    let s1 := s.setPart part { s.part part with period := s.cycle / 4096 }
    .next ((s.inFlightIn part).foldl State.rebalance s1)

end Sys2Proof.Machine
end

