-- ==== Sys2Proof/Machine/Discard.lean ====
section
/-! DEFINITION. Discarding the work of contexts (10 R225; 18 R397; 19 R412; 21 R446), and the held bytes of twin crews (21 R441). -/

namespace Sys2Proof.Machine

/-! ## Held bytes (21 R441) -/

/-- A line without a byte that was stored: the byte's word is fetched once more. -/
def Line.dropByte (l : Line) (b : Nat) : Line :=
  { l with dirty := l.dirty &&& ~~~(1#128 <<< b), held := l.held &&& ~~~(1#128 <<< b), wvalid := l.wvalid &&& ~~~(1#32 <<< (b / 4)) }

/-- A line with a byte that is held no more. -/
def Line.release (l : Line) (b : Nat) : Line := { l with held := l.held &&& ~~~(1#128 <<< b) }

/-- Change the bytes of a core's L1 at physical addresses. -/
def State.onBytes (s : State) (core : Nat) (as : List Nat) (f : Line → Nat → Line) : State :=
  as.foldl
    (fun s a =>
      let c := s.core core
      match Map.find? c.l1 (a / 128) with
      | some l => s.setCore core { c with l1 := c.l1.put (a / 128) (f l (a % 128)) }
      | none => s) s

/-- Addresses that slices hold and no other slice of the core does. -/
def State.heldAlone (s : State) (core : Nat) (sls : List Slice) : List Nat :=
  let rest := ((s.gangs ++ s.cur.toList).filter fun g => g.core == core).flatMap fun g => g.slices.filter fun sl => !(sls.any fun x => x.sid == sl.sid)
  (sls.flatMap Slice.heldAt).filter fun a => !rest.any fun sl => sl.heldAt.contains a

/-- Drop the bytes that slices of a core hold. -/
def State.dropHeld (s : State) (core : Nat) (sls : List Slice) : State := s.onBytes core (sls.flatMap Slice.heldAt) Line.dropByte

/-- Release them: they become ordinary dirty bytes. -/
def State.releaseHeld (s : State) (core : Nat) (sls : List Slice) : State := s.onBytes core (s.heldAlone core sls) Line.release

/-! ## Discarding -/

/-- Cells on which no strand waits any more get WAITER 0 (01 R13). -/
def State.clearWaiters (s : State) (before : List Nat) : State :=
  (before.eraseDups.filter fun pa => !s.waitedCells.contains pa).foldl (fun s pa => s.writeHome (pa + 8) (List.replicate 8 0)) s

/-- A crew that is no more: its barriers have no owner, its scratchpad goes back to the L1. -/
def State.dropCrew (s : State) (k : Nat) : State :=
  match Map.find? s.crews k with
  | none => s
  | some c =>
    let co := s.core c.core
    let bars := co.bars.map fun e => if e.2.owner == some k then (e.1, { e.2 with owner := none }) else e
    let s1 := (s.setCore c.core { co with bars := bars }).clearScratch c.core c.base c.bytes
    { s1 with crews := s1.crews.erase k, rollbacks := s1.rollbacks.filter fun r => r.1 != k }

/-- Tell a communicator's primary of a COLL that is discarded: a CCANCEL for one that has not started, a FAILED report else (19
R412). -/
def State.abandonColl (s : State) (r : CollRun) : State :=
  let key := r.cmd.regs.getD 0 0
  match s.comm? r.cmd.part (commOf key) with
  | none => s
  | some (_, c) =>
    if r.stage = .waiting then s.setComm r.cmd.part (commOf key) ({ c with cancels := c.cancels ++ [key] }.request .cancel key s.cycle)
    else if r.stage = .finish && !r.report then s
    else s.setComm r.cmd.part (commOf key) ({ c with reports := c.reports ++ [key] }.request .done key s.cycle)

/-- An append that has taken its slot goes on (16 R354). -/
def LarderOp.mustGoOn (o : LarderOp) : Bool := o.kind == .append && decide (o.stage = 1)

/-- What contexts have in the engines goes. -/
def State.dropEngines (s : State) (hit : Nat → Bool) : State :=
  let keep := fun (c : Cmd) => !hit c.ctx
  let s1 := (s.puts.filter fun r => hit r.cmd.ctx).foldl (fun s r => s.paid r.cmd.core r.owed) s
  { s1 with
    cmds := s1.cmds.filter keep
    copies := s1.copies.filter fun r => keep r.cmd
    tiles := s1.tiles.filter fun r => keep r.cmd
    mqs := s1.mqs.filter fun r => keep r.cmd
    savedTiles := s1.savedTiles.filter fun r => !hit r.ctx
    rays := s1.rays.filter fun r => keep r.cmd
    marches := s1.marches.filter fun r => keep r.cmd
    footprints := s1.footprints.filter fun r => keep r.cmd
    larder := s1.larder.filter fun o => keep o.cmd || o.mustGoOn
    colls := s1.colls.filter fun r => keep r.cmd
    puts := s1.puts.filter fun r => keep r.cmd
    gets := s1.gets.filter fun r => keep r.cmd
    queries := s1.queries.filter fun r => keep r.cmd
    faults := s1.faults.filter fun f => !hit f.ctx
    ctxFaults := s1.ctxFaults.filter fun f => !hit f.ctx }

/-- What contexts have at the task engine goes: queued children, launches in flight and those of their graphs that wait (18 R397). -/
def State.dropTasks (s : State) (hit : Nat → Bool) : State :=
  let gone := (s.launches.filter fun x => hit x.ctx).map Launch.id
  { s with
    spawns := s.spawns.filter fun e => !hit e.ctx
    launches := s.launches.filter fun x => !hit x.ctx
    signals := s.signals.filter fun n => !gone.contains n.launch
    trig := s.trig.filter fun e => !gone.contains (e.1 / 65536)
    waiting := s.waiting.filter fun w =>
      let d := (w.checked.map Prod.fst).getD (s.directory w.part w.graph)
      !(d.valid && hit d.ctx) }

/-- Discard all the work of contexts; stores that their strands have issued are performed, and nothing else is. -/
def State.discard (s : State) (hit : Nat → Bool) : State :=
  let before := s.waitedCells
  let gone := (s.gangs ++ s.cur.toList).filter fun g => hit g.ctx
  let s1 := s.performPosted fun e => gone.any fun g => g.gid == e.gid
  let s2 := gone.foldl (fun s g => s.dropHeld g.core g.slices) s1
  let s3 := { s2 with gangs := s2.gangs.filter (fun g => !hit g.ctx), cur := s2.cur.filter fun g => !hit g.ctx }
  let s4 := ((s3.crews.filter fun e => hit e.2.ctx).map Prod.fst).foldl State.dropCrew s3
  let s5 := (s4.dropEngines hit).dropTasks hit
  let fresh := fun (e : Nat × Ctx) => if hit e.1 then (e.1, { e.2 with free := [e.2.pool], saving := false, saved := false }) else e
  { s5 with ctxs := s5.ctxs.map fresh }.clearWaiters before

/-- A context fault's discard: the context's collectives are ended for the other members too. -/
def State.killContext (s : State) (ctx : Nat) : State :=
  let rs := s.colls.filter fun r => r.cmd.ctx == ctx
  (rs.foldl State.abandonColl s).discard (· == ctx)

/-- CONTEXT_FAULT (R225): performed once raised, the whole context at once; its record names the core, the word, TEPC and TVAL (22 R453). -/
def execContextFault (part ctx : Nat) (cause : BitVec 8) (s : State) : Out :=
  match s.ctxFaults.find? fun f => f.part == part && f.ctx == ctx && f.cause == cause with
  | none => .next s
  | some f =>
    .next ((s.killContext ctx).record part
      { kind := 1, cause := cause.toNat, ctx := ctx, unit := f.core, op8 := f.op8, addr1 := f.tepc, addr2 := f.tval })

end Sys2Proof.Machine
end

