-- ==== Sys2Proof/Machine/Reliable.lean ====
section
/-! DEFINITION. Reliability (21): soft errors, scrubbing and their counts; rollback of crews; check points of twin crews; field tests;
fatal errors. -/

namespace Sys2Proof.Machine

/-! ## Soft errors (R427 to R429) -/

/-- The partition that owns a die (22 R460). -/
def State.partOfDie (s : State) (d : Nat) : Option Nat := (List.find? (fun e => e.2.dies.contains d) s.parts).map Prod.fst

def regErrcnt (g : Nat) : Nat := 0x68000 + 8 * g
def regErrvec : Nat := 0x68080

/-- ERRCNT after one more error: [31:0] corrected, [63:32] uncorrectable, both saturating (R429). -/
def errcntUp (v : Word64) (uncorrectable : Bool) : Word64 :=
  let up := fun (x : Nat) => min (2 ^ 32 - 1) (x + 1)
  let lo := (v.extractLsb' 0 32).toNat
  let hi := (v.extractLsb' 32 32).toNat
  if uncorrectable then BitVec.ofNat 64 (lo + 2 ^ 32 * up hi) else BitVec.ofNat 64 (up lo + 2 ^ 32 * hi)

/-- Count an error of a stack group; ERRVEC is raised when an uncorrectable count rises. -/
def State.countError (s : State) (group : Nat) (uncorrectable : Bool) : State :=
  match s.partOfDie (group / 4) with
  | none => s
  | some p =>
    let v := s.reg p (regErrcnt group)
    let v' := errcntUp v uncorrectable
    let s1 := s.setReg p (regErrcnt group) v'
    if uncorrectable && v' != v then s1.raiseVector p (s1.reg p regErrvec) else s1

/-- Mark a unit at home poisoned, and count it. -/
def State.poisonHome (s : State) (pa : Nat) (l2 : Bool) : State :=
  if !s.populated pa || (if l2 then s.bad8.contains (pa / 8) else s.bad.contains (pa / 32)) then s
  else (if l2 then { s with bad8 := s.bad8.put (pa / 8) } else { s with bad := s.bad.put (pa / 32) }).countError (homeOf pa) true

/-- An uncorrectable error: the unit marked, or the register's tag set; a remote line, always clean, loses the unit's words, which home serves again
(R427); the structures under parity lose the line or the entry. -/
def State.strike (s : State) (w : Strike) : State :=
  match w with
  | .hbm pa => s.poisonHome pa false
  | .l2 pa => s.poisonHome pa true
  | .remote group pa =>
    if 16 ≤ group ∨ (Map.find? (s.slice group).remote (pa / 128)).isNone then s
    else (s.setSlice group ((s.slice group).dropRange (pa / 8 * 8) 8)).countError group true
  | .l1 core line unit =>
    let c := s.core core
    match Map.find? c.l1 line with
    | some l =>
      if 16 ≤ unit then s
      else (s.setCore core { c with l1 := c.l1.put line { l with bad := l.bad.put unit } }).countError (groupOf core) true
    | none => s
  | .scratch core off =>
    if 192 ≤ core ∨ scratchSize ≤ off then s
    else
      let c := s.core core
      (s.setCore core { c with scratchBad := c.scratchBad.put (off / 8) }).countError (groupOf core) true
  | .scalar sid reg =>
    s.mapSlicesOf (fun _ sl => sl.sid == sid && decide (1 ≤ reg ∧ reg < 64))
      fun sl => { sl with scal := Map.set {} sl.scal reg { Map.get {} sl.scal reg with tag := true } }
  | .lane sid reg k =>
    s.mapSlicesOf (fun g sl => sl.sid == sid && decide (reg < g.lregs ∧ k < 4))
      fun sl => { sl with lane := Map.set {} sl.lane (4 * reg + k) { Map.get {} sl.lane (4 * reg + k) with tag := true } }
  | .frame gid => { s with gangs := updFirst (fun g => g.gid == gid && g.framed) (fun g => { g with frameBad := true }) s.gangs }
  | .vertex pa =>
    let l := s.slice (homeOf pa)
    if l.vertices.contains (pa / 128) && !l.vertexBad.contains (pa / 8) then
      (s.setSlice (homeOf pa) { l with vertexBad := l.vertexBad.put (pa / 8) }).countError (homeOf pa) true
    else s
  | .acc e k => if 768 ≤ e ∨ 65536 ≤ k then s else s.setEngine e { s.engine e with accBad := NatSet.put (s.engine e).accBad k }
  | .latch e shadow k =>
    let x := s.engine e
    if 768 ≤ e ∨ 4096 ≤ k then s
    else if shadow then s.setEngine e { x with shadow := { x.shadow with bad := NatSet.put x.shadow.bad k } }
    else s.setEngine e { x with active := { x.active with bad := NatSet.put x.active.bad k } }
  | .icache core line => s.setCore core { s.core core with code := (s.core core).code.erase line }
  | .tlb k => { s with tlb := s.tlb.eraseIdx k }

/-- The stack group that counts a corrected error; structures under parity count none. -/
def State.strikeGroup (s : State) : Strike → Option Nat
  | .hbm pa | .l2 pa | .vertex pa => if s.populated pa then some (homeOf pa) else none
  | .remote group _ => some group
  | .l1 core .. | .scratch core _ => some (groupOf core)
  | .scalar sid _ | .lane sid .. => (s.gangs.find? fun g => g.slices.any fun sl => sl.sid == sid).map fun g => groupOf g.core
  | .frame gid => (s.gangs.find? fun g => g.gid == gid).map fun g => groupOf g.core
  | .acc e _ | .latch e .. => some (groupOf (e / 4))
  | .icache .. | .tlb _ => none

/-- SOFT_ERROR: a corrected error is counted and leaves everything as it stands; an uncorrectable one is marked (R427). -/
def execSoftError (w : Strike) (uncorrectable : Bool) (s : State) : Out :=
  let parity := match w with
    | .icache .. | .tlb _ => true
    | _ => false
  if uncorrectable || parity then .next (s.strike w)
  else
    match s.strikeGroup w with
    | some g => .next (s.countError g false)
    | none => .next s

/-- SCRUB (R429): what the background pass finds at an address, in HBM or in its home slice: the unit of 32 or of 8 bytes there (R427). -/
def execScrub (w : Scrubbed) (uncorrectable : Bool) (s : State) : Out :=
  let (pa, l2) := match w with
    | .hbm pa => (pa, false)
    | .l2 pa => (pa, true)
  if !s.populated pa then .next s
  else if uncorrectable then .next (s.poisonHome pa l2)
  else .next (s.countError (homeOf pa) false)

/-- ERRCNT_CLEAR: a write of ERRCNTg clears both counts. -/
def execErrcntClear (part g : Nat) (s : State) : Out :=
  if g < 16 && (s.part part).groups.contains g then .next (s.setReg part (regErrcnt g) 0) else .next s

/-! ## Rollback (R435 to R438) -/

/-- A command of an interval is still in its engine: it has started, or its guard lets it start. -/
def State.commandsRun (s : State) (k since : Nat) : Bool :=
  let mine := fun (c : Cmd) => c.crew == some k && decide (since ≤ c.id)
  s.cmds.any (fun c => mine c && c.gstate != .unresolved) || s.copies.any (fun r => mine r.cmd) || s.tiles.any (fun r => mine r.cmd) ||
    s.mqs.any (fun r => mine r.cmd) || s.marches.any (fun r => mine r.cmd) || s.footprints.any (fun r => mine r.cmd) ||
    s.larder.any (fun o => mine o.cmd) ||
    s.rays.any fun r => mine r.cmd && (r.phase == .fresh || r.phase == .trace || r.phase == .due || r.phase == .refused)

/-- Restore logged granules, newest entry first. -/
def State.restoreLog (s : State) (core : Nat) (log : List LogEntry) : State :=
  log.foldl
    (fun s e =>
      let s1 := s.writeScratch core (16 * e.granule) e.bytes
      let c := s1.core core
      let bad := e.bad.foldl NatSet.put c.scratchBad
      s1.setCore core { c with scratchBad := bad, empty := if e.empty then c.empty.put e.granule else c.empty.drop e.granule }) s

/-- Restore the barriers of a crew as they stood at its crew sync. -/
def State.restoreBars (s : State) (k core : Nat) (copy : Map Barrier) : State :=
  let now := ((s.core core).bars.filter fun e => e.2.owner == some k).map Prod.fst
  let ids := now ++ (copy.filter fun e => e.2.owner == some k).map Prod.fst
  ids.eraseDups.foldl
    (fun s id =>
      let b := Map.get Barrier.init copy id
      s.setBarrier core id (if b.owner = some k ∨ b.owner = none then b else Barrier.init)) s

/-- Drop a core's clean copies of poisoned units. -/
def Line.dropClean (l : Line) : Line :=
  let ws := (List.range 32).filter l.stale
  { l with wvalid := ws.foldl (fun v w => v &&& ~~~(1#32 <<< w)) l.wvalid
           bad := l.bad.filter fun u => !l.stale (2 * u) }

def State.dropCleanBad (s : State) (core : Nat) : State :=
  let c := s.core core
  s.setCore core { c with l1 := c.l1.map fun e => (e.1, e.2.dropClean) }

/-- A gang as its shadow has it, ready to resume on its core. -/
def Gang.fromShadow (g : Gang) : Gang :=
  { g.mapSlices (fun sl => { sl with pending := [] }) with
    park := .none, framed := true, ready := true, pinned := true, srcs := [Src.core g.core], buf := [], waiting := false, cleared := false
    preempt := false, bubble := 0, frameBad := false }

/-- Roll one crew back. -/
def State.rollOne (s : State) (k : Nat) : State :=
  match Map.find? s.crews k with
  | none => s
  | some c =>
    let before := s.waitedCells
    let gone := s.gangs.filter fun g => g.crew == some k
    let s1 := gone.foldl (fun s g => s.dropHeld g.core g.slices) s
    let s2 := ((s1.restoreLog c.core c.log).restoreBars k c.core c.barCopy).dropCleanBad c.core
    let parked := fun (u : FaultUnit) => gone.any fun g => u == .strand g.gid
    { s2 with
      cmds := s2.cmds.filter fun (x : Cmd) => !(x.crew == some k && decide (c.since ≤ x.id))
      faults := s2.faults.map fun (f : FaultRec) => { f with units := f.units.filter fun u => !parked u }
      gangs := (s2.gangs.filter fun (g : Gang) => g.crew != some k) ++ c.shadows.map Gang.fromShadow
      crews := s2.crews.put k { c with log := [], rolled := true, syncDue := false } }.clearWaiters before

/-- CREW_ROLLBACK (R438): once the crew's revocable commands are over, the crew goes back to its last crew sync, a twin with it (R442). CHKIV
takes ROLLBK, or TWINMIS after a mismatch, once. -/
def execCrewRollback (crew : Nat) (s : State) : Out :=
  match List.find? (fun r => r.1 == crew) s.rollbacks, Map.find? s.crews crew with
  | some (_, mismatch), some c =>
    let run := s.commandsRun crew c.since || (c.partner.map fun q => s.commandsRun q (((Map.find? s.crews q).map Crew.since).getD 0)).getD false
    if run then .next s
    else
      let s1 := s.rollOne crew
      let s2 := match c.partner with
        | some q => s1.rollOne q
        | none => s1
      let s3 := { s2 with rollbacks := s2.rollbacks.filter fun r => r.1 != crew && some r.1 != c.partner }
      .next (s3.setChkiv c.ctx (chkivSet (s3.chkiv c.ctx) (if mismatch then 64 else 32)))
  | _, _ => .next s

/-! ## Check points of twin crews (R442) -/

/-- A crew's slices, by index. -/
def State.crewSlices (s : State) (k : Nat) : List (Gang × Slice) :=
  (s.gangs.filter fun g => g.crew == some k).flatMap fun g => g.slices.map fun sl => (g, sl)

def State.crewSlice (s : State) (k ix : Nat) : Option (Gang × Slice) := (s.crewSlices k).find? fun p => p.2.index == ix

/-- A gang waits at a check point. -/
def State.atCheck (s : State) (g : Gang) : Bool := (g.park == .twin false || g.park == .twin true) && !s.halted g

/-- A word whose strand's cell in g3 is a source: EXIT, and RET and VEXIT that end a slice (06 R146). -/
def endsStrand : Instr → Bool
  | .exit _ | .ret _ | .vexit _ => true
  | _ => false

/-- The source values of a word in a slice, with the lanes that it acts on. -/
def Slice.sources (c : RCtx) (i : Instr) (sl : Slice) : List Word64 :=
  let act := sl.act c (pmOf i)
  let lanes := (lanesOf act).flatMap fun k => (srcV i).map fun v => (sl.laneNow c.lregs v k).v.setWidth 64
  ((srcS i ++ if endsStrand i then [3] else []).map fun r => (sl.scalNow r).v) ++ act.setWidth 64 :: lanes

/-- Two slices of a pair agree at a check point: place and signature; before an irrevocable word its encoding and sources too. `plain` is a check
point at a crew sync, or before a store that is not irrevocable. -/
def State.agree (s : State) (plain : Bool) (a b : Gang × Slice) : Bool :=
  a.2.pc == b.2.pc && a.2.sig == b.2.sig &&
    (plain ||
      match s.peekWord a.1, s.peekWord b.1 with
      | some i, some j => i == j && a.2.sources (s.rctx a.1) i == b.2.sources (s.rctx b.1) j
      | _, _ => false)

/-- The interval of a twin pair becomes unrecoverable. -/
def State.twinUnrecoverable (s : State) (k q : Nat) : State :=
  [k, q].foldl
    (fun s j =>
      match Map.find? s.crews j with
      | some c => { s with crews := s.crews.put j { c with recoverable := false } }
      | none => s) s

/-- A mismatch: both crews roll back; in an interval that does not allow it, a context error (R442). -/
def State.mismatch (s : State) (k : Nat) (c : Crew) (g : Gang) : State :=
  s.withGang g fun g s =>
    if !s.recoverable c || s.rolledBack c then s.contextError g Cause.twinMismatch 0
    else { s.askRollback g k c true with cur := some g }

/-- A match at a crew sync: the held bytes are released, both crews begin their new intervals, and their gangs may go on. -/
def State.matchSync (s : State) (k q : Nat) : State :=
  let both := s.gangs.filter fun g => g.crew == some k || g.crew == some q
  let s1 := ((both.map Gang.core).eraseDups).foldl (fun s j => s.releaseHeld j ((both.filter fun g => g.core == j).flatMap Gang.slices)) s
  let free := fun (g : Gang) => if g.crew == some k || g.crew == some q then { g with park := .none } else g
  let s2 := { s1 with gangs := s1.gangs.map free }
  [k, q].foldl (fun s j => s.newInterval j (s.gangs.filter fun g => g.crew == some j)) s2

/-- A match before an irrevocable word: the pair's held bytes are released, and the word may be performed. -/
def State.matchWord (s : State) (k q : Nat) (g h : Gang) : State :=
  let s1 := (s.releaseHeld g.core g.slices).releaseHeld h.core h.slices
  let go := fun (x : Gang) =>
    if x.gid == g.gid || x.gid == h.gid then { x.mapSlices (fun sl => { sl with sig := 0, heldAt := [] }) with park := .none, cleared := true } else x
  { s1 with gangs := s1.gangs.map go }.twinUnrecoverable k q

/-- TWIN_CHECK_POINT (R442): the slices of a pair wait at the same place; `crew` is the primary, `index` a slice of it. At a crew sync every
pair of the crews is compared together. -/
def execTwinCheckPoint (crew index : Nat) (s : State) : Out :=
  match Map.find? s.crews crew with
  | none => .next s
  | some c =>
    match c.partner with
    | none => .next s
    | some q =>
      if c.shadow then .next s
      else
        let due := fun k => ((Map.find? s.crews k).map Crew.syncDue).getD false
        match s.crewSlice crew index, s.crewSlice q index with
        | some a, some b =>
          if !s.atCheck a.1 || !s.atCheck b.1 then .next s
          else if due crew && due q then
            let xs := s.crewSlices crew
            let same := decide (xs.length = (s.crewSlices q).length) &&
              xs.all fun x => ((s.crewSlice q x.2.index).map (s.agree true x)).getD false
            .next (if same then s.matchSync crew q else s.mismatch crew c a.1)
          else
            let same := !due crew && !due q && a.1.slices.map Slice.index == b.1.slices.map Slice.index &&
              (a.1.slices.zip b.1.slices).all fun p => s.agree (a.1.park == .twin true && b.1.park == .twin true) (a.1, p.1) (b.1, p.2)
            .next (if same then s.matchWord crew q a.1 b.1 else s.mismatch crew c a.1)
        | _, _ => .next s

/-! ## Field tests (R444, R445) -/

def regFtctl : Nat := 0x68100
def regFtstat : Nat := 0x68108
def regFtfail : Nat := 0x68110
def regFtvec : Nat := 0x68118

/-- The die of a unit: kinds 0 quadrant, 1 matrix engine, 2 ray engine, 3 copy engine, 4 Larder unit, 5 L2 slice, 6 Tlaow port (00 R4). -/
def unitDie (kind unit : Nat) : Nat :=
  match kind with
  | 0 | 1 => unit / 192
  | 2 | 3 => unit / 48
  | _ => unit / 4

/-- Fence a unit, once: it takes no new work, and a record says so. -/
def State.fence (s : State) (part kind unit : Nat) : State :=
  let k := 65536 * kind + unit
  if (s.part part).fenced.contains k then s
  else (s.setPart part { s.part part with fenced := (s.part part).fenced.put k }).record part { kind := 5, cause := 0, ctx := 0, unit := unit }

/-- Fence every unit that has failed, while FENCE is 1. -/
def State.fenceFailed (s : State) (part : Nat) : State :=
  if (s.reg part regFtctl).getLsbD 1 then (s.part part).failed.foldl (fun s k => s.fence part (k / 65536) (k % 65536)) s else s

/-- SHAKE256 with 32 bytes of output. -/
def shake32 (bs : List Byte) : List Byte := (List.range 32).map (Config.shake bs)

/-- A quadrant holds a slot that no spawn queue of the partition, of any priority, can use, nor a stage's records (R444). -/
def State.slotIdle (s : State) (part q : Nat) : Bool :=
  !(s.freeSlots q).isEmpty && !s.fenced part 0 q && !(s.works.any fun w => w.part == part && s.mayUse w q) &&
    !s.launches.any fun x => x.part == part && x.stages.any fun y => y.started && !y.ended && !y.queue.isEmpty && y.shares.contains (q / 4)

/-- The quadrants that can run a kernel which tests a unit: its own, those of its core, or those of its die. -/
def unitQuads (kind unit : Nat) : List Nat :=
  match kind with
  | 0 | 1 => [unit]
  | 2 | 3 => (List.range 4).map (4 * unit + ·)
  | _ => (List.range 192).map (192 * unitDie kind unit + ·)

/-- An engine or a Larder unit has tenant work, in progress or waiting. -/
def State.unitBusy (s : State) (part kind unit : Nat) : Bool :=
  let queued := fun (e : Engine) (p : Cmd → Bool) => s.cmds.any fun c => c.op.engine == e && p c
  match kind with
  | 1 => queued .matrix (fun c => c.core == unit / 4) || s.mqs.any (fun m => m.cmd.core == unit / 4) || s.tiles.any fun r => r.cmd.core == unit / 4
  | 2 => queued .ray (fun c => c.core == unit) || s.rays.any (fun r => r.cmd.core == unit && r.inFlight) ||
      s.marches.any (fun m => m.cmd.core == unit) || s.footprints.any fun p => p.cmd.core == unit
  | 3 => queued .copy (fun c => c.core == unit) || s.copies.any fun r => r.cmd.core == unit
  | 4 => s.larder.any fun o => o.cmd.part == part
  | _ => false

/-- A test kernel may take its unit: tenant work waits for nothing that it uses, or it is pre-empted and gives no result in this round
(log 77). -/
def State.testable (s : State) (part : Nat) (r : TestRun) : Bool :=
  decide (r.kind < 7) && (s.part part).dies.contains (unitDie r.kind r.unit) && !s.unitBusy part r.kind r.unit &&
    (unitQuads r.kind r.unit).any (s.slotIdle part)

/-- The outputs of a test kernel have the digests that its image carries (R445). -/
def testPasses (r : TestRun) : Bool := decide (r.outputs.map shake32 = Config.testDigests r.image)

/-- The result of one test kernel: counted, and a failure reported. -/
def State.testDone (s : State) (part : Nat) (r : TestRun) : State :=
  let v := s.reg part regFtstat
  let up := fun (x : Nat) => min (2 ^ 32 - 1) (x + 1)
  let lo := (v.extractLsb' 0 32).toNat
  let hi := (v.extractLsb' 32 32).toNat
  if testPasses r then s.setReg part regFtstat (BitVec.ofNat 64 (up lo + 2 ^ 32 * hi))
  else
    let s1 := s.setReg part regFtstat (BitVec.ofNat 64 (lo + 2 ^ 32 * up hi))
    let s2 := s1.setReg part regFtfail (BitVec.ofNat 64 (r.unit % 65536 + 2 ^ 16 * r.kind + 2 ^ 32 * (r.test % 65536)))
    let s3 := s2.setPart part { s2.part part with failed := (s2.part part).failed.put (65536 * r.kind + r.unit) }
    (s3.raiseVector part (s3.reg part regFtvec)).fenceFailed part

/-- One test kernel of a round: firmware runs an image only when its signature verifies (R444), and only on a unit that no tenant work wants. It
runs in a context of firmware's own, whose memory no tenant reads. -/
def State.testRun (s : State) (part : Nat) (r : TestRun) : State :=
  if s.testable part r && Config.testSigned (s.device.meas.getD 3 []) r.image then s.testDone part r else s

/-- PERIOD of FTCTL, in milliseconds. -/
def State.ftPeriod (s : State) (part : Nat) : Nat := ((s.reg part regFtctl).extractLsb' 16 16).toNat

/-- FIELD_TEST_ROUND: a round of test kernels, PERIOD after the last one, while ENABLE is 1; a PERIOD of 0 is none (log 77). -/
def execFieldTestRound (part : Nat) (runs : List TestRun) (s : State) : Out :=
  match Map.find? s.parts part with
  | none => .next s
  | some p =>
    if !(s.reg part regFtctl).getLsbD 0 || s.ftPeriod part == 0 || decide (s.cycle < p.testedAt + s.ftPeriod part * cyclesMs) || decide (2 ≤ p.power) ||
        !s.dump.isEmpty then .next s
    else
      let s1 := runs.foldl (fun s r => s.testRun part r) s
      .next (s1.setPart part { s1.part part with testedAt := s.cycle })

/-! ## Fatal errors (R446, R447) -/

/-- The kinds of the dump's sections, in the order of R447: strand state, engine state, fault records, error counters, firmware log. -/
def dumpKinds : List Nat := [1, 2, 3, 4, 5]

/-- Where the section directory stands: right behind the header. -/
def dumpDirectory : Nat := 64

/-- One entry of the section directory: kind, offset, length (log 22, DESIGN CHOICE: their widths and the codes of the kinds). -/
def dumpEntry (cycle kind : Nat) : List Byte :=
  let p := Config.dumpSection cycle kind
  toBytes (BitVec.ofNat 32 kind) 4 ++ toBytes (BitVec.ofNat 32 p.1) 4 ++ toBytes (BitVec.ofNat 64 p.2) 8

/-- The header of the state dump and its section directory. -/
def dumpHeader (stat : Word64) (cycle : Nat) : List Byte :=
  toBytes (0x44554D50 : BitVec 64) 8 ++ toBytes stat 8 ++ toBytes (BitVec.ofNat 64 cycle) 8 ++ toBytes (BitVec.ofNat 64 dumpKinds.length) 8 ++
    toBytes (BitVec.ofNat 64 dumpDirectory) 8 ++ ((List.range 24).map fun i => Config.dumpByte cycle (40 + i)) ++ dumpKinds.flatMap (dumpEntry cycle)

/-- A byte of DUMPWIN: 0 while no dump is there. -/
def State.dumpByte (s : State) (i : Nat) : Byte :=
  if s.dump.isEmpty then 0
  else if i < s.dump.length then s.dump.getD i 0
  else Config.dumpByte (fieldOf s.dump 16 8) i

/-- FATAL_ERROR: all work of every partition is discarded, no cell is signalled; the dump, FATALSTAT and the fault-record vectors of every
partition. -/
def execFatalError (cause die unit : Nat) (s : State) : Out :=
  if cause = 0 ∨ 6 < cause ∨ !s.dump.isEmpty then .next s
  else
    let stat : Word64 := BitVec.ofNat 64 (1 + 2 ^ 4 * cause + 2 ^ 8 * (die % 256) + 2 ^ 16 * (unit % 65536))
    let s1 := s.discard fun _ => true
    let s2 := { s1 with larder := [], waiting := [], jobs := [], dump := dumpHeader stat s.cycle }
    .next ((s2.parts.map Prod.fst).foldl
      (fun s p => (s.setReg p regFatalStat stat).raiseVector p (s.reg p regFrecVec)) s2)

end Sys2Proof.Machine
end

