-- ==== Sys2Proof/Machine/Contexts.lean ====
section
/-! DEFINITION. Saving and restoring a context (10 R230; 01 R27, R29; 13 R304), and the context service (22 R458). -/

namespace Sys2Proof.Machine

/-! ## Context save (10 R230) -/

/-- A gang of a context is held as a frame, or waits at REGANG, whose frame needs no re-run (R228). -/
def Gang.heldAsFrame (g : Gang) : Bool := g.framed || g.regangAt.isSome

/-- Every gang of the context is held, and its engines are at their preservation points: a Larder operation has completed, a tile that has ended
is over. A tile that waits on a translation fault stands at its boundary (11 R251, 13 R292). -/
def State.mayKeep (s : State) (ctx : Nat) : Bool :=
  (s.gangs.filter fun g => g.ctx == ctx).all Gang.heldAsFrame && (s.cur.all fun g => g.ctx != ctx) && !s.ctxFaults.any (fun f => f.ctx == ctx) &&
    !s.larder.any (fun o => o.cmd.ctx == ctx) && !s.rollbacks.any (fun r => ((Map.find? s.crews r.1).map Crew.ctx) == some ctx) &&
    !s.tiles.any fun r => r.cmd.ctx == ctx && (r.stage == .finish || r.stage == .retire)

/-- A run that has not started goes back to where it waited. A record that was ready stays so, with the chain length that it had. -/
def TileRun.back (r : TileRun) : Cmd :=
  if r.cmd.op = .mq then { r.cmd with regs := [r.at_, r.cmd.regs.getD 1 0] ++ mqExtra (some r.len) r.node } else r.cmd

/-- RPRS of a tile that stops goes into its record at home; the accumulators and latches into the frame store (13 R304). A tile of which no
step has committed takes RPRS 0 and has no entry there (13 R291). -/
def State.keepTile (s : State) (r : TileRun) : State :=
  let fresh := (s.engine r.head).rpr == r.tile.first.word
  match s.work r (writeSeenE r.cmd r.head (r.at_ + 0x68) (toBytes (if fresh then 0 else (s.engine r.head).rpr) 8)) with
  | (.ok _, s1) =>
    let x : SavedTile :=
      { ctx := r.cmd.ctx, at_ := r.at_, engines := if fresh then [] else s.chainOf r.head r.len, cmd := r.cmd, len := r.len, node := r.node
        poison := !fresh && ((s1.tile? r.cmd.id).getD r).poison, near := r.tile.inScratch || apertureOf r.at_ == some .scratch, queued := false }
    { s1.releaseTile r.cmd.id with savedTiles := (s1.savedTiles.filter fun y => y.key != x.key) ++ [x] }
  | (.error (.stop a), s1) => s1.tileFault r a
  | (.error _, s1) => s1

/-- A run stands at its boundary and waits on no fault: one that it met is met again after the restore. -/
def State.stopWaiting (s : State) (r : TileRun) : State :=
  { s with faults := s.faults.map fun (f : FaultRec) => { f with units := f.units.filter (· != .matrix r.cmd.id) } }

/-- Keep every tile of a context: one of which no step has begun goes back to where it waited (13 R304); one that meets a translation fault as
its RPRS is written holds the save back. -/
def State.keepTiles (s : State) (ctx : Nat) : State :=
  let mine := s.tiles.filter fun r => r.cmd.ctx == ctx
  let s0 := mine.foldl State.stopWaiting s
  let early := fun (r : TileRun) => r.cmd.ctx == ctx && (r.stage == TileStage.acquire || r.stage == TileStage.start)
  let s1 : State := { s0 with tiles := s0.tiles.filter fun r => !early r, cmds := (s0.tiles.filter early).map TileRun.back ++ s0.cmds }
  (s1.tiles.filter fun r => r.cmd.ctx == ctx).foldl State.keepTile s1

/-- Move a table's keys. -/
def shiftMap {α : Type} (m : Map α) (f : Nat → Nat) : Map α := m.map fun e => (f e.1, e.2)

/-- A crew's scratchpad, full-empty bits and barriers are kept, and leave its core (R230, 11 R235). -/
def State.keepCrew (s : State) (k : Nat) : State :=
  match Map.find? s.crews k with
  | none => s
  | some c =>
    let co := s.core c.core
    let inside := fun (a : Nat) => decide (c.base ≤ a) && decide (a < c.base + c.bytes)
    let image : CrewImage :=
      { scratch := shiftMap (co.scratch.filter fun e => inside e.1) (· - c.base)
        bad := (co.scratchBad.filter fun u => inside (8 * u)).map (· - c.base / 8)
        empty := (co.empty.filter fun gr => inside (16 * gr)).map (· - c.base / 16)
        bars := co.bars.filter fun e => e.2.owner == some k }
    let s1 := (s.setCore c.core { co with bars := co.bars.filter fun e => e.2.owner != some k }).clearScratch c.core c.base c.bytes
    { s1 with crews := s1.crews.put k { c with image := some image } }

/-- Cores on which engines have worked for a context, apart from its gangs'. -/
def State.engineCores (s : State) (ctx : Nat) : NatSet :=
  let cs := s.cmds ++ s.copies.map CopyRun.cmd ++ s.savedTiles.map SavedTile.cmd ++ s.rays.map Ray.cmd ++ s.marches.map March.cmd ++
    s.footprints.map Footprint.cmd
  ((cs.filter fun c => c.ctx == ctx).map Cmd.core ++ ((s.crews.filter fun e => e.2.ctx == ctx).map fun e => e.2.core)).foldl NatSet.put []

/-- The save itself: frames, tiles, crews, and the source's reconciliation at span D for every strand (01 R27). -/
def State.keepContext (s : State) (ctx : Nat) : State :=
  let s1 := s.keepTiles ctx
  if s1.tiles.any fun r => r.cmd.ctx == ctx then s1
  else
    let mine := s1.gangs.filter fun g => g.ctx == ctx
    let s2 := mine.foldl (fun s g => (s.drain g.gid).reconcileSource g.core 3) s1
    let s3 := (s2.engineCores ctx).foldl (fun s k => s.reconcileSource k 3) s2
    let s4 := ((s3.crews.filter fun e => e.2.ctx == ctx).map Prod.fst).foldl State.keepCrew s3
    let s4 := { s4 with gangs := s4.gangs.map fun (g : Gang) => if g.ctx == ctx then g.keepRegang else g
                        copies := s4.copies.map fun (r : CopyRun) => if r.cmd.ctx == ctx then { r with active := false, rowIx := [] } else r }
    match Map.find? s4.ctxs ctx with
    | some c => { s4 with ctxs := s4.ctxs.put ctx { c with saving := false, saved := true } }
    | none => s4

/-- Pre-empt every running gang of a context, now or as soon as it can be. -/
def State.preemptAll (s : State) (ctx : Nat) : State :=
  (s.gangs.filter fun g => g.ctx == ctx && !g.heldAsFrame).foldl
    (fun s g =>
      match s.gang? g.gid with
      | some g => if s.mayPreempt g then s.takePreempt g else s.putGang { g with preempt := true }
      | none => s) s

/-- CONTEXT_SAVE: the running gangs are pre-empted; once all are frames and the engines stand at their preservation points, the context is
saved. -/
def execContextSave (part ctx : Nat) (s : State) : Out :=
  match Map.find? s.ctxs ctx with
  | none => .next s
  | some c =>
    if ctx / 4096 ≠ part ∨ c.saved then .next s
    else
      let s1 := ({ s with ctxs := s.ctxs.put ctx { c with saving := true } }).preemptAll ctx
      .next (if s1.mayKeep ctx then s1.keepContext ctx else s1)

/-! ## Context restore -/

/-- The lines that a twin crew's slices hold, which a move to another core brings there (21 R441). -/
def State.heldMoved (s : State) (c : Crew) (core : Nat) : Nat :=
  if core = c.core then 0
  else ((((s.gangs.filter fun g => (s.crewOf g) == some c).flatMap Gang.slices).flatMap fun sl => sl.heldAt.map (· / 128)).foldl NatSet.put []).length

/-- A core that can take a crew's scratchpad, its reserve and the lines that it holds: its own, else the least loaded of the partition; a shadow's lies in another stack
group than its primary's (21 R439). -/
def State.crewCore (s : State) (c : Crew) : Option Nat :=
  let away := match c.partner.bind (Map.find? s.crews) with
    | some p => p.image.isNone
    | none => false
  let far := fun (k : Nat) => !away || decide (((c.partner.bind (Map.find? s.crews)).map fun p => groupOf p.core) ≠ some (groupOf k))
  let fits := fun (k : Nat) =>
    (s.findScratch k c.bytes).isSome && (!c.rb || s.reserveFree k) && s.heldFits k c.bytes c.rb (s.heldMoved c k) && far k && !s.fenced c.part 0 (4 * k)
  if fits c.core then some c.core
  else ((s.coresOf c.part 3 0).filter fits).foldl
    (fun acc k =>
      match acc with
      | some b => if s.coreLoad k < s.coreLoad b then some k else acc
      | none => some k) none

/-- A command of a crew that has moved: its core, its quadrant, and where its scratchpad lies. -/
def Cmd.moved (c : Cmd) (crew core base : Nat) : Cmd :=
  if c.crew = some crew then { c with core := core, quad := 4 * core + c.quad % 4, segs := { c.segs with scrb := BitVec.ofNat 64 base } } else c

/-- A gang of a crew that has moved: its resumption is the edge from the saving core (01 R27). -/
def Gang.moved (g : Gang) (crew core base : Nat) : Gang :=
  if g.crew = some crew then
    { g.mapSlices (fun sl => { sl with scrb := BitVec.ofNat 64 base }) with core := core, srcs := g.srcs ++ [Src.core g.core] }
  else g

/-- Bytes that a twin crew holds move with it (21 R441). -/
def State.carryHeld (s : State) (k old core : Nat) : State :=
  if old = core then s
  else
    let sls := (s.gangs.filter fun g => g.crew == some k).flatMap Gang.slices
    let as := sls.flatMap Slice.heldAt
    let vals := as.map fun a => (a, ((Map.find? (s.core old).l1 (a / 128)).map fun l => Map.get 0 l.data (a % 128)).getD 0)
    vals.foldl (fun s p => s.writeL1 core p.1 [p.2] true) (s.dropHeld old sls)

/-- A saved tile of a crew that has moved: one whose operands or record lie in scratchpad goes with it, another keeps the engine that saved it as
its edge's source (01 R27, 13 R304). -/
def SavedTile.moved (x : SavedTile) (crew core base : Nat) : SavedTile := if x.near then { x with cmd := x.cmd.moved crew core base } else x

/-- Put a saved crew on a core: the whole crew moves (01 R29). The edge from the saving core reconciles there, before any of its commands goes on
(01 R27). -/
def State.restoreCrew (s : State) (k : Nat) : State :=
  match Map.find? s.crews k with
  | none => s
  | some c =>
    match c.image, s.crewCore c with
    | some im, some core =>
      let base := (s.findScratch core c.bytes).getD 0
      let s0 := s.reconcileDest core ((Src.core c.core).span (4 * core))
      let s1 := (s0.takeUnits k { c with core := core, base := base, image := none }).carryHeld k c.core core
      let co := s1.core core
      let s2 := s1.setCore core { co with
        scratch := im.scratch.foldl (fun m e => m.put (base + e.1) e.2) co.scratch
        scratchBad := im.bad.foldl (fun m u => m.put (base / 8 + u)) co.scratchBad
        empty := im.empty.foldl (fun m u => m.put (base / 16 + u)) co.empty
        bars := im.bars.foldl (fun m e => m.put e.1 e.2) co.bars }
      let log := c.log.map fun e => { e with granule := e.granule - c.base / 16 + base / 16, bad := e.bad.map fun u => u - c.base / 8 + base / 8 }
      let c' := { c with core := core, base := base, image := none, log := log
                         shadows := c.shadows.map fun g => { g.mapSlices (fun sl => { sl with scrb := BitVec.ofNat 64 base }) with core := core } }
      { s2 with
        crews := s2.crews.put k c'
        gangs := s2.gangs.map fun (g : Gang) => g.moved k core base
        cmds := s2.cmds.map fun (x : Cmd) => x.moved k core base
        copies := s2.copies.map fun (r : CopyRun) => { r with cmd := r.cmd.moved k core base }
        mqs := s2.mqs.map fun (m : MqRec) => { m with cmd := m.cmd.moved k core base }
        savedTiles := s2.savedTiles.map fun (x : SavedTile) => x.moved k core base
        marches := s2.marches.map fun (m : March) => { m with cmd := m.cmd.moved k core base } }
    | _, _ => s

/-- A saved tile waits again, once, as an MQ record: at tier C on its crew's core when an operand lies in scratchpad, at tier D otherwise (13
R304). -/
def State.requeueTile (s : State) (x : SavedTile) : State :=
  let tier := if x.near then 1 else 3
  let c := { x.cmd with op := .mq, guard := none, gstate := .true, regs := [x.at_, BitVec.ofNat 64 tier] ++ mqExtra (some x.len) x.node }
  { s with
    cmds := s.cmds ++ [c]
    savedTiles := (s.savedTiles.filter fun y => !(y == x && x.engines.isEmpty)).map fun y => if y == x then { y with queued := true } else y }

/-- The cores on which commands of a context that belong to no crew stand. -/
def State.loneCores (s : State) (ctx : Nat) : NatSet :=
  let cs := s.cmds ++ s.copies.map CopyRun.cmd ++ s.mqs.map MqRec.cmd ++ s.marches.map March.cmd
  ((cs.filter fun c => c.ctx == ctx && c.crew.isNone).map Cmd.core).foldl NatSet.put []

/-- CONTEXT_RESTORE: crews are placed whole, saved tiles wait again, and the frames may resume (01 R28, R29; 05 R113). A command of no crew goes on
where it was saved: its edge has span C (01 R27). -/
def execContextRestore (part ctx : Nat) (s : State) : Out :=
  match Map.find? s.ctxs ctx with
  | none => .next s
  | some c =>
    if ctx / 4096 ≠ part ∨ !c.saved then .next s
    else
      let s1 := ((s.crews.filter fun e => e.2.ctx == ctx).map Prod.fst).foldl State.restoreCrew s
      if s1.crews.any fun e => e.2.ctx == ctx && e.2.image.isSome then .next s
      else
        let here := s1.crews.map Prod.fst
        let edge := fun (g : Gang) =>
          if g.ctx == ctx && !(g.crew.any fun k => here.contains k) then { g with srcs := g.srcs ++ [Src.core g.core] } else g
        let s1 := (s1.loneCores ctx).foldl (fun s k => s.reconcileDest k 1) s1
        let s2 := (s1.savedTiles.filter fun x => x.ctx == ctx && !x.queued).foldl State.requeueTile s1
        .next ({ s2 with gangs := s2.gangs.map edge, ctxs := s2.ctxs.put ctx { c with saving := false, saved := false } }.registerAll)

/-! ## The context service (22 R458) -/

def regCtxArg : Nat := 0x90008
def regCtxStat : Nat := 0x90010
def regCtxVec : Nat := 0x90018

/-- A range of the partition's HBM. -/
def State.inHbm (s : State) (part pa n : Nat) : Bool := decide (0 < n) && !inCellar pa && s.owned part pa n

/-- The argument block at home; none when CTXARG does not lead to one in the partition. -/
def State.argBlock (s : State) (part : Nat) : Option (List Byte) :=
  let a := (s.reg part regCtxArg).toNat
  if a % 64 ≠ 0 ∨ !s.owned part a 64 ∨ s.poisonedAt a 64 then none else some (s.bytesAt a 64)

/-- A command of the service: the device's result, its register and its vector. -/
def ctxService (part : Nat) (s : State) (f : List Byte → Nat × State) : Out :=
  if (Map.find? s.parts part).isNone then .next s
  else
    let (r, s1) := match s.argBlock part with
      | some bs => f bs
      | none => (1, s)
    .next ((s1.setReg part regCtxStat (BitVec.ofNat 64 (16 * r))).raiseVector part (s1.reg part regCtxVec))

/-- Zero bytes from an offset on. -/
def zeroFrom (bs : List Byte) (off : Nat) : Bool := (bs.drop off).all (· == 0)

/-- CREATE. -/
def execCtxCreate (part ctx : Nat) (s : State) : Out :=
  ctxService part s fun bs =>
    let root := fieldOf bs 0 8
    let base := fieldOf bs 8 8
    let len := fieldOf bs 16 8
    let key := 4096 * part + ctx
    if 4096 ≤ ctx ∨ root % 16384 ≠ 0 ∨ !s.inHbm part root 16384 ∨ base % 4096 ≠ 0 ∨ len % 4096 ≠ 0 ∨ len = 0 ∨ 2 ^ 56 < base + len ∨
      !zeroFrom bs 24 then (1, s)
    else if (Map.find? s.ctxs key).isSome then (2, s)
    else
      let c : Ctx := { root := root, pool := (base, len), free := [(base, len)], chkiv := 0, saving := false, saved := false, stopAll := false }
      (0, { s with ctxs := s.ctxs.put key c })

/-- A collective of a context is outstanding: it has issued, and has not ended. -/
def State.collsOut (s : State) (ctx : Nat) : Bool := s.colls.any (fun r => r.cmd.ctx == ctx) || s.cmds.any fun c => c.op == .coll && c.ctx == ctx

/-- DESTROY: not while a launch of the context is in flight or one of its collectives is outstanding. -/
def execCtxDestroy (part ctx : Nat) (s : State) : Out :=
  ctxService part s fun bs =>
    let key := 4096 * part + ctx
    if !zeroFrom bs 0 then (1, s)
    else if 4096 ≤ ctx ∨ (Map.find? s.ctxs key).isNone ∨ s.launches.any (fun x => x.ctx == key) ∨ s.collsOut key then (2, s)
    else (0, { s.tlbRemove key none with ctxs := s.ctxs.erase key })

/-- POOLADD. -/
def execCtxPooladd (part : Nat) (s : State) : Out :=
  ctxService part s fun bs =>
    let t := fieldOf bs 0 8
    let base := fieldOf bs 8 8
    let count := fieldOf bs 16 8
    let size := 4096 * 2 ^ t
    if 20 < t then (1, s)
    else if base % size ≠ 0 ∨ count = 0 ∨ !s.inHbm part base (size * count) ∨ !zeroFrom bs 24 then (1, s)
    else (0, s.setPart part { s.part part with pools := (s.part part).pools ++ [{ t := t, base := base, count := count }] })

/-- Every pass of a partition is FREE (16 R350). -/
def State.passesFree (s : State) (part : Nat) : Bool :=
  (List.range 256).all fun p => (((s.part part).larderAddr (128 * p)).map fun pa => s.byteAt pa == 0).getD true

/-- Every pass of a partition becomes FREE: its descriptor's STATE, its slots, areas and grids. -/
def State.freePasses (s : State) (part : Nat) : State :=
  let s1 := (List.range 256).foldl
    (fun s p =>
      match (s.part part).larderAddr (128 * p) with
      | some pa => s.writeHome pa [0]
      | none => s) s
  s1.setPart part { s1.part part with slots := [], shares := [] }

/-- LARDERSZ: the storage is formed anew, every pass FREE. -/
def execCtxLardersz (part : Nat) (s : State) : Out :=
  ctxService part s fun bs =>
    let n := fieldOf bs 0 8
    if n % 0x100000 ≠ 0 ∨ n = 0 ∨ 0x400000000 < n ∨ !zeroFrom bs 8 then (1, s)
    else if !s.passesFree part then (4, s)
    else (0, (s.setPart part { s.part part with larderSize := n }).freePasses part)

end Sys2Proof.Machine
end

