-- ==== Sys2Proof/Machine/Faults.lean ====
section
/-! DEFINITION. The service of translation faults (11 R251 to R254), and the migration of CELLAR pages (11 R255 to R257). -/

namespace Sys2Proof.Machine

/-! ## Replay and failure (R251; 10 R226, R227) -/

/-- A parked strand's word is issued again; it performs its unfinished parts (10 R226). -/
def State.replayStrand (s : State) (token gid : Nat) : State :=
  let wake := fun (g : Gang) =>
    match g.park with
    | .fault t _ _ => if g.gid == gid && t == token then { g with park := .none } else g
    | _ => g
  { s with gangs := s.gangs.map wake }

/-- A signal of a node cell is made again. -/
def State.replaySignal (s : State) (k : Nat) : State :=
  match s.signals.find? fun n => n.id == k with
  | some n => { s with signals := s.signals.filter fun x => x.id != k }.signalNode n.launch n.node n.status
  | none => s

/-- The service of a fault is over: what waited on it goes on. The engines wait no more once the record is gone. -/
def State.resolveFault (s : State) (f : FaultRec) : State :=
  let s1 := { s with faults := s.faults.filter fun x => x.token != f.token }
  let s2 := f.units.foldl
    (fun s u =>
      match u with
      | .strand gid => s.replayStrand f.token gid
      | .task k => s.replaySignal k
      | .copy id | .matrix id | .ray id | .fabric id =>
        match s.cmds.find? fun c => c.id == id && c.gstate == .false with
        | some c => (s.discardCmd c).endCrewOf c
        | none => s
      | .larder _ | .packet _ _ => s) s1
  s2.registerAll

/-- PAGE_FAULT at a parked strand, with the mask of its unfinished parts (10 R227); ENGINE_FAULT with the entry address at a spawn that reads
a header (05 R107). -/
def State.failStrand (s : State) (token gid : Nat) : State :=
  match s.gang? gid with
  | some g =>
    match g.park with
    | .fault t va entry =>
      let trap : Trap := match entry with
        | some e => ⟨Cause.engineFault, e⟩
        | none => ⟨Cause.pageFault, BitVec.ofNat 64 va⟩
      if t = token then s.withGang g fun g s => s.raise { g with park := .none, waiting := false } trap else s
    | _ => s
  | none => s

/-- A queued command that waits on a fault: one that is being discarded loses its cell, a record that was to be registered cannot be
read. -/
def State.failQueued (s : State) (id acc va : Nat) : State :=
  match s.cmds.find? fun c => c.id == id with
  | none => s
  | some c =>
    if c.op = .mq ∨ c.op = .mtile then
      if acc = 2 then (s.engineRecord c 0x0F c.unitNo (c.regs.getD 0 0) (BitVec.ofNat 64 va) 0).dropCmd id else s.unreadable c
    else ((s.engineRecord c 0x0F c.unitNo 0 c.cell 0).dropCmd id).endCrewOf c

/-- A copy ends where it stands, or loses its cell (12 R277). -/
def State.failCopy (s : State) (id acc va : Nat) : State :=
  if s.copies.any fun r => r.cmd.id == id then
    s.setCopy id fun r => if r.complete then { r with deadCell := true } else { r with ended := some va }
  else s.failQueued id acc va

/-- A run of a matrix engine (14 R308): at its record it is given up; in a step it ends with ENGINE_FAULT; at its cell or RPRS it goes on
without; a successor, or the list, counts as dealt with. -/
def State.failTile (s : State) (id acc va : Nat) : State :=
  let at_ : Word64 := BitVec.ofNat 64 va
  match s.tile? id with
  | none => s.failQueued id acc va
  | some r =>
    match r.stage with
    | .acquire => s
    | .start => if r.cmd.op = .mwld then s.tileFault r at_ else s.tileUnreadable r
    | .run => s.tileFault r at_
    | .finish =>
      let s1 := s.engineRecord r.cmd 0x0F r.head (if r.cmd.op = .mwld then 0 else r.at_) at_ (s.engine r.head).rpr
      if r.rprs.isSome then (s.tileFault r at_).setTile id fun x => { x with rprs := none }
      else if r.cmd.op = .mwld then s1.releaseTile id
      else s1.setTile id fun x => { x with stage := .retire }
    | .retire =>
      let one := acc == 5 || decide (r.next < (r.tile.succs r.at_).length)
      (s.engineRecord r.cmd 0x0F r.head r.at_ at_ 0).setTile id fun x => { x with next := if one then x.next + 1 else listGivenUp }

/-- A ray, a march or a footprint (15 R339). -/
def State.failRay (s : State) (id acc va : Nat) : State :=
  let at_ : Word64 := BitVec.ofNat 64 va
  match s.ray? id with
  | some r =>
    if r.phase = .fresh then (s.dropOwner r).slotHalt r (.stop at_)
    else if r.phase = .due then s.slotHalt r (.stop at_)
    else if r.phase = .pending then s.deadRay r at_
    else s.poisonRay r 3 at_
  | none =>
    match s.marches.find? fun m => m.cmd.id == id with
    | some m =>
      match m.busyLane with
      | some l =>
        let s1 := if l.begun then s.poisonLane m l 3 at_ else s.lostLane m l 3 at_
        if l.over_.isSome then s1.setLane id l.k fun x => { x with filled := x.filled + 1 } else s1
      | none =>
        match if m.wrote then none else m.lanes.find? fun l => l.mine && l.slotAt / 4096 == va / 4096 with
        | some l => s.loseSlot m l at_
        | none => { s.engineRecord m.cmd 0x0F m.cmd.core 0 m.cmd.cell 0 with marches := s.marches.filter fun x => x.cmd.id != id }
    | none =>
      if s.footprints.any fun p => p.id == id then
        { s with footprints := updFirst (fun p => p.id == id) (fun p => { p with dead := true }) s.footprints }
      else s.failQueued id acc va

/-- A Larder operation (16 R370). -/
def State.failLarder (s : State) (id va : Nat) : State :=
  { s with larder := updFirst (fun o => o.cmd.id == id) (fun o => { o with dead := some (BitVec.ofNat 64 va) }) s.larder }

/-- A command of the fabric (19 R417, R423): a COLL fails for every member; an FPUT or an FGET goes on without the packet; a cell is
given up. -/
def State.failFabric (s : State) (id acc va : Nat) : State :=
  let at_ : Word64 := BitVec.ofNat 64 va
  match s.colls.find? fun r => r.cmd.id == id with
  | some r => if r.stage = .finish then (s.setColl id fun x => { x with deadCell := true }).finishColl id else s.collFails r.cmd at_
  | none =>
    match s.puts.find? fun r => r.cmd.id == id with
    | some r =>
      if r.over then s.setPut id fun x => { x with deadCell := true }
      else (s.engineRecord r.cmd 0x0F r.cmd.core 0 at_ 0).repay r fun x => { x with sent := x.sent + 1, status := statusFaulted }
    | none =>
      match s.gets.find? fun r => r.cmd.id == id with
      | some r =>
        if r.over then (s.setGet id fun x => { x with deadCell := true }).finishGet id
        else ((s.engineRecord r.cmd 0x0F r.cmd.core 0 at_ 0).setGet id fun x =>
          { x.setPart x.stuck fun p => { p with done := true } with status := statusFaulted }).finishGet id
      | none => s.failQueued id acc va

/-- A packet or a read request at its target: its origin is told that it has failed (19 R423). -/
def State.failPacket (s : State) (op va : Nat) : State :=
  let s1 := s.setPut op fun r =>
    { r with flight := updFirst (fun f => f.p.va.toNat == va && !f.held) (fun f => { f with held := true, failed := true }) r.flight }
  let hit := fun (r : GetRun) (p : GetPart × Nat) =>
    p.1.reply.isNone && r.cmd.regs.getD 1 0 + BitVec.ofNat 64 (r.cmd.packetAt p.2) == BitVec.ofNat 64 va
  s1.setGet op fun r =>
    { r with parts := r.parts.zipIdx.map fun p => if hit r p then { p.1 with reply := some ([], [], true) } else p.1 }

/-- What the task engine does without (18 R382 to R384; 22 R463): a launch is refused, a node fails at its start or retires without its
cell, a signal is given up, a job is FAULTED. -/
def State.failTask (s : State) (k acc : Nat) : State :=
  if s.signals.any fun n => n.id == k then { s with signals := s.signals.filter fun x => x.id != k }
  else if s.waiting.any fun w => w.id == k then
    { s with waiting := updFirst (fun w => w.id == k) (fun w => { w with dead := if acc = 4 then 4 else 8 }) s.waiting }
  else if s.jobs.any fun j => j.id == k then { s with jobs := updFirst (fun j => j.id == k) (fun j => { j with dead := true }) s.jobs }
  else if 2 ^ 40 ≤ k then s.setNode (k / 2 ^ 40 - 1) (k % 2 ^ 40) fun y => { y with dead := if acc = 3 then 4 else 1 }
  else s

/-- A fault that neither firmware nor the host resolves (R251). -/
def State.failFault (s : State) (f : FaultRec) : State :=
  let s1 := { s with faults := s.faults.filter fun x => x.token != f.token }
  f.units.foldl
    (fun s u =>
      match u with
      | .strand gid => s.failStrand f.token gid
      | .copy id => s.failCopy id f.acc f.va
      | .matrix id => s.failTile id f.acc f.va
      | .ray id => s.failRay id f.acc f.va
      | .larder id => s.failLarder id f.va
      | .fabric id => s.failFabric id f.acc f.va
      | .packet op va => s.failPacket op va
      | .task k => s.failTask k f.acc) s1

/-- A fault in service. -/
def State.faultAt (s : State) (tok : Nat) : Option FaultRec := s.faults.find? fun f => f.token == tok

def State.setFault (s : State) (tok : Nat) (g : FaultRec → FaultRec) : State :=
  { s with faults := updFirst (fun f => f.token == tok) g s.faults }

/-! ## Pools (R252) -/

/-- Take a frame of a size from a partition's pool. -/
def takeFrame (t : Nat) : List Pool → Option (Nat × List Pool)
  | [] => none
  | p :: ps =>
    if p.t = t ∧ 0 < p.count then some (p.base, { p with base := p.base + 4096 * 2 ^ t, count := p.count - 1 } :: ps)
    else (takeFrame t ps).map fun r => (r.1, p :: r.2)

/-- The PNF field of a frame and its size code (R246). -/
def pnfOf (t base : Nat) : Nat := base / 2 ^ (12 + t) * 2 ^ (t + 1) + (2 ^ t - 1)

/-- An entry with another frame, V = 1 and POOL = 0; KIND and the permissions stay (R252, R256). -/
def entryWith (e t base : Nat) : Nat := e - e / 2 ^ 12 % 2 ^ 41 * 2 ^ 12 + pnfOf t base * 2 ^ 12 - e / 2 ^ 9 % 2 * 2 ^ 9 - e % 2 + 1

/-- Zero a range at home; every poison unit of it is covered. -/
def State.zeroRange (s : State) (pa n : Nat) : State :=
  let out := fun (a : Nat) => decide (a < pa) || decide (pa + n ≤ a)
  { s with mem := s.mem.filter fun (c : Host.Cell) => out c.1
           bad := s.bad.filter fun u => out (32 * u), bad8 := s.bad8.filter fun u => out (8 * u) }

/-- The entries in which a leaf of size code t stands (R246): all of its group in the table page of one of them, or that one alone. -/
def entryGroup (entryAt level t : Nat) : List Nat :=
  let n := 4096 * 2 ^ t / coverage level
  if n ≤ 1 ∨ 2048 < n then [entryAt] else (List.range n).map fun i => entryAt - 8 * (entryAt / 8 % 2048 % n) + 8 * i

/-- The entries of a group that hold what the given one holds. -/
def State.sameEntries (s : State) (entryAt level t : Nat) : List Nat :=
  (entryGroup entryAt level t).filter fun x => s.wordAt x 8 == s.wordAt entryAt 8

/-- Firmware writes a leaf into entries, at home. -/
def State.writeEntries (s : State) (es : List Nat) (e : Nat) : State :=
  es.foldl (fun s x => s.writeHome x (toBytes (BitVec.ofNat 64 e) 8)) s

/-- Units whose access waits on the service of one of some entries. -/
def State.faultsOn (s : State) (es : List Nat) : List FaultRec := s.faults.filter fun f => es.contains f.entryAt && f.entryAt != 0

/-- Replay every access that waits on one of some entries. -/
def State.replayEntries (s : State) (es : List Nat) : State := (s.faultsOn es).foldl State.resolveFault s

/-- POOL_ALLOCATION: firmware serves an entry with POOL = 1 from the pool of its size; an empty pool passes the fault to the host with WHY 2.
An entry that has changed meanwhile is tried again. -/
def execPoolAllocation (tok : Nat) (s : State) : Out :=
  match s.faultAt tok with
  | none => .next s
  | some f =>
    if !f.pool || f.stage != .new then .next s
    else
      let e := s.wordAt f.entryAt 8
      let t := leafT e
      if e % 2 = 1 ∨ e / 2 ^ 9 % 2 = 0 then .next (s.resolveFault f)
      else
        match takeFrame t (s.part f.part).pools with
        | none => .next (s.setFault tok fun x => { x with why := 2, pool := false })
        | some (base, pools) =>
          let es := s.sameEntries f.entryAt f.level t
          let s1 := (s.setPart f.part { s.part f.part with pools := pools }).zeroRange base (4096 * 2 ^ t)
          .next ((s1.writeEntries es (entryWith e t base)).replayEntries es)

/-! ## Migration (R255 to R257) -/

def regCellpol : Nat := 0x20
def regCellcap : Nat := 0x28
def regCellidle : Nat := 0x30

/-- The fault of a cell operation on a page whose frame lies in the Cellar (R255): firmware serves it by migration. -/
def State.wantsMigration (s : State) (f : FaultRec) : Bool :=
  let e := s.wordAt f.entryAt 8
  f.stage == .new && f.acc == 2 && f.why == 0 && decide (f.entryAt ≠ 0) && decide (e % 2 = 1) && decide (e / 64 % 4 = 3) &&
    inCellar (e / 2 ^ 12 % 2 ^ 41 / 2 ^ (leafT e + 1) * 2 ^ (12 + leafT e))

/-- The use of a page. -/
def State.useOf (s : State) (ctx va : Nat) : Option PageUse := s.pageUse.find? fun u => u.ctx == ctx && u.va == va

/-- Accesses of a page in the present window, and in the last one. -/
def State.usesNow (s : State) (ctx va : Nat) : Nat :=
  match s.useOf ctx va with
  | some u => if u.window = s.cycle / pageWindow then u.count else 0
  | none => 0
def State.usesLast (s : State) (ctx va : Nat) : Nat :=
  match s.useOf ctx va with
  | some u => if u.window = s.cycle / pageWindow then u.prev else if u.window + 1 = s.cycle / pageWindow then u.count else 0
  | none => 0

/-- A migration of a page into HBM is due: a cell operation waits for it, or CELLPOL asks for it. -/
def State.inboundDue (s : State) (part ctx : Nat) (l : Leaf) : Bool :=
  l.kind == 3 && inCellar l.base &&
    ((s.faultsOn (entryGroup l.entryAt l.level (leafT (s.wordAt l.entryAt 8)))).any s.wantsMigration ||
      (s.reg part regCellpol != 0 && decide ((s.reg part regCellpol).toNat < s.usesNow ctx l.vbase)))

/-- The page fits: the budget of CELLCAP, and a frame in its pool. -/
def State.inboundFits (s : State) (part : Nat) (l : Leaf) : Bool :=
  let p := s.part part
  let used := (p.migrated.map fun m => 4096 * 2 ^ m.t).sum
  (s.reg part regCellcap == 0 || decide (used + l.size ≤ (s.reg part regCellcap).toNat)) && (takeFrame (leafT (s.wordAt l.entryAt 8)) p.pools).isSome

/-- Poison in a range of memory at home. -/
def State.rangeBad (s : State) (pa n : Nat) : Bool :=
  s.bad.any (fun u => decide (pa < 32 * u + 32) && decide (32 * u < pa + n)) || s.bad8.any fun u => decide (pa < 8 * u + 8) && decide (8 * u < pa + n)

/-- A migrated page may go back: no cell of it has a nonzero WAITER, and it can be copied. -/
def State.movable (s : State) (m : Migrated) : Bool :=
  let n := 4096 * 2 ^ m.t
  !(s.waitedCells.any fun pa => decide (m.frame ≤ pa) && decide (pa < m.frame + n)) && !s.rangeBad m.frame n

/-- The migrated page that goes back first: fewest accesses in the last window, then the lowest physical address (R257). -/
def State.victim (s : State) (part : Nat) : Option Migrated :=
  bestBy (fun a b => decide (s.usesLast a.ctx a.va < s.usesLast b.ctx b.va) ||
      (s.usesLast a.ctx a.va == s.usesLast b.ctx b.va && decide (a.frame < b.frame)))
    ((s.part part).migrated.filter s.movable)

/-- Perform what is still to be performed on a range: posted stores, and loads that have been translated. -/
def State.settleRange (s : State) (pa n : Nat) : State :=
  let test := fun (p : Pending) => (p.load.map fun d => d.space != 2 && overlap d.addr d.size pa n).getD false
  let r := s.gangs.foldl
    (fun (p : List Gang × State) g =>
      let q := g.slices.foldl
        (fun (q : List Slice × State) sl =>
          let (sl', s') := q.2.performLoads g.core sl test
          (q.1 ++ [sl'], s')) ([], p.2)
      (p.1 ++ [{ g with slices := q.1 }], q.2)) ([], s)
  { r.2 with gangs := r.1 }.performPosted fun e => overlap e.addr e.data.length pa n

/-- Write back and drop every copy of a range: each core's L1 and instruction cache, each slice's remote lines (R256 step 2). Bytes that a
twin crew holds move to the new frame with their lines. -/
def State.dropCopies (s : State) (pa n : Nat) : State :=
  let inside := fun (k : Nat) => decide (pa ≤ 128 * k) && decide (128 * k < pa + n)
  let s1 := (s.cores.map Prod.fst).foldl
    (fun s c => ((s.core c).l1.filter fun e => inside e.1).foldl (fun s e => s.writeBackLine c e.1 0 128) s) s
  { s1 with
    cores := s1.cores.map fun e => (e.1, { e.2 with l1 := e.2.l1.filter (fun x => !inside x.1 || x.2.held != 0), code := e.2.code.filter fun x => !inside x.1 })
    l2 := s1.l2.map fun e => (e.1, { e.2 with remote := e.2.remote.filter fun x => !inside x.1 }) }

/-- Copy a range at home. -/
def State.copyHome (s : State) (src dst n : Nat) : State :=
  let s1 := s.zeroRange dst n
  let bytes := s.mem.filter fun (c : Host.Cell) => decide (src ≤ c.1) && decide (c.1 < src + n)
  { s1 with mem := bytes.foldl (fun m c => Map.put m (c.1 - src + dst) c.2) s1.mem }

/-- A physical address of a range after its move. -/
def rebased (old new n a : Nat) : Nat := if old ≤ a ∧ a < old + n then a - old + new else a

/-- What names a page by physical address follows it: signals' sources, records, reached cells and destinations, replies on their way, held
lines. -/
def State.rebase (s : State) (old new n : Nat) : State :=
  let f := rebased old new n
  let rekey := fun {α : Type} (m : Map α) => m.foldl (fun acc e => Map.put acc (f e.1) e.2) ([] : Map α)
  let lines := fun (m : Map Line) => m.foldl (fun acc e => Map.put acc (f (128 * e.1) / 128) e.2) ([] : Map Line)
  let slice := fun (sl : Slice) => { sl with heldAt := (sl.heldAt.map f).foldl NatSet.put [] }
  let park := fun (p : Park) =>
    match p with
    | .cellinit cs => Park.cellinit (cs.map fun c => (f c.1, c.2))
    | p => p
  { s with
    cellSrc := rekey s.cellSrc
    gangs := s.gangs.map fun g => { g.mapSlices slice with park := park g.park }
    cores := s.cores.map fun e => (e.1, { e.2 with l1 := lines e.2.l1 })
    mqs := s.mqs.map fun m => { m with pa := m.pa.map f }
    tiles := s.tiles.map fun r => { r with cellAt := r.cellAt.map f }
    colls := s.colls.map fun r => { r with dst := r.dst.map fun d => (d.1, f d.2.1, d.2.2) } }

/-- Move a page's contents and its leaf to another frame (R256): the leaf with V = 0, TLBI; copies written back and dropped; the copy; the
leaf with the new frame, in every entry in which it stands. -/
def State.movePage (s : State) (ctx va entryAt level t old new : Nat) : State :=
  let n := 4096 * 2 ^ t
  let s1 := ((s.tlbRemove ctx (some va)).settleRange old n).dropCopies old n
  let s2 := (s1.copyHome old new n).rebase old new n
  s2.writeEntries (s.sameEntries entryAt level t) (entryWith (s.wordAt entryAt 8) t new)

/-- Put a frame into its pool. -/
def State.giveFrame (s : State) (part t base : Nat) : State :=
  s.setPart part { s.part part with pools := (s.part part).pools ++ [{ t := t, base := base, count := 1 }] }

/-- A migrated page goes back to its Cellar frame; its HBM frame goes back to its pool (R257). -/
def State.pageBack (s : State) (part : Nat) (m : Migrated) : State :=
  let s1 := (s.movePage m.ctx m.va m.entryAt m.level m.t m.frame m.home).giveFrame part m.t m.frame
  (s1.setPart part { s1.part part with migrated := (s1.part part).migrated.erase m }).replayEntries (entryGroup m.entryAt m.level m.t)

/-- An inbound migration that is due and does not fit. -/
def State.inboundShort (s : State) (part : Nat) : Bool :=
  s.faults.any (fun f => f.part == part && s.wantsMigration f &&
    match s.walk f.part f.ctx f.va with
    | .leaf l => !s.inboundFits part l
    | _ => false) ||
  s.pageUse.any fun u => u.ctx / 4096 == part &&
    match s.walk part u.ctx u.va with
    | .leaf l => s.inboundDue part u.ctx l && !s.inboundFits part l
    | _ => false

/-- CELLAR_MIGRATION: inward, when a cell operation or CELLPOL asks for it and it fits; outward, the page that makes room when one does not
fit. A copy that meets an uncorrectable error passes the waiting accesses to the host with WHY 3, and the leaf keeps its frame. -/
def execCellarMigration (part ctx : Nat) (va : BitVec 64) (inward copyOk : Bool) (s : State) : Out :=
  if !inward then
    match s.victim part with
    | some m => if m.ctx = ctx ∧ m.va = va.toNat ∧ s.inboundShort part ∧ copyOk then .next (s.pageBack part m) else .next s
    | none => .next s
  else
    match s.walk part ctx va.toNat with
    | .leaf l =>
      if !s.inboundDue part ctx l || !s.inboundFits part l then .next s
      else
        let t := leafT (s.wordAt l.entryAt 8)
        let es := entryGroup l.entryAt l.level t
        match takeFrame t (s.part part).pools with
        | none => .next s
        | some (frame, pools) =>
          let s0 := (s.settleRange l.base l.size).dropCopies l.base l.size
          if !copyOk || s0.rangeBad l.base l.size then
            .next ((s0.faultsOn es).foldl (fun s f => s.setFault f.token fun x => { x with why := 3, stage := .waiting, since := s.cycle }) s0)
          else
            let m : Migrated := { ctx := ctx, va := l.vbase, t := t, entryAt := l.entryAt, level := l.level, home := l.base, frame := frame }
            let s1 := s.movePage ctx l.vbase l.entryAt l.level t l.base frame
            .next ((s1.setPart part { s1.part part with pools := pools, migrated := (s1.part part).migrated ++ [m] }).replayEntries es)
    | _ => .next s

/-- CELLAR_IDLE_RETURN: a migrated page that has taken no access for CELLIDLE milliseconds. -/
def execCellarIdleReturn (part page : Nat) (s : State) : Out :=
  match (s.part part).migrated[page]? with
  | none => .next s
  | some m =>
    let idle := (s.reg part regCellidle).toNat
    let last := ((s.useOf m.ctx m.va).map PageUse.last).getD 0
    if idle = 0 ∨ s.cycle < last + cyclesMs * idle ∨ !s.movable m then .next s else .next (s.pageBack part m)

/-! ## The fault log (R253, R254) -/

def regFlogBase : Nat := 0x40000
def regFlogSize : Nat := 0x40008
def regFlogHead : Nat := 0x40010
def regFlogTail : Nat := 0x40018
def regFlogTmo : Nat := 0x40020
def regFlogVec : Nat := 0x40030

/-- UNIT of a record, by the first unit that waits. -/
def FaultUnit.code : FaultUnit → Nat
  | .strand _ => 0
  | .copy _ => 1
  | .matrix _ => 2
  | .ray _ => 3
  | .larder _ => 4
  | .fabric _ | .packet _ _ => 5
  | .task _ => 6

/-- The bytes of a record. -/
def FaultRec.bytes (f : FaultRec) : List Byte :=
  toBytes (BitVec.ofNat 64 (f.va % 2 ^ 56)) 8 ++ toBytes (BitVec.ofNat 32 f.token) 4 ++ toBytes (BitVec.ofNat 16 (f.ctx % 4096)) 2 ++
    [BitVec.ofNat 8 f.acc, BitVec.ofNat 8 f.why, BitVec.ofNat 8 f.level, BitVec.ofNat 8 ((f.units.head?.map FaultUnit.code).getD 0)] ++
    toBytes (BitVec.ofNat 16 f.unitno) 2 ++ List.replicate 12 0

/-- Firmware serves the fault: the host is not asked. -/
def State.firmwareServes (s : State) (f : FaultRec) : Bool := f.stage == .new && (f.pool || s.wantsMigration f)

/-- FAULT_LOG_WRITE: a fault that firmware does not serve goes to the host; with no log it is unresolvable; with a full one it waits. -/
def execFaultLogWrite (tok : Nat) (s : State) : Out :=
  match s.faultAt tok with
  | none => .next s
  | some f =>
    let size := (s.reg f.part regFlogSize).toNat
    let tail := (s.reg f.part regFlogTail).toNat
    if f.stage = .logged ∨ s.firmwareServes f then .next s
    else if size = 0 then .next (s.failFault f)
    else if (tail + 1) % size = (s.reg f.part regFlogHead).toNat then
      .next (if f.stage = .new then s.setFault tok fun x => { x with stage := .waiting, since := s.cycle } else s)
    else
      let s1 := { s with host := Map.setMany 0 s.host ((s.reg f.part regFlogBase).toNat + 32 * tail) f.bytes }
      let s2 := s1.setFault tok fun x => { x with stage := .logged, since := if x.stage = .new then s.cycle else x.since }
      .next ((s2.setReg f.part regFlogTail (BitVec.ofNat 64 ((tail + 1) % size))).raiseVector f.part (s2.reg f.part regFlogVec))

/-- The fault that a TOKEN names: one that waits for the host's answer. -/
def State.tokenFault (s : State) (part : Nat) (token : BitVec 32) : Option FaultRec :=
  s.faults.find? fun f => f.part == part && f.stage == .logged && BitVec.ofNat 32 f.token == token

/-- FRESP with RETRY: the context's cached translations of the page go, and the waiting accesses are made again. -/
def execFrespRetry (part : Nat) (token : BitVec 32) (s : State) : Out :=
  match s.tokenFault part token with
  | some f => .next ((s.tlbRemove f.ctx (some f.va)).resolveFault f)
  | none => .next s

/-- FRESP with FAIL. -/
def execFrespFail (part : Nat) (token : BitVec 32) (s : State) : Out :=
  match s.tokenFault part token with
  | some f => .next (s.failFault f)
  | none => .next s

/-- The fault has waited FLOGTMO. -/
def State.overdue (s : State) (f : FaultRec) : Bool := decide (f.since + cyclesMs * (s.reg f.part regFlogTmo).toNat ≤ s.cycle)

/-- FAULT_TIMEOUT: no answer within FLOGTMO. -/
def execFaultTimeout (tok : Nat) (s : State) : Out :=
  match s.faultAt tok with
  | some f => if f.stage ≠ .new ∧ s.overdue f then .next (s.failFault f) else .next s
  | none => .next s

/-- The inbound migration that a cell operation waits for fits, or a page can make room for it. -/
def State.fits (s : State) (f : FaultRec) : Bool :=
  match s.walk f.part f.ctx f.va with
  | .leaf l => s.inboundFits f.part l || (s.victim f.part).isSome
  | .fault .. => false

/-- INBOUND_MIGRATION_TIMEOUT: an inbound migration for a cell operation that has waited FLOGTMO, with no page to move back, passes to the
host with WHY 2 (R257). -/
def execInboundMigrationTimeout (tok : Nat) (s : State) : Out :=
  match s.faultAt tok with
  | some f =>
    if s.wantsMigration f && s.overdue f && !s.fits f then .next (s.setFault tok fun x => { x with why := 2, stage := .waiting, since := s.cycle }) else .next s
  | none => .next s

end Sys2Proof.Machine
end

