-- ==== Sys2Proof/Machine/HostIf.lean ====
section
/-! DEFINITION. The host's side (22): registers and windows, boot and resets, attestation and debug, power, display and encode jobs. -/

namespace Sys2Proof.Machine

/-! ## Identity (R452) -/

/-- IDENT: all ones after a boot that has halted. -/
def State.ident (s : State) (part : Nat) : Word64 :=
  if s.device.halted then ~~~0
  else
    let p := s.part part
    let count := if s.parts.length = 4 then 2 else if s.parts.length = 2 then 1 else 0
    BitVec.ofNat 64 (p.devid.toNat + 2 ^ 12 * part + 2 ^ 14 * count + 2 ^ 16 * p.dies.headD 0 + 2 ^ 18 * p.dies.length + 2 ^ 21 * s.device.lifecycle +
      2 ^ 23 * p.debug)

/-- CXLCAP of a port as a partition reads it: 0 for a port on a die outside it. -/
def State.cxlcap (s : State) (part port : Nat) : Nat := if (s.part part).dies.contains (port / 2) then Map.get 0 s.cxl port else 0

/-- Extend a measurement register by 32 bytes (R454, R456). -/
def Device.extend (d : Device) (k : Nat) (x : List Byte) : Device := { d with meas := d.meas.set k (shake32 (d.meas.getD k [] ++ x)) }

/-! ## Boot and device reset (R454, R460, R461) -/

/-- Dies of each partition by their count; a count that is none of 1, 2 and 4 counts as a configuration that fails. -/
def diesOf (count i : Nat) : List Nat :=
  match count with
  | 4 => [i]
  | 2 => [2 * i, 2 * i + 1]
  | _ => [0, 1, 2, 3]

/-- The configuration verifies, and holds a partition count that there is (R460). -/
def bootVerified (b : Boot) : Bool :=
  let n := (Config.configured b.config).1
  Config.configSigned b.config && (n == 1 || n == 2 || n == 4)

/-- The configuration that a boot takes: partition count and device identifiers. -/
def bootConfig (b : Boot) : Nat × List Nat := if bootVerified b then Config.configured b.config else (1, [0xFFF])

/-- A firmware stage fails verification, which halts the boot (R454). -/
def bootHalts (b : Boot) : Bool := !(Config.stageSigned b.loader && Config.stageSigned b.firmware)

/-- CXL memory on a port: 0 to 1,536 GB in multiples of 256 MiB (11 R243). The GB of a Cellar port is taken as 2^30 bytes, so that a full port
is such a multiple (log 63, DESIGN CHOICE). -/
def cxlSize (n : Nat) : Nat := if n % 0x10000000 = 0 ∧ n ≤ 1536 * 2 ^ 30 then n else 0

/-- The package after a boot: MEAS0 to MEAS3 take the loader, the firmware, the configuration and the test-kernel key. A boot that halts has cleared the
registers and extends none (log 79). -/
def Device.boot (d : Device) (b : Boot) : Device :=
  let d0 := { d with meas := List.replicate 8 (List.replicate 32 0), strap := b.openStrap, halted := bootHalts b, ports := bootVerified b }
  if bootHalts b then d0
  else
    let d1 := ([b.loader, b.firmware, b.config, b.testKey].zipIdx).foldl (fun d x => d.extend x.2 (shake32 x.1)) d0
    if d.lifecycle = 0 ∧ b.openStrap then d1.extend 7 (List.replicate 32 0) else d1

/-- A partition's registers after a reset: an exhausted identity key stays so (R455). -/
def resetRegs (d : Device) : Map Word64 := if 2 ^ 20 - 1 ≤ d.leaf then [(0x40020, 100), (0x80028, 3)] else [(0x40020, 100)]

/-- A partition after a boot. -/
def Part.boot (d : Device) (b : Boot) (i : Nat) : Part :=
  { Part.reset with
    devid := BitVec.ofNat 12 ((bootConfig b).2.getD i 0xFFF)
    dies := diesOf (bootConfig b).1 i
    debug := if d.lifecycle = 0 ∧ b.openStrap then 2 else 0
    regs := resetRegs d }

/-- RESETCTL resets the device: the key, written to partition 0 (R452). -/
def State.resetKey (s : State) (part : Nat) (v : Word64) : Bool := part == 0 && v == 0x52455345 && (Map.find? s.parts part).isSome

/-- DEVICE_RESET, by a write of RESETCTL or by the reset pin: boot runs again; memory keeps its contents, and the host its own. -/
def execDeviceReset (b : Boot) (s : State) : Out :=
  let s1 : State :=
    { State.reset with
      agenda := s.agenda, free := s.free, nextId := s.nextId, mem := s.mem, bad := s.bad, bad8 := s.bad8, host := s.host, msix := s.msix
      device := s.device.boot b
      cxl := (b.cxl.take 8).zipIdx.foldl (fun m x => Map.set 0 m x.2 (cxlSize x.1)) []
      parts := if bootHalts b then [] else (List.range (bootConfig b).1).map fun i => (i, Part.boot s.device b i) }
  if b.resetctl.any fun w => !s.resetKey w.1 w.2 then .next s
  else .next ((s1.parts.map Prod.fst).foldl State.freePasses s1)

/-- A function-level reset faults a context: its work is discarded as for every context fault (10 R225), its record names it, and no word; the
spec gives no CAUSE for it (log 54). -/
def State.resetContext (s : State) (ctx : Nat) : State :=
  { (s.killContext ctx).record (ctx / 4096) { kind := 1, cause := (Config.resetCause s.free).toNat, ctx := ctx, unit := 0 } with free := s.free + 1 }

/-- FUNCTION_LEVEL_RESET (R461): every context of the partition faults, and its fault is recorded; passes become FREE; tables and registers go back to their reset
values, but for FATALSTAT and the fences, which a device reset alone clears (21 R445, R446). -/
def execFunctionLevelReset (part : Nat) (s : State) : Out :=
  match Map.find? s.parts part with
  | none => .next s
  | some p =>
    let ctxs := (s.ctxs.filter fun e => e.1 / 4096 == part).map Prod.fst
    let s1 := ctxs.foldl State.resetContext s
    let s2 := ctxs.foldl (fun s c => s.tlbRemove c none) s1
    let fatal := s.reg part regFatalStat
    let regs := Map.set 0 (resetRegs s.device) regFatalStat fatal
    let p' : Part := { Part.reset with devid := p.devid, dies := p.dies, regs := regs, fenced := p.fenced, failed := p.failed, busyAt := s.cycle }
    let s3 := { s2 with
      ctxs := s2.ctxs.filter fun e => e.1 / 4096 != part
      waiting := s2.waiting.filter fun w => w.part != part
      jobs := s2.jobs.filter fun j => j.part != part
      larder := s2.larder.filter fun o => o.cmd.part != part
      faults := s2.faults.filter fun f => f.part != part
      pageUse := s2.pageUse.filter fun u => u.ctx / 4096 != part }
    .next ((s3.setPart part p').freePasses part)

/-! ## Attestation (R455) -/

def regAttnonce : Nat := 0x80000
def regAttstat : Nat := 0x80028

/-- ATTNONCE, and a cleared one. -/
def State.nonce (s : State) (part : Nat) : List Byte := (List.range 4).flatMap fun k => toBytes (s.reg part (regAttnonce + 8 * k)) 8
def State.clearNonce (s : State) (part : Nat) : State := (List.range 4).foldl (fun s k => s.setReg part (regAttnonce + 8 * k) 0) s

/-- STATE of ATTSTAT. -/
def State.attState (s : State) (part : Nat) : Nat := (s.reg part regAttstat).toNat % 4
def State.setAtt (s : State) (part st : Nat) (leaf : Nat) : State := s.setReg part regAttstat (BitVec.ofNat 64 (st + 2 ^ 32 * leaf))

/-- The last leaf of the identity key. -/
def lastLeaf : Nat := 2 ^ 20 - 1

/-- ATTEST_REQUEST: in IDLE or DONE the nonce is latched and STATE becomes BUSY; refused in lifecycle RETURNED. -/
def execAttestRequest (part : Nat) (s : State) : Out :=
  if (Map.find? s.parts part).isNone ∨ s.attState part % 2 = 1 ∨ s.device.lifecycle = 2 ∨ !s.device.key then .next s
  else
    let leaf := (s.reg part regAttstat).toNat / 2 ^ 32
    if lastLeaf ≤ s.device.leaf then .next (s.setAtt part 3 leaf)
    else .next ((s.setPart part { s.part part with latched := s.nonce part }).setAtt part 1 leaf)

/-- After the last leaf every partition's STATE is EXHAUSTED. -/
def State.exhaust (s : State) : State :=
  (s.parts.map Prod.fst).foldl (fun s p => s.setAtt p 3 ((s.reg p regAttstat).toNat / 2 ^ 32)) s

/-- A report's bytes 0x000 to 0x12F. -/
def State.reportBody (s : State) (part leaf : Nat) : List Byte :=
  (s.part part).latched ++ toBytes (s.ident part) 8 ++ toBytes (BitVec.ofNat 32 leaf) 4 ++ List.replicate 4 0 ++ s.device.meas.flatten

/-- ATTEST_DONE: the counter advances, the report is signed at the new leaf and placed. -/
def execAttestDone (part : Nat) (s : State) : Out :=
  if s.attState part ≠ 1 then .next s
  else if lastLeaf ≤ s.device.leaf ∨ !s.device.key then .next (s.setAtt part 3 ((s.reg part regAttstat).toNat / 2 ^ 32))
  else
    let leaf := s.device.leaf + 1
    let body := s.reportBody part leaf
    let report := body ++ (List.range 2820).map (Config.signature leaf body) ++ List.replicate 972 0
    let s1 := { s with device := { s.device with leaf := leaf } }
    let s2 := (s1.setPart part { s1.part part with report := report }).setAtt part 2 leaf
    .next (if leaf = lastLeaf then s2.exhaust else s2)

/-! ## Debug (10 R231 to R233; R456, R457) -/

def regDbgastat : Nat := 0x30050
def regDbgtok : Nat := 0x31000

/-- The token in DBGTOK. -/
def State.token (s : State) (part : Nat) : List Byte := (List.range 512).flatMap fun k => toBytes (s.reg part (regDbgtok + 8 * k)) 8

/-- The debug unit works: the partition is in RUN or IDLE (R459). -/
def State.debugUnit (s : State) (part : Nat) : Bool := (Map.find? s.parts part).isSome && decide ((s.part part).power < 2)

/-- DBGAUTH_SUBMIT: ignored while a token is being checked. -/
def execDbgauthSubmit (part : Nat) (s : State) : Out :=
  if !s.debugUnit part ∨ (s.reg part regDbgastat).toNat % 4 = 1 then .next s else .next (s.setReg part regDbgastat 1)

/-- The first check that a token fails, in order: format, IDENT, nonce, state, signature. -/
def State.tokenReason (s : State) (part : Nat) (t : List Byte) : Option Nat :=
  let state := fieldOf t 4 4
  let nonce := (t.drop 0x10).take 32
  if fieldOf t 0 4 ≠ 1 ∨ (state ≠ 1 ∧ state ≠ 2) ∨ !(t.drop 0xB34).all (· == 0) then some 1
  else if fieldOf t 8 8 ≠ (s.ident part).toNat then some 2
  else if nonce.all (· == 0) ∨ nonce ≠ s.nonce part then some 3
  else if state = 2 ∧ s.device.lifecycle ≠ 0 then some 4
  else if !Config.debugSigned (t.take 0x30) ((t.drop 0x30).take 2820) then some 5
  else none

/-- DBG_TOKEN_CHECKED: the partition enters STATE and MEAS7 is extended, or REFUSED has the reason; ATTNONCE is cleared. -/
def execDbgTokenChecked (part : Nat) (s : State) : Out :=
  if !s.debugUnit part ∨ (s.reg part regDbgastat).toNat % 4 ≠ 1 then .next s
  else
    let t := s.token part
    let s1 : State := match s.tokenReason part t with
      | some r => s.setReg part regDbgastat (BitVec.ofNat 64 (3 + 16 * r))
      | none =>
        let s1 := { s with device := s.device.extend 7 (shake32 t) }
        (s1.setPart part { s1.part part with debug := fieldOf t 4 4 }).setReg part regDbgastat 2
    .next (s1.clearNonce part)

/-- DBGCTL_CLOSE. -/
def execDbgctlClose (part : Nat) (s : State) : Out :=
  if s.debugged part then .next ((s.setPart part { s.part part with debug := 0 }).setReg part regDbgctl 0) else .next s

/-- DBGCTL_STOP_ALL: stop-all mode is selected, and every gang of the context stops at its next word boundary. -/
def execDbgctlStopAll (part ctx : Nat) (s : State) : Out :=
  if s.debugged part && ctx / 4096 == part && (Map.find? s.ctxs ctx).isSome then .next ((s.setReg part regDbgctl 1).stopContext ctx) else .next s

/-- BREAKPOINT_STOP: an armed comparator stops the gang before the word. -/
def execBreakpointStop (gid : Nat) (s : State) : Out :=
  onGang s gid (fun g => s.breaks g && !g.stopped) fun g s => (s.putGang { g with stopped := true }).breakStops g

/-- The context of a gang has no stopped gang left: placements go on. -/
def State.unstopContext (s : State) (ctx : Nat) : State :=
  if s.gangs.any fun g => g.ctx == ctx && g.stopped then s
  else { s with ctxs := s.ctxs.map fun e => if e.1 = ctx then (e.1, { e.2 with stopAll := false }) else e }

/-- A stopped gang goes on, past the breakpoint at its present word; for one word alone, or for good. -/
def letGo (part gid : Nat) (one : Bool) (s : State) : Out :=
  onGang s gid (fun g => g.stopped && g.part == part && s.debugged part) fun g s =>
    let s1 := (s.setReg part regDbgctl 0).putGang { g with stopped := false, stepOne := one, passStop := true }
    if one then s1 else s1.unstopContext g.ctx

/-- DBGCTL_RESUME. -/
def execDbgctlResume (part gid : Nat) (s : State) : Out := letGo part gid false s

/-- DBGCTL_STEP. -/
def execDbgctlStep (part gid : Nat) (s : State) : Out := letGo part gid true s

/-- What the debugger reads of a slice of a stopped gang (10 R232). -/
def State.debugRead (s : State) (g : Gang) (sl : Slice) (r : DebugReg) : SVal :=
  match r with
  | .scalar k => sl.scalNow k
  | .lane v k => ⟨(sl.laneNow g.lregs v k).v.setWidth 64, (sl.laneNow g.lregs v k).tag⟩
  | .mask m => ⟨(sl.maskNow m).setWidth 64, false⟩
  | .em => ⟨sl.em.setWidth 64, false⟩
  | .csr n => ⟨s.csr g sl n, false⟩

/-- What the debugger's write leaves of the slice; a CSR takes it as a CSRW's (05 R118). -/
def Slice.debugWrite (sl : Slice) (lregs : Nat) (r : DebugReg) (x : SVal) : Slice :=
  match r with
  | .scalar k => if k = 0 then sl else { sl with scal := Map.set {} sl.scal (sl.scalKey k) x }
  | .lane v k => { sl with lane := Map.set {} sl.lane (sl.laneKey lregs v (k % 4)) ⟨x.v.setWidth 32, x.tag⟩ }
  | .mask m => if m = 0 ∨ 8 ≤ m then sl else { sl with masks := Map.set 0 sl.masks m (x.v.setWidth 4) }
  | .em => { sl with em := x.v.setWidth 4 &&& ~~~sl.exited }
  | .csr n => sl.csrWrite n x.v

/-- The debugger writes a register of a stopped gang's slice (10 R232). -/
def State.debugWrite (s : State) (gid sid : Nat) (r : DebugReg) (x : SVal) : State :=
  match s.gang? gid with
  | some g =>
    if g.stopped && s.debugged g.part then
      let s1 := if r = .csr 4 then s.setQuad g.quadNo { s.quad g.quadNo with rr := x.v.getLsbD 0 } else s
      s1.putGang (g.mapSlices fun sl => if sl.sid = sid then sl.debugWrite g.lregs r x else sl)
    else s
  | none => s

/-- The debugger asks for the pre-emption of a stopped gang, which then resumes stopped (10 R232): it is taken as every other is (R228). -/
def State.debugPreempt (s : State) (gid : Nat) : State :=
  match s.gang? gid with
  | some g => if g.stopped && !g.framed && s.debugged g.part then s.putGang { g with preempt := true } else s
  | none => s

/-- DEVELOPMENT becomes PRODUCTION for good (R456): the fuse is blown from outside. OPEN cannot be reached there, so that a partition in OPEN is
CLOSED (log 79). -/
def State.production (s : State) : State :=
  if s.device.lifecycle = 0 then
    { s with device := { s.device with lifecycle := 1 }
             parts := s.parts.map fun (e : Nat × Part) => if e.2.debug = 2 then (e.1, { e.2 with debug := 0 }) else e }
  else s

/-- LIFECYCLE_RETURNED: with a signed token PRODUCTION becomes RETURNED; all HBM is zeroed and the identity key destroyed. -/
def execLifecycleReturned (token : List Byte) (s : State) : Out :=
  if s.device.lifecycle ≠ 1 ∨ !Config.lifecycleSigned token then .next s
  else
    .next { s with
      device := { s.device with lifecycle := 2, key := false }
      mem := s.mem.filter fun (c : Host.Cell) => inCellar c.1
      bad := s.bad.filter fun u => inCellar (32 * u)
      bad8 := s.bad8.filter fun u => inCellar (8 * u) }

/-! ## Power (R459) -/

def regPwrstat : Nat := 0x10

/-- The last PWRCTL write was refused, or not. -/
def State.refusedPwr (s : State) (part : Nat) (r : Bool) : State := s.setReg part regPwrstat (if r then 4 else 0)

/-- PWRSTAT. -/
def State.pwrstat (s : State) (part : Nat) : Word64 := s.reg part regPwrstat ||| BitVec.ofNat 64 (s.part part).power

/-- A partition's cores and slices lose what they hold: dirty bytes go home first. -/
def State.coolDown (s : State) (part : Nat) : State :=
  let mine := fun (d : Nat) => (s.part part).dies.contains d
  let s1 := ((s.cores.map Prod.fst).filter fun c => mine (dieOf c)).foldl State.writeBackAll s
  { s1 with
    cores := s1.cores.filter fun e => !mine (dieOf e.1)
    l2 := s1.l2.filter fun e => !mine (e.1 / 4)
    quads := s1.quads.filter fun e => !mine (e.1 / 192)
    tlb := s1.tlb.filter fun t => t.ctx / 4096 != part }

/-- PWR_RUN. -/
def execPwrRun (part : Nat) (s : State) : Out :=
  match Map.find? s.parts part with
  | some p => if p.power = 3 then .next s else .next ((s.setPart part { p with power := 0, busyAt := s.cycle }).refusedPwr part false)
  | none => .next s

/-- Work that a partition which goes off does not keep (log 50): of its contexts, its launches and its jobs. -/
def State.dropAll (s : State) (part : Nat) : State :=
  { s.discard (fun c => c / 4096 == part) with waiting := s.waiting.filter (fun w => w.part != part), jobs := s.jobs.filter fun j => j.part != part }

/-- PWR_PARTITION_OFF: while LSTAT shows no launch waiting or in flight. -/
def execPwrPartitionOff (part : Nat) (s : State) : Out :=
  match Map.find? s.parts part with
  | some p =>
    if p.power = 3 then .next s
    else if s.lstat part ≠ 0 then .next (s.refusedPwr part true)
    else
      let s1 := (s.dropAll part).coolDown part
      .next ((s1.setPart part { s1.part part with power := 2 }).refusedPwr part false)
  | none => .next s

/-- PWR_SLEEP: on partition 0, while every other partition is off: the whole device sleeps, debug CLOSED. What is not kept is discarded. -/
def execPwrSleep (part : Nat) (s : State) : Out :=
  match Map.find? s.parts part with
  | some p =>
    if p.power = 3 then .next s
    else if part ≠ 0 ∨ s.parts.any fun e => e.1 != 0 && e.2.power != 2 then .next (s.refusedPwr part true)
    else
      let s2 := (s.dropAll 0).coolDown 0
      let s3 := { s2 with parts := s2.parts.map fun (e : Nat × Part) => (e.1, { e.2 with power := 3, debug := 0 }) }
      .next (s3.refusedPwr part false)
  | none => .next s

/-- PCIE_WAKE: partition 0 runs again; the others stay off until PWRCTL 0. -/
def execPcieWake (s : State) : Out :=
  if (s.part 0).power ≠ 3 then .next s
  else .next { s with parts := s.parts.map fun (e : Nat × Part) => (e.1, { e.2 with power := if e.1 = 0 then 0 else 2, busyAt := s.cycle }) }

/-- A partition has placed, queued or engine work. -/
def State.hasWork (s : State) (part : Nat) : Bool :=
  let mine := fun (c : Cmd) => c.part == part
  s.gangs.any (fun g => g.part == part) || s.spawns.any (fun e => e.part == part) || s.cmds.any mine || s.copies.any (fun r => mine r.cmd) ||
    s.tiles.any (fun r => mine r.cmd) || s.mqs.any (fun m => mine m.cmd) || s.rays.any (fun r => mine r.cmd && r.inFlight) ||
    s.marches.any (fun m => mine m.cmd) || s.footprints.any (fun p => mine p.cmd) || s.larder.any (fun o => mine o.cmd) ||
    s.colls.any (fun r => mine r.cmd) || s.puts.any (fun r => mine r.cmd) || s.gets.any (fun r => mine r.cmd) || s.queries.any (fun q => mine q.cmd) ||
    s.launches.any (fun x => x.part == part) || s.waiting.any (fun w => w.part == part) || s.jobs.any fun j => j.part == part

/-- IDLE_ENTRY: after 1 ms without work. -/
def execIdleEntry (part : Nat) (s : State) : Out :=
  match Map.find? s.parts part with
  | some p =>
    if p.power = 0 ∧ !s.hasWork part ∧ p.busyAt + cyclesMs ≤ s.cycle then .next (s.setPart part { p with power := 1 }) else .next s
  | none => .next s

/-- The last cycle in which each partition had work. -/
def State.noteWork (s : State) : State :=
  { s with parts := s.parts.map fun (e : Nat × Part) => if s.hasWork e.1 then (e.1, { e.2 with busyAt := s.cycle }) else e }

/-! ## Display and encode (R462, R463) -/

/-- A job for a register: one in progress and up to 16 behind it. -/
def queueJob (part reg : Nat) (a : Word64) (s : State) : Out :=
  let mine := s.jobs.filter fun j => j.part == part && j.reg == reg
  if 17 ≤ mine.length ∨ a.toNat % 64 ≠ 0 ∨ !s.owned part a.toNat 64 ∨ !s.dump.isEmpty ∨ 2 ≤ (s.part part).power then .next s
  else
    let j : Job := { id := s.nextId, part := part, reg := reg, at_ := a.toNat, started := false, dead := false, status := none }
    .next ({ s with nextId := s.nextId + 1, jobs := s.jobs ++ [j] }.wake part)

/-- HEAD_JOB: the JOB register of a head of the partition's j-th die. -/
def execHeadJob (part die head : Nat) (a : BitVec 64) (s : State) : Out :=
  if (s.part part).dies.length ≤ die ∨ 4 ≤ head then .next s else queueJob part (0x70000 + 0x1000 * die + 8 * head) a s

/-- ENCODER_JOB. -/
def execEncoderJob (part die enc : Nat) (a : BitVec 64) (s : State) : Out :=
  if (s.part part).dies.length ≤ die ∨ 2 ≤ enc then .next s else queueJob part (0x70040 + 0x1000 * die + 8 * enc) a s

def State.setJob (s : State) (id : Nat) (f : Job → Job) : State := { s with jobs := updFirst (fun j => j.id == id) f s.jobs }

/-- The first job of its register, by number. -/
def State.job? (s : State) (part id : Nat) : Option Job :=
  match s.jobs.find? fun j => j.id == id && j.part == part with
  | some j => if (s.jobs.takeWhile fun x => x.id != id).any fun x => x.part == part && x.reg == j.reg then none else some j
  | none => none

/-- The bytes of a job's record, at home. -/
def State.jobRecord (s : State) (j : Job) : List Byte := s.bytesAt j.at_ 64
def State.jobCtx (s : State) (j : Job) : Nat := 4096 * j.part + fieldOf (s.jobRecord j) 0 2 % 4096

/-- A cell that a job's record names. -/
def State.jobCell (s : State) (j : Job) (off : Nat) : Reach × State :=
  s.reachCell (taskUnit j.part) j.part (s.jobCtx j) rootSegs (BitVec.ofNat 64 (fieldOf (s.jobRecord j) off 8))

/-- A job waits on a translation fault at a cell. -/
def State.jobFault (s : State) (j : Job) (why lv e : Nat) (pool : Bool) (va : Nat) : State := s.taskFault j.part (s.jobCtx j) why lv e pool va 2 j.id

/-- JOB_START: a job waits until START's COUNT is 0 or below. -/
def execJobStart (part job : Nat) (s : State) : Out :=
  match s.job? part job with
  | none => .next s
  | some j =>
    if j.started ∨ 2 ≤ (s.part part).power ∨ s.taskWaits j.id then .next s
    else if j.dead ∨ s.poisonedAt j.at_ 64 ∨ fieldOf (s.jobRecord j) 8 8 = 0 then .next (s.setJob job fun x => { x with started := true })
    else
      match s.jobCell j 8 with
      | (.at pa, s1) => if s1.cellCount pa ≤ 0 then .next (s1.setJob job fun x => { x with started := true }) else .next s1
      | (.cannot, s1) => .next (s1.setJob job fun x => { x with started := true, dead := true })
      | (.fault why lv e pool va, s1) => .next (s1.jobFault j why lv e pool va)

/-- A job's accesses: in its context, in user mode (11 R247), at home. -/
def State.jobCmd (s : State) (j : Job) : Cmd := { taskCmd j.id j.part (s.jobCtx j) with segs := rootSegs }

/-- What a job reads and writes: descriptors and sources are read, then the output is written (R463). -/
def jobWork (reg : Nat) (c : Cmd) (record : List Byte) : Eng Unit := do
  let surface := fun off =>
    let a := BitVec.ofNat 64 (fieldOf record off 8)
    if a = 0 then pure [] else readHomeE c 0 a 32
  let place := fun (d : List Byte) => if d.isEmpty then [] else Config.surface d
  let dst ← surface 0x18
  let ds ← [0x20, 0x28, 0x30, 0x38].mapM surface
  let srcs ← ds.mapM fun d => do
    let bss ← (place d).mapM fun p => readHomeE c 0 (BitVec.ofNat 64 p.1) p.2
    pure bss.flatten
  let _ ← (place dst).foldlM (fun (n : Nat) p => do
    writeE c 0 true (BitVec.ofNat 64 p.1) ((List.range p.2).map fun i => Config.picture reg record (dst :: ds) srcs (n + i))
    pure (n + p.2)) 0
  pure ()

/-- Signal a job's DONE by 1 at span P, and drop the job; a cell that cannot be signalled is passed over. -/
def State.jobSignal (s : State) (j : Job) (status : Nat) : State :=
  let out := fun (s : State) => { s with jobs := s.jobs.filter fun x => x.id != j.id }
  if fieldOf (s.jobRecord j) 0x10 8 = 0 then out s
  else
    match s.jobCell j 0x10 with
    | (.at pa, s1) => out (s1.signalCell pa 1 status false .pod)
    | (.cannot, s1) => out s1
    | (.fault why lv e pool va, s1) => if j.dead then out s1 else s1.jobFault j why lv e pool va

/-- The output of a job is written, or it has failed: its status. -/
def State.jobEnd (s : State) (j : Job) (status : Nat) : State :=
  (s.setJob j.id fun x => { x with status := some status }).jobSignal j status

/-- JOB_DONE: FAULTED for a fault that cannot be resolved or for poison, which also sets CHKIV. -/
def execJobDone (part job : Nat) (s : State) : Out :=
  match s.job? part job with
  | none => .next s
  | some j =>
    if !j.started ∨ 2 ≤ (s.part part).power ∨ s.taskWaits j.id then .next s
    else
      match j.status with
      | some st => .next (s.jobSignal j st)
      | none =>
        if j.dead then .next ((s.setJob job fun x => { x with dead := false }).jobEnd { j with dead := false } statusFaulted)
        else if s.poisonedAt j.at_ 64 then .next ((s.consume (s.jobCtx j) (Config.jobBit j.id % 5)).jobEnd j statusFaulted)
        else
          match s.run (jobWork j.reg (s.jobCmd j) (s.jobRecord j)) with
          | (.error (.fault f), s1, _) => .next (s1.addFault f (.task j.id)).2
          | (.error _, s1, _) => .next (s1.jobEnd j statusFaulted)
          | (.ok _, s1, true) => .next ((s1.consume (s1.jobCtx j) (Config.jobBit j.id % 5)).jobEnd j statusFaulted)
          | (.ok _, s1, false) => .next (s1.jobEnd j statusOk)

/-- HEAD_SCANOUT: a frame leaves over DisplayPort; nothing of the device changes. -/
def execHeadScanout (part die head : Nat) (s : State) : Out := .next s

/-! ## Registers (R451) -/

/-- What a register holds after a write of BAR0, for the registers that have no row of their own; none where the write is ignored. -/
def State.written (s : State) (part off : Nat) (v : Word64) : Option Word64 :=
  let page : Word64 := v &&& ~~~0xFFF#64
  let ring := fun (lo hi : Nat) => if v = 0 ∨ (lo ≤ v.toNat ∧ v.toNat ≤ hi ∧ v.toNat = 2 ^ Nat.log2 v.toNat) then some v else none
  let index := fun (size least : Nat) => if v.toNat < max least (s.reg part size).toNat then some v else none
  if off % 8 ≠ 0 then none
  else if off = regCellpol then some v
  else if off = regCellcap then some page
  else if off = regCellidle then (if v.toNat < 2 ^ 32 then some v else none)
  else if off = regFrecBase then some page
  else if off = regFrecSize then ring 16 4096
  else if off = regFrecHead then index regFrecSize 1
  else if off = regFrecVec then some v
  else if 0x30000 ≤ off ∧ off < 0x30040 then
    (if (s.part part).debug = 0 then none else some (v &&& ((1#64 <<< 63) ||| ((1#64 <<< 56) - 1))))
  else if 0x31000 ≤ off ∧ off < 0x32000 then some v
  else if off = regFlogBase then some page
  else if off = regFlogSize then ring 16 65536
  else if off = regFlogHead then index regFlogSize 0
  else if off = regFlogTmo then (if 1 ≤ v.toNat ∧ v.toNat ≤ 60000 then some v else none)
  else if off = regFlogVec then some v
  else if off = regCtabBase then some page
  else if 0x60000 ≤ off ∧ off < 0x68000 then some (v &&& 3)
  else if off = regErrvec then some v
  else if off = regFtctl then some (v &&& 0xFFFF0003)
  else if off = regFtvec then some v
  else if regAttnonce ≤ off ∧ off < regAttnonce + 32 then some v
  else if off = regCtxArg then some v
  else if off = regCtxVec then some v
  else if 0xF0000 ≤ off ∧ off < 0xF0400 then some (if off % 16 = 8 then v &&& 0xFFFFFFFF else v)
  else none

/-- The effects of a register write beside the register: FENCE of FTCTL fences the units that have failed (21 R445); the second half of an entry
of the MSI-X table, whose bit 32 is the vector's mask bit, masks the vector or not. -/
def State.afterWrite (s : State) (part off : Nat) (v : Word64) : State :=
  if off = regFtctl then s.fenceFailed part
  else if 0xF0000 ≤ off ∧ off < 0xF0400 ∧ off % 16 = 8 then s.maskVector part ((off - 0xF0000) / 16) (v.getLsbD 32)
  else s

/-- REGISTER_WRITE, with what it brings about; RESETCTL has its row (`DEVICE_RESET`); a write to the trigger window is no launch, and
is dropped and counted (18 R381). -/
def execRegisterWrite (part off : Nat) (v : BitVec 64) (s : State) : Out :=
  if (Map.find? s.parts part).isNone then .next s
  else if 0x20000 ≤ off ∧ off < 0x20040 then .next (s.dropLaunch part)
  else
    match s.written part off v with
    | none => .next s
    | some w => .next ((s.setReg part off w).afterWrite part off v)

/-- Where a byte of a window lies (R450): the Loft, or the partition's HBM through its stacks in order, as far as BAR4's present size
reaches. -/
def State.windowAt (s : State) (part bar off : Nat) : Option Nat :=
  let p := s.part part
  match bar with
  | 2 => p.loftAddr off
  | 4 =>
    let pa := p.groups.headD 0 * stackWindow + off
    if decide (off < p.window) && !inCellar pa && s.populated pa && p.dies.contains (dieOfAddr pa) then some pa else none
  | _ => none

/-- The host resizes BAR4: a power of two from 1 GiB to 1 TiB (R450; 00 R7). -/
def State.resizeWindow (s : State) (part bytes : Nat) : State :=
  if (Map.find? s.parts part).isSome && decide (2 ^ 30 ≤ bytes) && decide (bytes ≤ 2 ^ 40) && decide (bytes = 2 ^ Nat.log2 bytes) then
    s.setPart part { s.part part with window := bytes }
  else s

/-- HOST_WINDOW_WRITE: a posted write, performed at home; bytes beyond the partition's memory are dropped. -/
def execHostWindowWrite (part bar off : Nat) (data : List Byte) (s : State) : Out :=
  if (Map.find? s.parts part).isNone then .next s
  else .next (s.writeRuns (data.zipIdx.filterMap fun x => (s.windowAt part bar (off + x.2)).map fun pa => (pa, x.1)))

end Sys2Proof.Machine
end

