-- ==== Sys2Proof/Machine/Larder.lean ====
section
/-! DEFINITION. The Larder (16): passes, vertices, the quantities, and what a unit does for each operation. -/

namespace Sys2Proof.Machine

/-! ## Status codes (R356) -/

def larderOk : Nat := 0
def larderNotReady : Nat := 1
def larderRetired : Nat := 2
def larderNoSlot : Nat := 3
def larderClosed : Nat := 4
def larderFull : Nat := 5
def larderStale : Nat := 6
def larderInvalid : Nat := 7
def larderPoisoned : Nat := 8
def larderFault : Nat := 9

/-- OP8 of a word. -/
def LarderKind.op8 : LarderKind → Nat
  | .append => 0xA8
  | .connect _ => 0xA9
  | .merge _ => 0xAA
  | .reweight => 0xAB
  | .retire _ => 0xAC
  | .seal => 0xAD
  | .opening _ => 0xAE
  | .read _ => 0xAF
  | .hold => 0xB0
  | .drop => 0xB1

/-! ## Records and descriptors (R349, R352) -/

/-- Replace bytes of a string from an offset on. -/
def setAt (bs : List Byte) (off : Nat) (xs : List Byte) : List Byte := bs.take off ++ xs ++ bs.drop (off + xs.length)

def setF (bs : List Byte) (off : Nat) (x : Word32) : List Byte := setAt bs off (toBytes x 4)

/-- VINFO of a record. -/
def vinfo (bs : List Byte) : Nat := fieldOf bs 0x0C 4
def recPass (bs : List Byte) : Nat := vinfo bs % 256
def recDepth (bs : List Byte) : Nat := vinfo bs / 2 ^ 8 % 16
def recKind (bs : List Byte) : Nat := vinfo bs / 2 ^ 12 % 4
def recSpec (bs : List Byte) : Bool := (vinfo bs).testBit 14
def recInfl (bs : List Byte) : Bool := (vinfo bs).testBit 15
def recQpass (bs : List Byte) : Nat := vinfo bs / 2 ^ 16 % 256
def recParent (bs : List Byte) : Nat := fieldOf bs 0x44 4
def recQ (bs : List Byte) : Word32 := f32At bs 0x24
def recC (bs : List Byte) : Word32 := f32At bs 0x28
def recM (bs : List Byte) : Word32 := f32At bs 0x2C

/-- No vertex. -/
def noVertex : Nat := 0xFFFFFFFF

/-- Fields of a pass descriptor. -/
def passState (d : List Byte) : Nat := fieldOf d 0 1
def passHome (d : List Byte) : Nat := fieldOf d 1 1
def passCap (d : List Byte) : Nat := fieldOf d 4 4
def passCount (d : List Byte) : Nat := fieldOf d 8 4
def passDone (d : List Byte) : Nat := fieldOf d 0x0C 4
def passRsq (d : List Byte) : Word32 := f32At d 0x14
def passEtam (d : List Byte) : Word32 := f32At d 0x20
def passEtac (d : List Byte) : Word32 := f32At d 0x24
def passRetcnt (d : List Byte) : Nat := fieldOf d 0x28 4
def passRecoff (d : List Byte) : Nat := fieldOf d 0x30 8
def passGridoff (d : List Byte) : Nat := fieldOf d 0x38 8

/-- Bytes of Larder storage by space-4 offset, and whether one of them is poisoned. -/
def State.larderRead (s : State) (part off n : Nat) : List Byte × Bool :=
  match (s.part part).larderAddr off with
  | some pa => (s.bytesAt pa n, s.poisonedAt pa n || s.vertexPoison pa n)
  | none => (List.replicate n 0, false)

/-- The device writes bytes of Larder storage. -/
def State.larderWrite (s : State) (part off : Nat) (bs : List Byte) : State :=
  match (s.part part).larderAddr off with
  | some pa => s.writeVertices pa bs
  | none => s

/-- The descriptor of a pass. -/
def State.passAt (s : State) (part p : Nat) : List Byte × Bool := s.larderRead part (128 * p) 128

/-- The record of a vertex. -/
def State.recordAt (s : State) (part v : Nat) : List Byte × Bool :=
  s.larderRead part (passRecoff (s.passAt part (v / 2 ^ 24)).1 + 128 * (v % 2 ^ 24)) 128

/-- A unit has a vertex's record in its vertex cache once it has read or written it (00 R2). -/
def State.touchRecord (s : State) (part v : Nat) : State :=
  let d := (s.passAt part (v / 2 ^ 24)).1
  match (s.part part).larderAddr (passRecoff d + 128 * (v % 2 ^ 24)) with
  | some pa => s.touchVertex (passHome d) pa
  | none => s

def State.writeRecordAt (s : State) (part v : Nat) (bs : List Byte) : State :=
  (s.larderWrite part (passRecoff (s.passAt part (v / 2 ^ 24)).1 + 128 * (v % 2 ^ 24)) bs).touchRecord part v

/-- Write a count of a descriptor. -/
def State.setPassField (s : State) (part p off x : Nat) : State := s.larderWrite part (128 * p + off) (toBytes (BitVec.ofNat 32 x) 4)

/-- A slot's hardware state. -/
def State.slotOf (s : State) (part v : Nat) : Slot := Map.get {} (s.part part).slots v

def State.setSlot (s : State) (part v : Nat) (x : Slot) : State :=
  s.setPart part { s.part part with slots := Map.set {} (s.part part).slots v x }

/-- The status of a vertex identifier: 0 when it is READY. -/
def State.vertexStatus (s : State) (part v : Nat) : Nat :=
  let (d, bad) := s.passAt part (v / 2 ^ 24)
  if bad then larderPoisoned
  else if passState d = 0 then larderRetired
  else if passCount d ≤ v % 2 ^ 24 then larderNoSlot
  else
    match (s.slotOf part v).state with
    | .ready => larderOk
    | .appending => larderNotReady
    | .retired => larderRetired
    | .empty => larderNoSlot

/-- The unit at which a pass's descriptor is accessed: HOMEG's, or the partition's first one while the pass is FREE (R348). -/
def State.unitOf (s : State) (part p : Nat) : Nat :=
  let d := (s.passAt part p).1
  if passState d = 0 then (s.part part).groups.headD 0 else passHome d

/-! ## Areas of a share (R348) -/

/-- The offsets of a stack group's share that its unit hands out. -/
def Part.shareRange (p : Part) (group : Nat) : Option (Nat × Nat) :=
  (p.groups.findIdx? (· == group)).map fun k => (k * p.larderSize + (if k = 0 then 0x8000 else 0), (k + 1) * p.larderSize)

/-- An area of a share is free. -/
def Part.areaFree (p : Part) (lo hi off len : Nat) : Bool :=
  decide (lo ≤ off) && decide (off + len ≤ hi) && decide (off % 128 = 0) && !p.shares.any fun h => overlap h.off h.len off len

/-- A free area of a share: the one that the free choice names, else the first. -/
def Part.findArea (p : Part) (n group len : Nat) : Option Nat :=
  match p.shareRange group with
  | none => none
  | some (lo, hi) =>
    let c := Config.larderPlace n
    if p.areaFree lo hi c len then some c
    else (lo :: p.shares.map fun h => (h.off + h.len + 127) / 128 * 128).foldl
      (fun best x => if p.areaFree lo hi x len && (best.map fun b => decide (x < b)).getD true then some x else best) none

/-! ## The quantities (R353, R354) -/

/-- Squared distance of two positions, in the order of R353. -/
def dist2 (a b : List Byte) : Word32 :=
  let d := fun k => subF (f32At a (4 * k)) (f32At b (4 * k))
  fmaF (d 2) (d 2) (fmaF (d 1) (d 1) (mulF (d 0) (d 0)))

/-- Q, C, M and D2 of a record under its parent, with ηm and ηc. -/
def quantities (rec_ par : List Byte) (etam etac : Word32) : Word32 × Word32 × Word32 × Word32 :=
  let d2 := dist2 rec_ par
  let pf := f32At rec_ 0x30
  let pr := f32At rec_ 0x34
  let co := f32At rec_ 0x38
  let a := absF (f32At rec_ 0x3C)
  let (q1, c1, m1) :=
    if recSpec par then (f32Zero, mulF co (recC par), mulF co (recM par))
    else
      let f := divF co pf
      (divF f32One pf, mulF f (addF (addF (mulF (recC par) pr) (recQ par)) etam),
        mulF f (addF (addF (mulF (recM par) pr) (mulF (recQ par) etac)) f32One))
  let q2 := if recDepth par = 0 ∧ recInfl par = true then q1 else mulF q1 d2
  (divF q2 a, divF c1 a, divF m1 a, d2)

/-- A record with new Q, C, M and D2 and governing pass. -/
def reweighted (rec_ : List Byte) (q : Word32 × Word32 × Word32 × Word32) (qpass : Nat) : List Byte :=
  let v := vinfo rec_ % 2 ^ 16 + 2 ^ 16 * qpass
  setF (setF (setF (setF (setAt rec_ 0x0C (toBytes (BitVec.ofNat 32 v) 4)) 0x24 q.1) 0x28 q.2.1) 0x2C q.2.2.1) 0x40 q.2.2.2

/-- The weight of a connection (R354): pe_f, pe_r, pl_f, pl_r, cos_e, cos_l. -/
def connectWeight (e l : List Byte) (x : List Word32) (etam d2 : Word32) : Word32 :=
  let r := fun k => x.getD k 0
  let ae := divF (mulF (r 0) (absF (r 5))) d2
  let al := divF (mulF (r 2) (absF (r 4))) d2
  let wl := mulF ae (addF (addF etam (recQ l)) (mulF (recC l) (r 3)))
  let we := mulF al (addF (addF etam (recQ e)) (mulF (recC e) (r 1)))
  divF f32One (addF (addF wl f32One) we)

/-- The weight of a merge: pe_f, pe_r. -/
def mergeWeight (e l : List Byte) (x : List Word32) (etac : Word32) : Word32 :=
  let wl := addF (mulF (recQ l) etac) (mulF (recM l) (x.getD 0 0))
  let we := addF (mulF (recQ e) etac) (mulF (recM e) (x.getD 1 0))
  divF f32One (addF (addF wl f32One) we)

/-! ## Retirement (R350, R366) -/

/-- A RETIRING pass whose vertices have all retired is FREE. -/
def State.freeIfDone (s : State) (part p : Nat) : State :=
  let d := (s.passAt part p).1
  if passState d = 3 ∧ passRetcnt d = passCount d then
    let s1 := s.larderWrite part (128 * p) [0]
    s1.setPart part ((s1.part part).freePass p)
  else s

/-- Retire a vertex that can retire, then its parent in turn; a path has at most 16 vertices. With the new state goes whether a descriptor or a
record was read with an uncorrectable error, which leaves that vertex as it is (R371). -/
def State.retireVertex (s : State) (part : Nat) : Nat → Nat → Bool × State
  | 0, _ => (false, s)
  | fuel + 1, v =>
    let x := s.slotOf part v
    let p := v / 2 ^ 24
    let (d, bad) := s.passAt part p
    let (r, rbad) := s.recordAt part v
    if x.state ≠ .ready ∨ x.mark = false ∨ x.hold ≠ 0 ∨ x.child ≠ 0 then (false, s)
    else if bad then (true, s)
    else if passState d ≠ 2 ∧ passState d ≠ 3 then (false, s)
    else if rbad then (true, s)
    else
      let par := recParent r
      let s1 := (s.setSlot part v { x with state := .retired }).setPassField part p 0x28 (passRetcnt d + 1)
      let y := s1.slotOf part par
      let (b, s2) := if par = noVertex ∨ y.child = 0 then (false, s1)
        else (s1.setSlot part par { y with child := y.child - 1 }).retireVertex part fuel par
      (b, s2.freeIfDone part p)

/-- Vertices of a pass that have a slot, rising. -/
def State.verticesOf (s : State) (part p : Nat) : List Nat :=
  ((s.part part).slots.filter fun e => e.1 / 2 ^ 24 == p).map Prod.fst

/-- Retire what can retire in a pass, and whether poison was read. -/
def State.retirePass (s : State) (part p : Nat) : Bool × State :=
  let (b, s1) := (s.verticesOf part p).foldl
    (fun q v =>
      let (b, s') := q.2.retireVertex part 17 v
      (q.1 || b, s')) (false, s)
  (b, s1.freeIfDone part p)

/-- Release holds that a search has taken. -/
def State.releaseHolds (s : State) (part : Nat) (vs : List Nat) : State :=
  vs.foldl
    (fun s v =>
      let x := s.slotOf part v
      if x.hold = 0 then s else ((s.setSlot part v { x with hold := x.hold - 1 }).retireVertex part 17 v).2) s

/-! ## Operations in flight -/

def State.larderOp? (s : State) (id : Nat) : Option LarderOp := s.larder.find? fun o => o.cmd.id == id

def State.setLarderOp (s : State) (id : Nat) (f : LarderOp → LarderOp) : State :=
  { s with larder := updFirst (fun o => o.cmd.id == id) f s.larder }

/-- The registers that an operation writes. -/
def LarderOp.write (o : LarderOp) (s : State) (vals : List Word32) (tag : Bool) : State :=
  match o.key with
  | some k => s.deliverResult o.cmd o.word (.scalar k) ⟨(vals.headD 0).setWidth 64, false⟩
  | none => s.deliverLanes o.cmd o.word o.k o.rings (vals.map fun w => ⟨w, tag⟩)

/-- An operation is over: its registers are written, a join that reconciles the core at the span that joins it to every unit
touched (R370). -/
def State.larderDone (s : State) (o : LarderOp) (vals : List Word32) (tag : Bool) : State :=
  let span := spanOf ((groupOf o.cmd.core :: o.units).map Src.group) o.cmd.quad
  let s1 := o.write (s.reconcileDest o.cmd.core span) vals tag
  { s1 with larder := s1.larder.filter fun x => x.cmd.id != o.cmd.id }

/-- The result registers of a status: the other ones read 0 (R356). -/
def LarderKind.results (kind : LarderKind) (status : Nat) : List Word32 :=
  let st := BitVec.ofNat 32 status
  match kind with
  | .append => [0, st]
  | .connect _ => [0, st, 0]
  | .merge _ => [0, 0, st]
  | .reweight => [0, 0, 0, st]
  | .retire _ | .seal | .opening _ => [st]
  | .read _ | .hold | .drop => [st, 0]

/-- MARK as GREAD's status has it: bit 4, beside whatever status (R356, R368). -/
def State.markBit (s : State) (o : LarderOp) : Nat :=
  if o.kind = .read false ∧ (s.slotOf o.cmd.part (o.cmd.regs.getD 0 0).toNat).mark = true then 16 else 0

/-- An operation ends with a status. POISONED sets the tags and CHKIV (R371). -/
def State.larderStatus (s : State) (o : LarderOp) (status : Nat) : State :=
  let bad := decide (status = larderPoisoned)
  let s1 := if bad then s.consume o.cmd.ctx chkLarder else s
  s1.larderDone o (o.kind.results (status + s.markBit o)) bad

/-- The unit of an operation with a memory operand: that of the vertex's pass. An append has none before its staging record is read, and reads
it from the unit of the issuing core's own stack group (log 25). -/
def State.opUnit (s : State) (o : LarderOp) : Nat :=
  match o.kind with
  | .append => groupOf o.cmd.core
  | _ => s.unitOf o.cmd.part ((o.cmd.regs.getD 0 0).toNat / 2 ^ 24)

/-- A memory operand that cannot be had: FAULT, recorded with the OP8, the word's address and the failing address (R371, 22 R453). -/
def State.larderDenied (s : State) (o : LarderOp) (at_ : Word64) : State :=
  let r : Record := { kind := 2, cause := 0x0F, ctx := o.cmd.ctx, unit := s.opUnit o, op8 := o.kind.op8, addr1 := o.pc, addr2 := at_ }
  (s.record o.cmd.part r).larderStatus o larderFault

/-- Engine work on a memory operand. -/
def State.larderWork {α : Type} (s : State) (o : LarderOp) (e : Eng α) (f : α → Bool → State → State) : State :=
  match s.run e with
  | (.ok a, s1, bad) => f a bad s1
  | (.error (.fault x), s1, _) => (s1.addFault x (.larder o.cmd.id)).2
  | (.error (.stop at_), s1, _) => s1.larderDenied o at_
  | (.error .wait, s1, _) => s1

/-- The k-th operand. -/
def LarderOp.arg (o : LarderOp) (k : Nat) : Word64 := o.cmd.regs.getD k 0
def LarderOp.argN (o : LarderOp) (k : Nat) : Nat := (o.arg k).toNat

/-- Note a unit. -/
def LarderOp.touch (o : LarderOp) (s : State) (p : Nat) : LarderOp := { o with units := o.units ++ [s.unitOf o.cmd.part p] }

/-- A seal of a pass waits for its appends. -/
def State.sealing (s : State) (part p : Nat) : Bool :=
  s.larder.any fun o => o.cmd.part == part && o.kind == .seal && o.stage == 1 && o.argN 0 == p

/-! ## GAPP (R362) -/

/-- The checks of an append whose staging record has been read, and its parent's record. -/
def State.appendCheck (s : State) (part : Nat) (st : List Byte) : Nat × List Byte :=
  let p := recPass st
  let (d, bad) := s.passAt part p
  let par := recParent st
  if 1 < recKind st then (larderInvalid, [])
  else if bad then (larderPoisoned, [])
  else if passState d ≠ 1 ∨ s.sealing part p then (larderClosed, [])
  else if par = noVertex then (if passCount d = passCap d then larderFull else larderOk, [])
  else
    let status := s.vertexStatus part par
    let (pr, pbad) := s.recordAt part par
    if status ≠ larderOk then (status, [])
    else if pbad then (larderPoisoned, [])
    else if recDepth pr = 15 ∨ recKind pr ≠ recKind st then (larderInvalid, [])
    else if recQpass pr ≠ p then (larderStale, [])
    else if (s.slotOf part par).child = 2 ^ 24 - 1 then (larderFull, [])
    else if passCount d = passCap d then (larderFull, [])
    else (larderOk, pr)

/-- The record that an append writes. -/
def appendRecord (st par : List Byte) (etam etac : Word32) : List Byte :=
  let root := decide (recParent st = noVertex)
  let p := recPass st
  let depth := if root then 0 else recDepth par + 1
  let v := vinfo st % 2 ^ 16 - vinfo st / 2 ^ 8 % 16 * 2 ^ 8 + depth * 2 ^ 8 + 2 ^ 16 * p
  let r := setAt st 0x0C (toBytes (BitVec.ofNat 32 v) 4)
  if root then setF r 0x40 f32Zero
  else
    let (q, c, m, d2) := quantities st par etam etac
    setF (setF (setF (setF r 0x24 q) 0x28 c) 0x2C m) 0x40 d2

/-- An append allocates its slot: APPENDING, the parent's CHILD counted. -/
def State.allocate (s : State) (part : Nat) (st : List Byte) : Nat × State :=
  let p := recPass st
  let d := (s.passAt part p).1
  let v := p * 2 ^ 24 + passCount d
  let s1 := (s.setPassField part p 8 (passCount d + 1)).setSlot part v { state := .appending }
  let par := recParent st
  (v, if par = noVertex then s1 else
    let y := s1.slotOf part par
    s1.setSlot part par { y with child := y.child + 1 })

/-- GAPP: its first move reads, checks and allocates; its second writes the record and makes it READY. -/
def State.larderAppend (s : State) (o : LarderOp) : State :=
  let part := o.cmd.part
  if o.stage = 0 then
    s.larderWork o (readHomeE o.cmd (s.opUnit o) (o.arg 0) 128) fun st bad s =>
      if bad then s.larderStatus o larderPoisoned
      else
        let (status, par) := s.appendCheck part st
        if status ≠ larderOk then s.larderStatus (o.touch s (recPass st)) status
        else
          let d := (s.passAt part (recPass st)).1
          let r := appendRecord st par (passEtam d) (passEtac d)
          let (v, s1) := s.allocate part st
          let us := s.unitOf part (recPass st) :: (if recParent st = noVertex then [] else [s.unitOf part (recParent st / 2 ^ 24)])
          s1.setLarderOp o.cmd.id fun x => { x with stage := 1, vertex := v, record := r, units := us }
  else
    let p := o.vertex / 2 ^ 24
    let s1 := s.writeRecordAt part o.vertex o.record
    let s2 := s1.setSlot part o.vertex { s1.slotOf part o.vertex with state := .ready }
    (s2.setPassField part p 0x0C (passDone (s2.passAt part p).1 + 1)).larderDone o [BitVec.ofNat 32 o.vertex, 0] false

/-! ## GCONN (R363) -/

def State.larderConnect (s : State) (o : LarderOp) (merge : Bool) : State :=
  let part := o.cmd.part
  let e := o.argN 0
  let l := o.argN 1
  let o1 := (o.touch s (e / 2 ^ 24)).touch s (l / 2 ^ 24)
  let se := s.vertexStatus part e
  let sl := s.vertexStatus part l
  let (re, be) := s.recordAt part e
  let (rl, bl) := s.recordAt part l
  let d := (s.passAt part (e / 2 ^ 24)).1
  if se ≠ larderOk then s.larderStatus o1 se
  else if sl ≠ larderOk then s.larderStatus o1 sl
  else if be || bl then s.larderStatus o1 larderPoisoned
  else if recKind re ≠ 0 ∨ recKind rl ≠ 1 then s.larderStatus o1 larderInvalid
  else if recQpass re ≠ recPass re ∨ recQpass rl ≠ recPass re then s.larderStatus o1 larderStale
  else
    let xs := (o.cmd.regs.drop 2).map fun w => w.setWidth 32
    let d2 := dist2 rl re
    if merge then s.larderDone o1 [mergeWeight re rl xs (passEtac d), 0, 0] false
    else s.larderDone o1 [connectWeight re rl xs (passEtam d) d2, 0, d2] false

/-! ## GMERGE (R364) -/

/-- Entries of a GMERGE buffer. -/
def mergeRoom : Nat := 16

/-- A search under way: the vertices found with their d2, and where it stops: a cursor with FULL or OK, or POISONED. -/
structure Search where
  found : List (Nat × Word32)
  stop : Option (Nat × Nat)
  deriving DecidableEq, Repr

/-- The search of one pass from a slot on, one indivisible step. -/
def State.searchPass (s : State) (part : Nat) (e : List Byte) (p from_ : Nat) (found : List (Nat × Word32)) : Search × State :=
  let (d, bad) := s.passAt part p
  let gridLen := ((s.part part).shares.find? fun h => h.pass == p && h.off == passGridoff d).map Share.len
  if bad then (⟨found, some (0, larderPoisoned)⟩, s)
  else if passState d ≠ 2 then (⟨found, none⟩, s)
  else if (s.larderRead part (passGridoff d) (gridLen.getD 0)).2 then (⟨found, some (0, larderPoisoned)⟩, s)
  else
    ((s.verticesOf part p).filter fun v => decide (from_ ≤ v % 2 ^ 24)).foldl
      (fun q v =>
        let x := q.2.slotOf part v
        if q.1.stop.isSome || x.state != .ready || x.mark then q
        else
          let (r, rb) := q.2.recordAt part v
          let s := q.2.touchRecord part v
          if rb then ({ q.1 with stop := some (0, larderPoisoned) }, s)
          else if recKind r ≠ 1 ∨ leF (dist2 r e) (passRsq d) = false then (q.1, s)
          else if q.1.found.length = mergeRoom then ({ q.1 with stop := some (v, larderOk) }, s)
          else if x.hold = 65535 then ({ q.1 with stop := some (v, larderFull) }, s)
          else ({ q.1 with found := q.1.found ++ [(v, dist2 r e)] }, s.setSlot part v { x with hold := x.hold + 1 }))
      (⟨found, none⟩, s)

/-- The bytes of a buffer: the entries, then empty ones. -/
def mergeBytes (found : List (Nat × Word32)) : List Byte :=
  let entry := fun (x : Nat × Word32) => toBytes (BitVec.ofNat 32 x.1) 4 ++ toBytes x.2 4
  (found.map entry).flatten ++ (List.replicate (mergeRoom - found.length) (entry (noVertex, f32Zero))).flatten

/-- The place of a pass in a search's order. -/
def mergeIx (base p : Nat) : Nat := (p + 256 - base % 256) % 256

/-- GMERGE: its first move checks; each further one searches one pass; the last writes the buffer. In `chain` stand the cursor
and, once the search has stopped, the status. -/
def State.larderMerge (s : State) (o : LarderOp) (base : Nat) : State :=
  let part := o.cmd.part
  let e := o.argN 0
  let mask := o.arg 1
  let buf := o.arg 3
  let selected := fun (i : Nat) => decide (i < 64) && mask.getLsbD i
  if o.stage = 0 then
    let cur := o.argN 2
    s.larderWork o (reachE o.cmd true (s.opUnit o) buf 128) fun _ _ s =>
      let o1 := o.touch s (e / 2 ^ 24)
      let st := s.vertexStatus part e
      let (re, be) := s.recordAt part e
      if st ≠ larderOk then s.larderStatus o1 st
      else if be then s.larderStatus o1 larderPoisoned
      else if recKind re ≠ 0 then s.larderStatus o1 larderInvalid
      else if !selected (mergeIx base (cur / 2 ^ 24)) then s.larderStatus o1 larderInvalid
      else s.setLarderOp o.cmd.id fun x => { x with stage := 1, record := re, vertex := cur, units := o1.units }
  else if o.stage = 1 then
    let p := o.vertex / 2 ^ 24
    let (r, s1) := s.searchPass part o.record p (o.vertex % 2 ^ 24) o.found
    let o1 := o.touch s p
    let next := ((List.range 64).filter fun i => decide (mergeIx base p < i) && selected i).head?
    match r.stop, next with
    | some (c, st), _ =>
      if st = larderPoisoned then (s1.releaseHolds part (r.found.map Prod.fst)).larderStatus o1 larderPoisoned
      else s1.setLarderOp o.cmd.id fun x => { x with stage := 2, found := r.found, chain := [c, st], units := o1.units }
    | none, some i => s1.setLarderOp o.cmd.id fun x => { x with found := r.found, vertex := (base + i) % 256 * 2 ^ 24, units := o1.units }
    | none, none => s1.setLarderOp o.cmd.id fun x => { x with stage := 2, found := r.found, chain := [noVertex, larderOk], units := o1.units }
  else
    match s.run (writeE o.cmd (s.opUnit o) true buf (mergeBytes o.found)) with
    | (.ok _, s1, _) =>
      s1.larderDone o [BitVec.ofNat 32 o.found.length, BitVec.ofNat 32 (o.chain.getD 0 0), BitVec.ofNat 32 (o.chain.getD 1 0)] false
    | (.error (.fault x), s1, _) => (s1.addFault x (.larder o.cmd.id)).2
    | (.error (.stop at_), s1, _) => (s1.releaseHolds part (o.found.map Prod.fst)).larderDenied o at_
    | (.error .wait, s1, _) => s1

/-! ## GRW (R365) -/

/-- The chain from a vertex's root to it, or the status that stops it. -/
def State.vertexChain (s : State) (part : Nat) : Nat → Nat → List Nat → Nat × List Nat
  | 0, _, acc => (larderOk, acc)
  | fuel + 1, v, acc =>
    let st := s.vertexStatus part v
    let (r, bad) := s.recordAt part v
    if st ≠ larderOk then (st, acc)
    else if bad then (larderPoisoned, acc)
    else if recParent r = noVertex then (larderOk, v :: acc)
    else s.vertexChain part fuel (recParent r) (v :: acc)

/-- GRW: its first move finds the chain; each further one rewrites a member, from its parent's new record. -/
def State.larderReweight (s : State) (o : LarderOp) : State :=
  let part := o.cmd.part
  let v := o.argN 0
  let g := o.argN 1
  let (d, bad) := s.passAt part (g % 256)
  if o.stage = 0 then
    let o1 := (o.touch s (v / 2 ^ 24)).touch s (g % 256)
    let (st, ch) := s.vertexChain part 17 v []
    if 256 ≤ g then s.larderStatus o1 larderInvalid
    else if bad then s.larderStatus o1 larderPoisoned
    else if passState d = 0 then s.larderStatus o1 larderClosed
    else if st ≠ larderOk then s.larderStatus o1 st
    else s.setLarderOp o.cmd.id fun x => { x with stage := 1, chain := ch, record := [], units := o1.units ++ ch.map fun c => s.unitOf part (c / 2 ^ 24) }
  else
    match o.chain with
    | [] => s.larderDone o [recQ o.record, recC o.record, recM o.record, 0] false
    | m :: rest =>
      let st := s.vertexStatus part m
      let (r, rb) := s.recordAt part m
      if st ≠ larderOk then s.larderStatus o st
      else if rb || bad then s.larderStatus o larderPoisoned
      else
        let q := if o.record.isEmpty then (recQ r, recC r, recM r, f32At r 0x40)
          else quantities r o.record (passEtam d) (passEtac d)
        let r' := reweighted r q g
        (s.writeRecordAt part m r').setLarderOp o.cmd.id fun x => { x with chain := rest, record := r' }

/-! ## GRET, GHOLD, GDROP (R366, R367) -/

/-- An operation that may retire vertices is done; poison read on the way makes it POISONED and nothing changed (R356, R371). -/
def State.larderAfter (s : State) (o : LarderOp) (vals : List Word32) (r : Bool × State) : State :=
  if r.1 then s.larderStatus o larderPoisoned else r.2.larderDone o vals false

def State.larderRetire (s : State) (o : LarderOp) (pass : Bool) : State :=
  let part := o.cmd.part
  let v := o.argN 0
  let p := v / 2 ^ 24
  let o1 := o.touch s p
  let (d, bad) := s.passAt part p
  if pass then
    if bad then s.larderStatus o1 larderPoisoned
    else if passState d = 0 then s.larderStatus o1 larderRetired
    else if passState d = 1 then s.larderStatus o1 larderClosed
    else if passState d = 3 then s.larderStatus o1 larderOk
    else
      let s1 := s.larderWrite part (128 * p) [3]
      let s2 := (s1.verticesOf part p).foldl (fun s v => s.setSlot part v { s.slotOf part v with mark := true }) s1
      s.larderAfter o1 [0] (s2.retirePass part p)
  else
    let st := s.vertexStatus part v
    if st ≠ larderOk then s.larderStatus o1 st
    else s.larderAfter o1 [0] ((s.setSlot part v { s.slotOf part v with mark := true }).retireVertex part 17 v)

def State.larderHold (s : State) (o : LarderOp) : State :=
  let part := o.cmd.part
  let v := o.argN 0
  let o1 := o.touch s (v / 2 ^ 24)
  let st := s.vertexStatus part v
  let x := s.slotOf part v
  if st ≠ larderOk then s.larderStatus o1 st
  else if x.hold = 65535 then s.larderStatus o1 larderFull
  else (s.setSlot part v { x with hold := x.hold + 1 }).larderDone o1 [0, BitVec.ofNat 32 (x.hold + 1)] false

def State.larderDrop (s : State) (o : LarderOp) : State :=
  let part := o.cmd.part
  let v := o.argN 0
  let o1 := o.touch s (v / 2 ^ 24)
  let st := s.vertexStatus part v
  let x := s.slotOf part v
  if st ≠ larderOk then s.larderStatus o1 st
  else if x.hold = 0 then s.larderStatus o1 larderInvalid
  else s.larderAfter o1 [0, BitVec.ofNat 32 (x.hold - 1)] ((s.setSlot part v { x with hold := x.hold - 1 }).retireVertex part 17 v)

/-! ## GREAD (R368) -/

def State.larderReadOp (s : State) (o : LarderOp) (desc : Bool) : State :=
  let part := o.cmd.part
  let v := o.argN 0
  let dst := o.arg 1
  let o1 := o.touch s (v / 2 ^ 24)
  let store := fun (s : State) (bs : List Byte) (vals : List Word32) =>
    s.larderWork o1 (writeE o.cmd (s.opUnit o) true dst bs) fun _ _ s => s.larderDone o1 vals false
  if desc then
    let (d, bad) := s.passAt part (v / 2 ^ 24)
    if bad then s.larderStatus o1 larderPoisoned else store s d [0, 0]
  else
    let st := s.vertexStatus part v
    let x := s.slotOf part v
    let (r, bad) := s.recordAt part v
    if st ≠ larderOk then s.larderStatus o1 st
    else if bad then s.larderStatus o1 larderPoisoned
    else store s r [BitVec.ofNat 32 (s.markBit o), BitVec.ofNat 32 (x.hold + 65536 * min x.child 65535)]

/-! ## GOPEN and GSEAL (R360, R361) -/

/-- An f32 from an unsigned integer. -/
def natF (n : Nat) : Word32 := intF n

/-- The descriptor of a pass just opened. -/
def openDescriptor (home cap nc nm recoff : Nat) (eta : Bool) (rad etaGiven : Word32) : List Byte :=
  let etam := if eta then etaGiven
    else divF (mulF (mulF (mulF 0x40490FDB rad) rad) (natF nm)) (natF nc)
  let n4 := fun (x : Nat) => toBytes (BitVec.ofNat 32 x) 4
  [1, BitVec.ofNat 8 home, if eta then 1 else 0, 0] ++ n4 cap ++ n4 0 ++ n4 0 ++ toBytes rad 4 ++ toBytes (mulF rad rad) 4 ++ n4 nc ++
    n4 nm ++ toBytes etam 4 ++ toBytes (divF f32One etam) 4 ++ n4 0 ++ n4 0 ++ toBytes (BitVec.ofNat 64 recoff) 8 ++ List.replicate 72 0

def State.larderOpen (s : State) (o : LarderOp) (eta : Bool) : State :=
  let part := o.cmd.part
  let p := o.argN 0 % 256
  let home := o.argN 0 / 256 % 16
  let rad : Word32 := (o.arg 1).setWidth 32
  let nc := o.argN 2 % 2 ^ 32
  let nm := o.argN 2 / 2 ^ 32
  let cap := o.argN 3
  let pt := s.part part
  let (d, bad) := s.passAt part p
  let o1 := { o with units := [home] }
  if 2 ^ 12 ≤ o.argN 0 ∨ pt.groups.contains home = false ∨ cap = 0 ∨ 2 ^ 24 ≤ cap ∨ nc = 0 ∨ finiteF rad = false ∨ ltF f32Zero rad = false then
    s.larderStatus o larderInvalid
  else if bad then s.larderStatus o1 larderPoisoned
  else if passState d ≠ 0 then s.larderStatus o1 larderClosed
  else
    match pt.findArea s.nextId home (128 * cap) with
    | none => s.larderStatus o1 larderFull
    | some off =>
      let s1 := s.setPart part { pt with shares := pt.shares ++ [{ pass := p, group := home, off := off, len := 128 * cap }] }
      let s2 := s1.larderWrite part (128 * p) (openDescriptor home cap nc nm off eta rad (((o.arg 1) >>> 32).setWidth 32))
      { s2 with nextId := s.nextId + 1 }.larderStatus o1 larderOk

/-- GSEAL arrives: from here on the pass refuses appends. -/
def State.larderSeal (s : State) (o : LarderOp) : State :=
  let p := o.argN 0
  let (d, bad) := s.passAt o.cmd.part (p % 256)
  if 256 ≤ p then s.larderStatus o larderInvalid
  else if bad then s.larderStatus (o.touch s p) larderPoisoned
  else if passState d ≠ 1 then s.larderStatus (o.touch s p) larderClosed
  else s.setLarderOp o.cmd.id fun x => { x with stage := 1, units := [passHome d] }

/-- Every seal of a pass that waits reports the same status. -/
def State.sealDone (s : State) (part p status : Nat) : State :=
  (s.larder.filter fun o => o.cmd.part == part && o.kind == .seal && o.stage == 1 && o.argN 0 == p).foldl
    (fun s o => s.larderStatus o status) s

/-- The room of a grid over n vertices. -/
def gridSize (n : Nat) : Nat := (65536 + 16 * n + 65535) / 65536 * 65536

/-- GSEAL_COMPLETE: every append to the pass has completed; the grid is built over its READY light vertices and the pass is SEALED,
or the share cannot hold the grid and the pass stays OPEN (R361). Vertices marked before the seal retire with it (R366). -/
def execGsealComplete (part p : Nat) (s : State) : Out :=
  let vs := s.verticesOf part p
  let (d, bad) := s.passAt part p
  if !s.sealing part p || vs.any (fun v => (s.slotOf part v).state == .appending) then .next s
  else if bad then .next (s.sealDone part p larderPoisoned)
  else
    let ready := vs.filter fun v => (s.slotOf part v).state == .ready
    if ready.any fun v => (s.recordAt part v).2 then .next (s.sealDone part p larderPoisoned)
    else
      let len := gridSize (ready.filter fun v => recKind (s.recordAt part v).1 == 1).length
      let pt := s.part part
      match pt.findArea s.nextId (passHome d) len with
      | none => .next (s.sealDone part p larderFull)
      | some off =>
        let s1 := s.setPart part { pt with shares := pt.shares ++ [{ pass := p, group := passHome d, off := off, len := len }] }
        let s2 := s1.larderWrite part off ((List.range len).map (Config.gridByte s.nextId))
        let s3 := (s2.larderWrite part (128 * p + 0x38) (toBytes (BitVec.ofNat 64 off) 8)).larderWrite part (128 * p) [2]
        let s4 : State := { s3 with nextId := s.nextId + 1 }
        let (b, s5) := s4.retirePass part p
        .next (if b then s.sealDone part p larderPoisoned else s5.sealDone part p larderOk)

/-! ## Moves -/

/-- The vertices whose records an operation reads first; a search, an append and a reweight go on to others. -/
def LarderOp.reads (o : LarderOp) : List Nat :=
  match o.kind with
  | .connect _ => [o.argN 0, o.argN 1]
  | .merge _ | .reweight | .read false | .hold | .drop | .retire false => [o.argN 0]
  | _ => []

/-- The first move of an operation, or the next part of it. -/
def State.moveLarder (s0 : State) (id : Nat) : State :=
  match s0.larderOp? id with
  | none => s0
  | some o =>
    let s := (o.reads.filter fun v => s0.vertexStatus o.cmd.part v == larderOk).foldl (fun s v => s.touchRecord o.cmd.part v) s0
    if s0.engineWaits (.larder id) then s0
    else
      match o.dead with
      | some a =>
        let s1 := match o.kind with
          | .merge _ => s.releaseHolds o.cmd.part (o.found.map Prod.fst)
          | _ => s
        s1.larderDenied o a
      | none =>
      match o.kind with
      | .append => s.larderAppend o
      | .connect m => s.larderConnect o m
      | .merge b => s.larderMerge o b
      | .reweight => s.larderReweight o
      | .retire p => s.larderRetire o p
      | .seal => if o.stage = 0 then s.larderSeal o else s
      | .opening e => s.larderOpen o e
      | .read d => s.larderReadOp o d
      | .hold => s.larderHold o
      | .drop => s.larderDrop o

end Sys2Proof.Machine
end

