-- ==== Sys2Proof/Machine/LarderWords.lean ====
section
/-! DEFINITION. The Larder words (16 R357 to R359): their checks, and the operations that they put into the core's request
entries. -/

namespace Sys2Proof.Machine

/-- The checks 2 to 5 of R359 of one address of 128 bytes. -/
def Segs.larderTrap (g : Segs) (a : Word64) : Option Trap :=
  if a.toNat % 128 ≠ 0 then some ⟨Cause.misaligned, a⟩
  else
    match apertureOf a with
    | none => some ⟨Cause.addressHole, a⟩
    | some .scratch => some ⟨Cause.engineFault, a⟩
    | some ap =>
      match g.limit ap a 128 with
      | .error t => some t
      | .ok _ => none

/-- The first of several lanes' traps of each check in turn: R359's order within a slice. -/
def orderTraps (g : Segs) (as : List Word64) : Option Trap :=
  let ts := as.filterMap g.larderTrap
  let pick := fun (c : BitVec 8) => ts.find? fun t => t.cause == c
  (pick Cause.misaligned).orElse fun _ => (pick Cause.addressHole).orElse fun _ => (pick Cause.engineFault).orElse fun _ => ts.head?

/-- What a lane word needs of its form: whether ss is read, its lane sources, its destinations, and the address of its memory
operand. -/
structure LarderForm where
  kind : LarderKind
  base : Bool
  srcs : List VReg
  dests : List VReg
  addr : Option (RCtx → Slice → Nat → Word64)
  args : RCtx → Slice → Nat → List Word64

/-- The tags of R359's check 1. -/
def LarderForm.tagTrap (f : LarderForm) (c : RCtx) (o : Wide) (sl : Slice) : Option Trap :=
  if f.base && (sl.readS c o.ss).tag then some ⟨Cause.poisonUse, 32⟩
  else
    ((lanesOf (sl.act c o.pm)).find? fun k => f.srcs.any fun v => (sl.readV c v k).tag).map fun k =>
      ⟨Cause.poisonUse, BitVec.ofNat 64 (sl.laneIx k)⟩

/-- The checks of one slice. -/
def LarderForm.trap (f : LarderForm) (c : RCtx) (o : Wide) (sl : Slice) : Option Trap :=
  (f.tagTrap c o sl).orElse fun _ =>
    match f.addr with
    | none => none
    | some a => orderTraps sl.segs ((lanesOf (sl.act c o.pm)).map (a c sl))

/-- An operation of a slice. -/
def State.larderOp (s : State) (g : Gang) (c : RCtx) (o : Wide) (sl : Slice) (kind : LarderKind) (k : Nat) (rings : List Nat)
    (key : Option Nat) (args : List Word64) : LarderOp :=
  { cmd := { g.command sl .larder false { o with aux := 0 } args with id := s.nextId }, kind := kind, k := k, word := c.word, rings := rings
    key := key, stage := 0, vertex := 0, record := [], found := [], chain := [], units := [], pc := sl.pc, dead := none }

/-- Put an operation into the request entries. -/
def State.addLarder (s : State) (x : LarderOp) : State := { s with larder := s.larder ++ [x], nextId := s.nextId + 1 }

/-- A lane word of the Larder: irrevocable; held while its operations do not fit; the fork's source reconciles at span D. -/
def larderWord (i : Instr) (o : Wide) (f : LarderForm) (s : State) : Out :=
  runWord i s fun g s =>
    let c := s.rctx g
    let ops := g.laneOps c o.pm
    match (g.activeSlices c o.pm).findSome? (f.trap c o) with
    | some t => .next (s.trapped g t)
    | none =>
      if s.twinWaits g then .next (s.setCur { g with park := .twin false })
      else if larderEntries < s.larderBusy g.core + ops.length then .next s
      else
        let s1 := s.irrevocable g
        let s2 := if ops.isEmpty || s1.isShadow g then s1 else
          ops.foldl (fun s p => s.addLarder (s.larderOp g c o p.1 f.kind p.2 (p.1.ringsOf c.lregs f.dests) none (f.args c p.1 p.2)))
            (s1.edgeSource g 3)
        .next (s2.wordDone ((s2.cur.getD g).mapSlices fun sl =>
          (((lanesOf (sl.act c o.pm)).foldl (fun sl k => sl.expectV c f.dests k) sl).takeMail c.word).advance 12 true))

/-- A lane value as an operand. -/
def laneArg (c : RCtx) (v : VReg) (sl : Slice) (k : Nat) : Word64 := (sl.readV c v k).v.setWidth 64

/-- SS plus a lane's offset. -/
def offsetArg (o : Wide) (v : VReg) (c : RCtx) (sl : Slice) (k : Nat) : Word64 := (sl.readS c o.ss).v + laneArg c v sl k

/-- GAPP (R362). -/
def execGapp (o : Wide) (s : State) : Out :=
  larderWord (.gapp o) o { kind := .append, base := true, srcs := [o.va], dests := vblock o.vd 2, addr := some (offsetArg o o.va)
                           args := fun c sl k => [offsetArg o o.va c sl k] } s

/-- GCONN (R363). -/
def execGconn (o : Wide) (s : State) : Out :=
  let merge := o.fn.getLsbD 0
  let vc := vblock o.vc (if merge then 2 else 6)
  larderWord (.gconn o) o { kind := .connect merge, base := false, srcs := [o.va, o.vb] ++ vc, dests := vblock o.vd 3, addr := none
                            args := fun c sl k => ([o.va, o.vb] ++ vc).map fun v => laneArg c v sl k } s

/-- The buffer of a lane of GMERGE. -/
def mergeBuffer (o : Wide) (c : RCtx) (sl : Slice) (k : Nat) : Word64 := (sl.readS c o.ss).v + BitVec.ofNat 64 (128 * sl.laneIx k)

/-- GMERGE (R364). -/
def execGmerge (o : Wide) (s : State) : Out :=
  larderWord (.gmerge o) o { kind := .merge (o.imm.toNat % 256), base := true, srcs := [o.va, o.vb, o.vb + 1, o.vc]
                             dests := vblock o.vd 3, addr := some (mergeBuffer o)
                             args := fun c sl k => [laneArg c o.va sl k, (sl.readPair c o.vb k).v, laneArg c o.vc sl k, mergeBuffer o c sl k] } s

/-- GRW (R365). -/
def execGrw (o : Wide) (s : State) : Out :=
  larderWord (.grw o) o { kind := .reweight, base := false, srcs := [o.va, o.vb], dests := vblock o.vd 4, addr := none
                          args := fun c sl k => [laneArg c o.va sl k, laneArg c o.vb sl k] } s

/-- GRET (R366). -/
def execGret (o : Wide) (s : State) : Out :=
  larderWord (.gret o) o { kind := .retire (o.fn.getLsbD 0), base := false, srcs := [o.va], dests := [o.vd], addr := none
                           args := fun c sl k => [laneArg c o.va sl k] } s

/-- GREAD (R368). -/
def execGread (o : Wide) (s : State) : Out :=
  larderWord (.gread o) o { kind := .read (o.fn.getLsbD 0), base := true, srcs := [o.va, o.vb], dests := vblock o.vd 2
                            addr := some (offsetArg o o.vb)
                            args := fun c sl k => [laneArg c o.va sl k, offsetArg o o.vb c sl k] } s

/-- GHOLD (R367). -/
def execGhold (o : Wide) (s : State) : Out :=
  larderWord (.ghold o) o { kind := .hold, base := false, srcs := [o.va], dests := vblock o.vd 2, addr := none
                            args := fun c sl k => [laneArg c o.va sl k] } s

/-- GDROP (R367). -/
def execGdrop (o : Wide) (s : State) : Out :=
  larderWord (.gdrop o) o { kind := .drop, base := false, srcs := [o.va], dests := vblock o.vd 2, addr := none
                            args := fun c sl k => [laneArg c o.va sl k] } s

/-- A slice-level word of the Larder (R358): one operation of each slice, its status in sd. -/
def larderSlices (i : Instr) (o : Wide) (kind : LarderKind) (n : Nat) (extra : State → Gang → List Word64 → Option Trap) (s : State) : Out :=
  runWord i s fun g s =>
    let c := s.rctx g
    let sd : SReg := o.aux.extractLsb' 0 5
    let check := fun (sl : Slice) => if (sblock o.ss n).any fun r => (sl.readS c r).tag then some (⟨Cause.poisonUse, 32⟩ : Trap) else extra s g (sl.block c o.ss n)
    match g.firstTrap check with
    | some t => .next (s.trapped g t)
    | none =>
      if s.twinWaits g then .next (s.setCur { g with park := .twin false })
      else if larderEntries < s.larderBusy g.core + g.slices.length then .next s
      else
        let s1 := s.irrevocable g
        let s2 := if s1.isShadow g then s1 else
          g.slices.foldl
            (fun s sl => s.addLarder (s.larderOp g c o sl kind 0 [] (some (if sd = 0 then 64 else sl.scalKey sd)) (sl.block c o.ss n)))
            (s1.edgeSource g 3)
        .next (s2.wordDone ((s2.cur.getD g).mapSlices fun sl => ((sl.expectS c sd).takeMail c.word).advance 12 true))

/-- GSEAL (R361). -/
def execGseal (o : Wide) (s : State) : Out := larderSlices (.gseal o) o .seal 1 (fun _ _ _ => none) s

/-- A pass homed on a fenced unit is refused with ENGINE_FAULT (21 R445). -/
def gopenTrap (s : State) (g : Gang) (r : List Word64) : Option Trap :=
  if s.fenced g.part 4 ((r.getD 0 0).extractLsb' 8 4).toNat then some ⟨Cause.engineFault, r.getD 0 0⟩ else none

/-- GOPEN (R360). -/
def execGopen (o : Wide) (s : State) : Out := larderSlices (.gopen o) o (.opening (o.fn.getLsbD 0)) 4 gopenTrap s

end Sys2Proof.Machine
end

