-- ==== Sys2Proof/Machine/Agenda.lean ====
section
/-! DEFINITION. Which agent moves next when the agenda is empty: a deterministic round, a DESIGN CHOICE of the model (log
2). Every other interleaving is an agenda. -/

namespace Sys2Proof.Machine

/-- What a gang waits for that has come about. -/
def State.gangActs (s : State) (g : Gang) : List Act :=
  let open_ := g.slices.flatMap fun sl => sl.pending.filter fun p => p.due.isNone && !p.engine
  let returns := ((open_.filter fun p => decide (p.eta ≤ s.cycle)).map Pending.n).eraseDups.filter fun n =>
    open_.all fun p => p.n != n || decide (p.eta ≤ s.cycle)
  let wake := if s.canWake g s.hasRoom then [Act.event (.gangReady g.gid)] else []
  let parked := match g.park with
    | .walk => [Act.event (.rangeWalkDone g.gid)]
    | .tlbi => [Act.event (.tlbiConfirm g.gid)]
    | .cellinit _ => [Act.event (.cellinitReply g.gid)]
    | .trap _ _ => if g.outstanding s.cycle then [] else [Act.event (.trapEntry g.gid)]
    | .none | .held _ => if s.goesOn g then [Act.resume g.gid] else []
    | _ => []
  let preempt := if !g.framed && (if g.preempt then s.mayPreempt g else s.preemptDue g) then [Act.event (.preempt g.gid)] else []
  let place := if s.waitingFrame g then
      ((((s.coresOf g.part g.tier g.quadNo).flatMap fun k => (List.range 4).map (4 * k + ·)).find? fun q => s.mayServe (.frame g) q).map fun q =>
        Act.event (.strandResume g.gid q)).toList
    else []
  let fetch := if !g.framed && g.park == .none && !g.waiting && !s.wordArrived g then [Act.prefetch g.gid] else []
  returns.map (fun n => Act.event (.resultReturn g.gid n)) ++ wake ++ parked ++ preempt ++ place ++ fetch

/-- Original gangs all of whose slices wait at REGANG. -/
def State.regangActs (s : State) : List Act :=
  ((s.gangs.filter fun g => g.regangAt.isSome).map Gang.og).eraseDups.filterMap fun og =>
    if (s.gangs.filter fun g => g.og == og).all (fun g => g.regangAt.isSome) then some (.event (.regangRelease og)) else none

/-- Quadrants that hold resident gangs, rising. -/
def State.busyQuads (s : State) : List Nat :=
  (s.gangs.filter fun g => !g.framed).foldl (fun m g => NatSet.put m g.quadNo) []

/-- Context faults and rollbacks that have been raised, and twin pairs at a check point. -/
def State.stopActs (s : State) : List Act :=
  let twins := (s.crews.filter fun e => e.2.twin && !e.2.shadow).flatMap fun e =>
    (s.crewSlices e.1).filterMap fun x => if s.atCheck x.1 then some (Act.event (.twinCheckPoint e.1 x.2.index)) else none
  s.ctxFaults.map (fun f => Act.event (.contextFault f.part f.ctx f.cause)) ++ s.rollbacks.map (fun r => Act.event (.crewRollback r.1)) ++ twins

/-- What the engines have at hand. -/
def State.engineActs (s : State) : List Act :=
  let queued := s.cmds.map fun c => match c.op with
    | .cpy | .cpy2 | .cpyg | .feset => Act.event (.copyActivate c.id)
    | .mwld => .event (.mwldExecute c.id)
    | .mtile => .event (.tileStart c.id)
    | .coll | .fput | .fget => .fabric c.id
    | _ => .ray c.id
  let copies := s.copies.flatMap fun r =>
    if !r.active then [Act.event (.copyActivate r.cmd.id)]
    else [.event (.copyGranule r.cmd.id (((List.range (r.done.length + 1)).find? fun n => !r.done.contains n).getD 0)), .event (.copyComplete r.cmd.id)]
  let tiles := s.tiles.flatMap fun r =>
    let c := r.cmd.id
    match r.stage with
    | .acquire => [if r.cmd.op == .mwld then Act.event (.mwldExecute c) else .event (.tileStart c)]
    | .start => [Act.event (.tileStart c)]
    | .run => [Act.event (.matrixLatchStep c), .event (.matrixComputeStep c), .event (.matrixWriteStep c)]
    | _ => [Act.event (.tileRetire c)]
  let mqs := s.mqs.filterMap fun m => ((List.range 768).find? fun e => s.mqNever m || s.mqMay m e).map fun e => Act.event (.mqDispatch m.cmd.id e)
  let rays := s.rays.map fun r => if r.phase == .due || r.phase == .refused then Act.event (.rayTraceResult r.id) else .ray r.id
  let marches := s.marches.flatMap fun m => [Act.ray m.cmd.id, .event (.rayMarchComplete m.cmd.id)]
  let footprints := s.footprints.map fun p => Act.ray p.id
  let larder := s.larder.map fun o =>
    if o.kind == .seal && o.stage == 1 then Act.event (.gsealComplete o.cmd.part (o.argN 0)) else .larder o.cmd.id
  queued ++ copies ++ tiles ++ mqs ++ rays ++ marches ++ footprints ++ larder

/-- What the fabric agent, the task engine, firmware and the display units have at hand. -/
def State.deviceActs (s : State) : List Act :=
  let fabric := s.puts.flatMap (fun r => [Act.fabric r.cmd.id, .event (.fputComplete r.cmd.id)]) ++ s.gets.map (fun r => Act.fabric r.cmd.id) ++
    s.colls.map (fun r => Act.fabric r.cmd.id) ++ (s.queries.filter fun q => !q.sent).map fun q => Act.fabric q.cmd.id
  let launches := s.launches.flatMap fun x =>
    x.nodes.flatMap (fun e => [Act.event (.nodeStart x.id e.1), .event (.nodeRetire x.id e.1), .event (.hostNodeWrite x.id e.1)]) ++
      x.stages.flatMap fun y =>
        y.shares.map (fun c => Act.event (.stageTakeRecords x.id y.node c (((List.range 4).map (4 * c + ·)).foldl
          (fun b q => if (s.freeSlots b).length < (s.freeSlots q).length then q else b) (4 * c)))) ++ [.event (.stageEnd x.id y.node)]
  let places := s.spawns.filterMap fun e =>
    (s.bestCore e).bind fun c => (((List.range 4).map (4 * c + ·)).find? fun q => s.mayPlace e q).map fun q => Act.event (.placeStrand e.id q)
  let faults := s.faults.map fun f => match f.stage with
    | .new => if f.pool then Act.event (.poolAllocation f.token) else .event (.faultLogWrite f.token)
    | .waiting => .event (.faultLogWrite f.token)
    | .logged => .event (.faultTimeout f.token)
  let jobs := s.jobs.map fun j => if j.started then Act.event (.jobDone j.part j.id) else .event (.jobStart j.part j.id)
  fabric ++ launches ++ places ++ faults ++ jobs ++ s.waiting.map (fun w => Act.event (.launchAccept w.part)) ++
    s.parts.flatMap fun e => [Act.event (.rebalancePeriod e.1), .event (.idleEntry e.1)]

/-- The round: what has come about first, then each quadrant, posted store, engine and agent in turn, then a cycle. -/
def State.auto (s : State) : Act × State :=
  match s.stopActs ++ s.gangs.flatMap s.gangActs ++ s.regangActs with
  | a :: _ => (a, s)
  | [] =>
    let round := s.busyQuads.map (fun q => Act.issue q false) ++ s.posted.map (fun _ => Act.perform 0) ++ s.engineActs ++ s.deviceActs
    match round[s.turn]? with
    | some a => (a, { s with turn := s.turn + 1 })
    | none => (.tick, { s with turn := 0 })

/-- The next move: the agenda's first, else the round's. -/
def State.takeAct (s : State) : Act × State :=
  match s.agenda with
  | a :: rest => (a, { s with agenda := rest })
  | [] => s.auto

/-- The moves that are neither words nor steps of the opcode table: the cycle, prefetch (10 R217), and what the memory system
does on its own (11 R239, R240, R248; 09 R205). -/
def State.move (s : State) (a : Act) : State :=
  match a with
  | .tick => { s.noteWork with cycle := s.cycle + 1 }
  | .ray id => s.moveRayUnit id
  | .larder id => s.moveLarder id
  | .fabric id => s.moveFabric id
  | .prefetch gid =>
    match s.gang? gid with
    | some g => if g.framed then s else
      let (g', s') := s.prefetch g
      s'.putGang g'
    | none => s
  | .evict core line => s.evictLine core line
  | .evictRemote slice line => s.setSlice slice { s.slice slice with remote := (s.slice slice).remote.erase line }
  | .evictCode core line => s.setCore core { s.core core with code := (s.core core).code.erase line }
  | .dropTlb k => { s with tlb := s.tlb.eraseIdx k }
  | .perform n =>
    match s.posted[n]? with
    | some e =>
      if (s.posted.take n).any fun x => x.gid == e.gid && overlap x.addr x.data.length e.addr e.data.length then s
      else { s.writeHome e.addr e.data with posted := s.posted.eraseIdx n }
    | none => s
  | .debugWrite gid sid r x => s.debugWrite gid sid r x
  | .debugPreempt gid => s.debugPreempt gid
  | .production => s.production
  | .resize part bytes => s.resizeWindow part bytes
  | .issue .. | .resume _ | .event _ => s

/-! ## A word placed for the next step (log 5) -/

/-- Where `withFetchWord` puts its code, its tables, and its context. -/
def bootRoot : Nat := 0x10000
def bootTable : Nat := 0x14000
def bootCode : Nat := 0x100000

/-- A table entry of a next-level table, and a leaf of 4 GiB at physical 0, readable, writable, executable, for user mode. -/
def tableEntry (pa : Nat) : Nat := pa + 1
def bootLeaf : Nat := (2 ^ 20 - 1) * 4096 + 256 + 16 + 8 + 4 + 2 + 1

/-- A slice at the start of a program. -/
def Slice.boot (sid : Nat) (pc : Word64) : Slice :=
  { sid := sid, pos := 0, index := 0, slot := 0, pc := pc, scal := [], lane := [], masks := [], em := 0xF, exited := 0
    recon := [], link := [], wb := 0, lb := 0, spillp := 0, spilled := 0, guards := [], scrb := 0, scrl := 0, stkb := 0, stkl := 0
    glbb := 0, glbl := BitVec.ofNat 64 (2 ^ 56), regangfail := false, ppriv := false, priv := true, ftz := false
    nantrap := false, tvec := 0, tcause := 0, tval := 0, tepc := 0, lfsr := ⟨1, 1, 1, 1⟩, regionpc := pc, lives := 0, livev := 0
    snap := { em := 0xF, masks := [], recon := [] }, between := false, justRegion := false, tsave := none, unfin := none
    chain := 1, triggered := false, arrival := none, depth := 0, ring := none, holdoff := false, sig := 0, heldAt := [], pending := []
    noted := [], notePos := 0, noteMark := 0, mail := [], attic := (0, 0), keep := none }

/-- A gang of one slice at the start of a program, on the first quadrant. -/
def Gang.boot (gid sid : Nat) (pc : Word64) (buf : List Fetched) : Gang :=
  { gid := gid, og := gid, brood := gid, part := 0, ctx := 0, core := 0, quad := 0, tier := 0, crew := none, prio := 0, node := none, launch := none
    stage := none, lregs := 256, attic := 0, age := 0, wait := 0, issued := 0, floor := 0, icinvs := [], floors := [], park := .none, bubble := 0, buf := buf, stopped := false, stepOne := false
    passStop := false, framed := false, ready := false, pinned := false, srcs := [], preempt := false, queued := none, waiting := false
    sbit := false, cleared := false, frameBad := false, slices := [Slice.boot sid pc] }

/-- Bytes of a table word as the machine stores it: parcels in order, each little-endian, zeros above. -/
def tableBytes (nbits w : Nat) : List Byte := bytesOf (tableParcels nbits w)

/-- The fetch buffer of a gang at a program of one word: its parcels, zeros above. -/
def bootBuf (nbits w : Nat) : List Fetched :=
  ((tableParcels nbits w ++ [0, 0]).take 3).zipIdx.map fun (p : Parcel × Nat) => (⟨BitVec.ofNat 64 (bootCode + 4 * p.2), p.1, false⟩ : Fetched)

/-- A program of one word loaded from outside: its bytes and its tables in memory, a context, a strand at it with the word in its fetch buffer, and
the slot of the first quadrant next. -/
def State.load (s : State) (nbits w : Nat) : State :=
  let s1 := ((s.writeHome bootRoot (toBytes (BitVec.ofNat 64 (tableEntry bootTable)) 8)).writeHome bootTable
    (toBytes (BitVec.ofNat 64 bootLeaf) 8)).writeHome bootCode (tableBytes nbits w)
  let ctx : Ctx := { root := bootRoot, pool := (0, 0), free := [], chkiv := 0, saving := false, saved := false, stopAll := false }
  let g := Gang.boot s.nextId (s.nextId + 1) (BitVec.ofNat 64 bootCode) (bootBuf nbits w)
  { s1 with
    agenda := .issue 0 false :: s.agenda
    cur := none
    nextId := s.nextId + 2
    gangs := g :: s.gangs.filter fun h => h.quadNo != 0
    quads := Map.put s.quads 0 { Quad.init with hold := some s.nextId }
    tlb := s.tlb.filter fun t => t.ctx != 0
    cores := Map.put s.cores 0 { s.core 0 with code := [] }
    ctxs := Map.put s.ctxs 0 ctx }

end Sys2Proof.Machine
end

