-- ==== Sys2Proof/Machine/Dispatch.lean ====
section
/-! DEFINITION. The dispatcher: one arm for every constructor of `Instr`, one call of its meaning. -/

namespace Sys2Proof.Machine

/-- The meaning of every instruction and step. -/
def exec (i : Instr) (s : State) : Host.Outcome State Fault Refusal :=
  match i with
  | .nop o => Sys2Proof.Machine.execNop o s
  | .yield o => Sys2Proof.Machine.execYield o s
  | .fetchb o => Sys2Proof.Machine.execFetchb o s
  | .regang o => Sys2Proof.Machine.execRegang o s
  | .exit o => Sys2Proof.Machine.execExit o s
  | .trap o => Sys2Proof.Machine.execTrap o s
  | .brk o => Sys2Proof.Machine.execBrk o s
  | .eret o => Sys2Proof.Machine.execEret o s
  | .chkerr o => Sys2Proof.Machine.execChkerr o s
  | .trigger o => Sys2Proof.Machine.execTrigger o s
  | .guard o => Sys2Proof.Machine.execGuard o s
  | .resolve o => Sys2Proof.Machine.execResolve o s
  | .add o => Sys2Proof.Machine.execAdd o s
  | .sub o => Sys2Proof.Machine.execSub o s
  | .mul o => Sys2Proof.Machine.execMul o s
  | .mulh o => Sys2Proof.Machine.execMulh o s
  | .mulhn o => Sys2Proof.Machine.execMulhn o s
  | .div o => Sys2Proof.Machine.execDiv o s
  | .divn o => Sys2Proof.Machine.execDivn o s
  | .rem o => Sys2Proof.Machine.execRem o s
  | .remn o => Sys2Proof.Machine.execRemn o s
  | .and o => Sys2Proof.Machine.execAnd o s
  | .or o => Sys2Proof.Machine.execOr o s
  | .xor o => Sys2Proof.Machine.execXor o s
  | .andn o => Sys2Proof.Machine.execAndn o s
  | .shl o => Sys2Proof.Machine.execShl o s
  | .shr o => Sys2Proof.Machine.execShr o s
  | .sar o => Sys2Proof.Machine.execSar o s
  | .rol o => Sys2Proof.Machine.execRol o s
  | .min o => Sys2Proof.Machine.execMin o s
  | .minn o => Sys2Proof.Machine.execMinn o s
  | .max o => Sys2Proof.Machine.execMax o s
  | .maxn o => Sys2Proof.Machine.execMaxn o s
  | .slt o => Sys2Proof.Machine.execSlt o s
  | .sltn o => Sys2Proof.Machine.execSltn o s
  | .seq o => Sys2Proof.Machine.execSeq o s
  | .clz o => Sys2Proof.Machine.execClz o s
  | .ctz o => Sys2Proof.Machine.execCtz o s
  | .popc o => Sys2Proof.Machine.execPopc o s
  | .brev o => Sys2Proof.Machine.execBrev o s
  | .sext o => Sys2Proof.Machine.execSext o s
  | .zext o => Sys2Proof.Machine.execZext o s
  | .lea k o => Sys2Proof.Machine.execLea k o s
  | .addi o => Sys2Proof.Machine.execAddi o s
  | .andi o => Sys2Proof.Machine.execAndi o s
  | .ori o => Sys2Proof.Machine.execOri o s
  | .xori o => Sys2Proof.Machine.execXori o s
  | .slti o => Sys2Proof.Machine.execSlti o s
  | .shi o => Sys2Proof.Machine.execShi o s
  | .li o => Sys2Proof.Machine.execLi o s
  | .lsh o => Sys2Proof.Machine.execLsh o s
  | .addpc o => Sys2Proof.Machine.execAddpc o s
  | .bext o => Sys2Proof.Machine.execBext o s
  | .bins o => Sys2Proof.Machine.execBins o s
  | .bextv o => Sys2Proof.Machine.execBextv o s
  | .binsv o => Sys2Proof.Machine.execBinsv o s
  | .br o => Sys2Proof.Machine.execBr o s
  | .j o => Sys2Proof.Machine.execJ o s
  | .call o => Sys2Proof.Machine.execCall o s
  | .callr o => Sys2Proof.Machine.execCallr o s
  | .ret o => Sys2Proof.Machine.execRet o s
  | .region o => Sys2Proof.Machine.execRegion o s
  | .ld o => Sys2Proof.Machine.execLd o s
  | .st o => Sys2Proof.Machine.execSt o s
  | .amo o => Sys2Proof.Machine.execAmo o s
  | .ldx o => Sys2Proof.Machine.execLdx o s
  | .stx o => Sys2Proof.Machine.execStx o s
  | .cwb o => Sys2Proof.Machine.execCwb o s
  | .cinv o => Sys2Proof.Machine.execCinv o s
  | .icinv o => Sys2Proof.Machine.execIcinv o s
  | .spawn o => Sys2Proof.Machine.execSpawn o s
  | .await o => Sys2Proof.Machine.execAwait o s
  | .signal o => Sys2Proof.Machine.execSignal o s
  | .cellinit o => Sys2Proof.Machine.execCellinit o s
  | .cellrd o => Sys2Proof.Machine.execCellrd o s
  | .emit o => Sys2Proof.Machine.execEmit o s
  | .barInit o => Sys2Proof.Machine.execBarInit o s
  | .barArrive o => Sys2Proof.Machine.execBarArrive o s
  | .barWait o => Sys2Proof.Machine.execBarWait o s
  | .barSync o => Sys2Proof.Machine.execBarSync o s
  | .csrr o => Sys2Proof.Machine.execCsrr o s
  | .csrw o => Sys2Proof.Machine.execCsrw o s
  | .segw o => Sys2Proof.Machine.execSegw o s
  | .tlbi o => Sys2Proof.Machine.execTlbi o s
  | .vadd o => Sys2Proof.Machine.execVadd o s
  | .vsub o => Sys2Proof.Machine.execVsub o s
  | .vmul o => Sys2Proof.Machine.execVmul o s
  | .vmulh o => Sys2Proof.Machine.execVmulh o s
  | .vmad o => Sys2Proof.Machine.execVmad o s
  | .vand o => Sys2Proof.Machine.execVand o s
  | .vor o => Sys2Proof.Machine.execVor o s
  | .vxor o => Sys2Proof.Machine.execVxor o s
  | .vandn o => Sys2Proof.Machine.execVandn o s
  | .vshl o => Sys2Proof.Machine.execVshl o s
  | .vshr o => Sys2Proof.Machine.execVshr o s
  | .vsar o => Sys2Proof.Machine.execVsar o s
  | .vmin o => Sys2Proof.Machine.execVmin o s
  | .vmax o => Sys2Proof.Machine.execVmax o s
  | .vabsd o => Sys2Proof.Machine.execVabsd o s
  | .vclz o => Sys2Proof.Machine.execVclz o s
  | .vpopc o => Sys2Proof.Machine.execVpopc o s
  | .vbrev o => Sys2Proof.Machine.execVbrev o s
  | .vbext o => Sys2Proof.Machine.execVbext o s
  | .vbins o => Sys2Proof.Machine.execVbins o s
  | .vsel o => Sys2Proof.Machine.execVsel o s
  | .vcmp o => Sys2Proof.Machine.execVcmp o s
  | .vsat o => Sys2Proof.Machine.execVsat o s
  | .vcvti o => Sys2Proof.Machine.execVcvti o s
  | .vaddc o => Sys2Proof.Machine.execVaddc o s
  | .vdot4i o => Sys2Proof.Machine.execVdot4i o s
  | .vmovi o => Sys2Proof.Machine.execVmovi o s
  | .vlane o => Sys2Proof.Machine.execVlane o s
  | .smov o => Sys2Proof.Machine.execSmov o s
  | .vfadd o => Sys2Proof.Machine.execVfadd o s
  | .vfsub o => Sys2Proof.Machine.execVfsub o s
  | .vfmul o => Sys2Proof.Machine.execVfmul o s
  | .vfma o => Sys2Proof.Machine.execVfma o s
  | .vfmin o => Sys2Proof.Machine.execVfmin o s
  | .vfmax o => Sys2Proof.Machine.execVfmax o s
  | .vfcmp o => Sys2Proof.Machine.execVfcmp o s
  | .vfcls o => Sys2Proof.Machine.execVfcls o s
  | .vfrcp o => Sys2Proof.Machine.execVfrcp o s
  | .vfrsq o => Sys2Proof.Machine.execVfrsq o s
  | .vfsqrt o => Sys2Proof.Machine.execVfsqrt o s
  | .vfexp2 o => Sys2Proof.Machine.execVfexp2 o s
  | .vflog2 o => Sys2Proof.Machine.execVflog2 o s
  | .vfsin o => Sys2Proof.Machine.execVfsin o s
  | .vfcos o => Sys2Proof.Machine.execVfcos o s
  | .vftanh o => Sys2Proof.Machine.execVftanh o s
  | .vfdiv o => Sys2Proof.Machine.execVfdiv o s
  | .vfrnd o => Sys2Proof.Machine.execVfrnd o s
  | .vcvtf o => Sys2Proof.Machine.execVcvtf o s
  | .vcvtfi o => Sys2Proof.Machine.execVcvtfi o s
  | .vcvtif o => Sys2Proof.Machine.execVcvtif o s
  | .vpack2 o => Sys2Proof.Machine.execVpack2 o s
  | .vpack4 o => Sys2Proof.Machine.execVpack4 o s
  | .vunpk o => Sys2Proof.Machine.execVunpk o s
  | .vfdot2 o => Sys2Proof.Machine.execVfdot2 o s
  | .vfdot4 o => Sys2Proof.Machine.execVfdot4 o s
  | .vperm o => Sys2Proof.Machine.execVperm o s
  | .vshfl o => Sys2Proof.Machine.execVshfl o s
  | .vbcast o => Sys2Proof.Machine.execVbcast o s
  | .vreduce o => Sys2Proof.Machine.execVreduce o s
  | .vscan o => Sys2Proof.Machine.execVscan o s
  | .vballot o => Sys2Proof.Machine.execVballot o s
  | .vvote o => Sys2Proof.Machine.execVvote o s
  | .vld o => Sys2Proof.Machine.execVld o s
  | .vst o => Sys2Proof.Machine.execVst o s
  | .vldb o => Sys2Proof.Machine.execVldb o s
  | .vstb o => Sys2Proof.Machine.execVstb o s
  | .vatom o => Sys2Proof.Machine.execVatom o s
  | .vldc o => Sys2Proof.Machine.execVldc o s
  | .vstf o => Sys2Proof.Machine.execVstf o s
  | .vpref o => Sys2Proof.Machine.execVpref o s
  | .vbr o => Sys2Proof.Machine.execVbr o s
  | .vexit o => Sys2Proof.Machine.execVexit o s
  | .mset o => Sys2Proof.Machine.execMset o s
  | .mop o => Sys2Proof.Machine.execMop o s
  | .mpopc o => Sys2Proof.Machine.execMpopc o s
  | .mffs o => Sys2Proof.Machine.execMffs o s
  | .emset o => Sys2Proof.Machine.execEmset o s
  | .livev o => Sys2Proof.Machine.execLivev o s
  | .spawnv o => Sys2Proof.Machine.execSpawnv o s
  | .cpy o => Sys2Proof.Machine.execCpy o s
  | .cpy2 o => Sys2Proof.Machine.execCpy2 o s
  | .cpyg o => Sys2Proof.Machine.execCpyg o s
  | .feset o => Sys2Proof.Machine.execFeset o s
  | .mwld o => Sys2Proof.Machine.execMwld o s
  | .mtile o => Sys2Proof.Machine.execMtile o s
  | .mq o => Sys2Proof.Machine.execMq o s
  | .mchain o => Sys2Proof.Machine.execMchain o s
  | .mrpr o => Sys2Proof.Machine.execMrpr o s
  | .mstat o => Sys2Proof.Machine.execMstat o s
  | .rtrace o => Sys2Proof.Machine.execRtrace o s
  | .rcand o => Sys2Proof.Machine.execRcand o s
  | .rverd o => Sys2Proof.Machine.execRverd o s
  | .rhit o => Sys2Proof.Machine.execRhit o s
  | .rmarch o => Sys2Proof.Machine.execRmarch o s
  | .rtex o => Sys2Proof.Machine.execRtex o s
  | .gapp o => Sys2Proof.Machine.execGapp o s
  | .gconn o => Sys2Proof.Machine.execGconn o s
  | .gmerge o => Sys2Proof.Machine.execGmerge o s
  | .grw o => Sys2Proof.Machine.execGrw o s
  | .gret o => Sys2Proof.Machine.execGret o s
  | .gseal o => Sys2Proof.Machine.execGseal o s
  | .gopen o => Sys2Proof.Machine.execGopen o s
  | .gread o => Sys2Proof.Machine.execGread o s
  | .ghold o => Sys2Proof.Machine.execGhold o s
  | .gdrop o => Sys2Proof.Machine.execGdrop o s
  | .coll o => Sys2Proof.Machine.execColl o s
  | .ccancel o => Sys2Proof.Machine.execCcancel o s
  | .cseq o => Sys2Proof.Machine.execCseq o s
  | .fput o => Sys2Proof.Machine.execFput o s
  | .fget o => Sys2Proof.Machine.execFget o s
  | .contextFault part ctx cause => Sys2Proof.Machine.execContextFault part ctx cause s
  | .resultReturn g n => Sys2Proof.Machine.execResultReturn g n s
  | .gangReady g => Sys2Proof.Machine.execGangReady g s
  | .rangeWalkDone g => Sys2Proof.Machine.execRangeWalkDone g s
  | .cellinitReply g => Sys2Proof.Machine.execCellinitReply g s
  | .tlbiConfirm g => Sys2Proof.Machine.execTlbiConfirm g s
  | .strandResume g q => Sys2Proof.Machine.execStrandResume g q s
  | .regangRelease og => Sys2Proof.Machine.execRegangRelease og s
  | .trapEntry g => Sys2Proof.Machine.execTrapEntry g s
  | .poolAllocation tok => Sys2Proof.Machine.execPoolAllocation tok s
  | .faultLogWrite tok => Sys2Proof.Machine.execFaultLogWrite tok s
  | .faultTimeout tok => Sys2Proof.Machine.execFaultTimeout tok s
  | .preempt g => Sys2Proof.Machine.execPreempt g s
  | .copyActivate c => Sys2Proof.Machine.execCopyActivate c s
  | .copyGranule c n => Sys2Proof.Machine.execCopyGranule c n s
  | .copyComplete c => Sys2Proof.Machine.execCopyComplete c s
  | .mwldExecute c => Sys2Proof.Machine.execMwldExecute c s
  | .tileStart c => Sys2Proof.Machine.execTileStart c s
  | .matrixLatchStep c => Sys2Proof.Machine.execMatrixLatchStep c s
  | .matrixComputeStep c => Sys2Proof.Machine.execMatrixComputeStep c s
  | .matrixWriteStep c => Sys2Proof.Machine.execMatrixWriteStep c s
  | .tileRetire c => Sys2Proof.Machine.execTileRetire c s
  | .mqDispatch c e => Sys2Proof.Machine.execMqDispatch c e s
  | .rayTraceResult r => Sys2Proof.Machine.execRayTraceResult r s
  | .rayMarchComplete r => Sys2Proof.Machine.execRayMarchComplete r s
  | .gsealComplete part pass => Sys2Proof.Machine.execGsealComplete part pass s
  | .launchAccept part => Sys2Proof.Machine.execLaunchAccept part s
  | .nodeStart l n => Sys2Proof.Machine.execNodeStart l n s
  | .nodeRetire l n => Sys2Proof.Machine.execNodeRetire l n s
  | .hostNodeWrite l n => Sys2Proof.Machine.execHostNodeWrite l n s
  | .placeStrand entry q => Sys2Proof.Machine.execPlaceStrand entry q s
  | .stageTakeRecords l n core q => Sys2Proof.Machine.execStageTakeRecords l n core q s
  | .stageEnd l n => Sys2Proof.Machine.execStageEnd l n s
  | .rebalancePeriod part => Sys2Proof.Machine.execRebalancePeriod part s
  | .fputComplete c => Sys2Proof.Machine.execFputComplete c s
  | .crewRollback crew => Sys2Proof.Machine.execCrewRollback crew s
  | .twinCheckPoint crew index => Sys2Proof.Machine.execTwinCheckPoint crew index s
  | .idleEntry part => Sys2Proof.Machine.execIdleEntry part s
  | .jobStart part job => Sys2Proof.Machine.execJobStart part job s
  | .jobDone part job => Sys2Proof.Machine.execJobDone part job s
  | .branchBubbleEnd g => Sys2Proof.Machine.execBranchBubbleEnd g s
  | .fairnessStarvation q => Sys2Proof.Machine.execFairnessStarvation q s
  | .cellarMigration part ctx va inward copyOk => Sys2Proof.Machine.execCellarMigration part ctx va inward copyOk s
  | .cellarIdleReturn part page => Sys2Proof.Machine.execCellarIdleReturn part page s
  | .frespRetry part token => Sys2Proof.Machine.execFrespRetry part token s
  | .frespFail part token => Sys2Proof.Machine.execFrespFail part token s
  | .contextSave part ctx => Sys2Proof.Machine.execContextSave part ctx s
  | .contextRestore part ctx => Sys2Proof.Machine.execContextRestore part ctx s
  | .breakpointStop g => Sys2Proof.Machine.execBreakpointStop g s
  | .dbgctlStopAll part ctx => Sys2Proof.Machine.execDbgctlStopAll part ctx s
  | .dbgctlResume part g => Sys2Proof.Machine.execDbgctlResume part g s
  | .dbgctlStep part g => Sys2Proof.Machine.execDbgctlStep part g s
  | .dbgctlClose part => Sys2Proof.Machine.execDbgctlClose part s
  | .dbgauthSubmit part => Sys2Proof.Machine.execDbgauthSubmit part s
  | .dbgTokenChecked part => Sys2Proof.Machine.execDbgTokenChecked part s
  | .raySpill core => Sys2Proof.Machine.execRaySpill core s
  | .launch part words => Sys2Proof.Machine.execLaunch part words s
  | .fputPacketPerform part p => Sys2Proof.Machine.execFputPacketPerform part p s
  | .fabricAck core c failed => Sys2Proof.Machine.execFabricAck core c failed s
  | .fgetComplete c k data failed => Sys2Proof.Machine.execFgetComplete c k data failed s
  | .packetResend c n => Sys2Proof.Machine.execPacketResend c n s
  | .pathFailure c => Sys2Proof.Machine.execPathFailure c s
  | .seqRegister part comm key m => Sys2Proof.Machine.execSeqRegister part comm key m s
  | .seqStart part comm key m => Sys2Proof.Machine.execSeqStart part comm key m s
  | .seqCancel part comm key m => Sys2Proof.Machine.execSeqCancel part comm key m s
  | .seqDoneReport part comm key m => Sys2Proof.Machine.execSeqDoneReport part comm key m s
  | .memberNotice part comm number key what => Sys2Proof.Machine.execMemberNotice part comm number key what s
  | .collStart part key others => Sys2Proof.Machine.execCollStart part key others s
  | .collComplete part key srcs failed => Sys2Proof.Machine.execCollComplete part key srcs failed s
  | .replicationApply part comm r => Sys2Proof.Machine.execReplicationApply part comm r s
  | .heartbeat part comm => Sys2Proof.Machine.execHeartbeat part comm s
  | .standbyTakeover part comm => Sys2Proof.Machine.execStandbyTakeover part comm s
  | .primaryDegraded part comm => Sys2Proof.Machine.execPrimaryDegraded part comm s
  | .epochFence part comm epoch => Sys2Proof.Machine.execEpochFence part comm epoch s
  | .requestRetry part comm key => Sys2Proof.Machine.execRequestRetry part comm key s
  | .memberUnreachable part comm m => Sys2Proof.Machine.execMemberUnreachable part comm m s
  | .failedReport part comm key => Sys2Proof.Machine.execFailedReport part comm key s
  | .scrub w uncorrectable => Sys2Proof.Machine.execScrub w uncorrectable s
  | .errcntClear part g => Sys2Proof.Machine.execErrcntClear part g s
  | .fieldTestRound part runs => Sys2Proof.Machine.execFieldTestRound part runs s
  | .fatalError cause die unit => Sys2Proof.Machine.execFatalError cause die unit s
  | .pwrRun part => Sys2Proof.Machine.execPwrRun part s
  | .pwrPartitionOff part => Sys2Proof.Machine.execPwrPartitionOff part s
  | .pwrSleep part => Sys2Proof.Machine.execPwrSleep part s
  | .pcieWake => Sys2Proof.Machine.execPcieWake s
  | .deviceReset b => Sys2Proof.Machine.execDeviceReset b s
  | .functionLevelReset part => Sys2Proof.Machine.execFunctionLevelReset part s
  | .attestRequest part => Sys2Proof.Machine.execAttestRequest part s
  | .attestDone part => Sys2Proof.Machine.execAttestDone part s
  | .ctxCreate part ctx => Sys2Proof.Machine.execCtxCreate part ctx s
  | .ctxDestroy part ctx => Sys2Proof.Machine.execCtxDestroy part ctx s
  | .ctxPooladd part => Sys2Proof.Machine.execCtxPooladd part s
  | .ctxLardersz part => Sys2Proof.Machine.execCtxLardersz part s
  | .headJob part die head a => Sys2Proof.Machine.execHeadJob part die head a s
  | .encoderJob part die enc a => Sys2Proof.Machine.execEncoderJob part die enc a s
  | .headScanout part die head => Sys2Proof.Machine.execHeadScanout part die head s
  | .registerWrite part off v => Sys2Proof.Machine.execRegisterWrite part off v s
  | .hostWindowWrite part bar off data => Sys2Proof.Machine.execHostWindowWrite part bar off data s
  | .communicatorFailure part comm => Sys2Proof.Machine.execCommunicatorFailure part comm s
  | .takeoverNotice part comm dev epoch => Sys2Proof.Machine.execTakeoverNotice part comm dev epoch s
  | .standbyAcknowledgement part comm key => Sys2Proof.Machine.execStandbyAcknowledgement part comm key s
  | .fgetTargetRead part comm va len tag => Sys2Proof.Machine.execFgetTargetRead part comm va len tag s
  | .softError w uncorrectable => Sys2Proof.Machine.execSoftError w uncorrectable s
  | .lifecycleReturned token => Sys2Proof.Machine.execLifecycleReturned token s
  | .inboundMigrationTimeout tok => Sys2Proof.Machine.execInboundMigrationTimeout tok s

end Sys2Proof.Machine
end

