-- ==== Sys2Proof/Machine/Step.lean ====
section
/-! DEFINITION. One step of the machine: the next move of the agenda, which is a word of a quadrant's slot or a step of
another agent. -/

namespace Sys2Proof.Machine

/-- Run a word that has been fetched, and what follows it in its slot; a word that had issued before and has waited takes no slot. -/
def runStarted (st : Started) (q : Nat) (waited : Bool) : Host.Outcome State Fault Refusal :=
  match st with
  | .over s => .next s
  | .trap pc s => .next (if waited then s.retireTrapWaited pc else s.retireTrap q pc)
  | .word i s =>
    match exec i s with
    | .next s' => .next (if waited then s'.retireWaited i q s.curGid s.curPc else s'.retire i q s.curGid s.curSlices s.curPc)
    | .fault f => .fault f
    | .refused r => .refused r

/-- One step. -/
def step (s : State) : Host.Outcome State Fault Refusal :=
  let (a, s1) := s.takeAct
  match a with
  | .issue q late => runStarted (s1.start q late) q false
  | .resume gid => runStarted (s1.restart gid) (s1.quadOf gid) true
  | .event i => exec i s1
  | a => .next (s1.move a)

/-- The state with one instruction placed so that the next step runs it. -/
def State.withFetchWord (s : State) (nbits w : Nat) : State := s.load nbits w

end Sys2Proof.Machine
end

