-- ==== Sys2Proof/Safety.lean ====
section
/-! DEFINITION. What counts as a safe run: a step that answers a next state. -/

namespace Sys2Proof

/-- The step from a state answers a next state. -/
def Machine.State.proceeds (s : Machine.State) : Prop := ∃ t, Machine.step s = .next t

end Sys2Proof
end

