-- ==== Sys2Proof/Certificates/Slice0/Obligations.lean ====
section
/-! DEFINITION. The statements for the provers, each `Obligations.<Name>`, with the words they are made of. -/

namespace Sys2Proof.Claim

open Sys2Proof.Machine

/-! ## How a word completes -/

/-- The gang checked out is `g`, and its word `i` has passed the checks that come before an effect: mode, region, waits,
interlock and live-ins (03 R70; 05 R111, R112, R116, R117). -/
def Runs (i : Instr) (s : State) (g : Gang) : Prop := s.cur = some g ∧ gate i s g = .go

/-- Two gangs that differ in their slices alone, slice by slice as `P` says. -/
def Each (P : Slice → Slice → Prop) (g g' : Gang) : Prop :=
  g' = { g with slices := g'.slices } ∧ g'.slices.length = g.slices.length ∧
    ∀ (n : Nat) (sl sl' : Slice), g.slices[n]? = some sl → g'.slices[n]? = some sl' → P sl sl'

/-- The word completes: the gang is put back with its slices changed as `P` says, one number of the free values is drawn, and
nothing else of the machine changes, memory included. -/
def Completes (i : Instr) (s : State) (g : Gang) (P : Slice → Slice → Prop) : Prop :=
  ∃ g', exec i s = .next { s with cur := some g', free := s.free + 1, performed := true } ∧ Each P g g'

/-- What was outstanding stays outstanding. -/
def KeepsPending (sl sl' : Slice) : Prop := ∀ p ∈ sl.pending, ∃ p' ∈ sl'.pending, p' = { p with passed := p'.passed }

/-- A scalar register's code that ends a region when it is written: g1 to g7 (05 R110). -/
def endsRegion (d : SReg) : Bool := decide (1 ≤ d.toNat) && decide (d.toNat ≤ 7)

/-- A narrow word's effect that is one scalar result: the register takes it, g0 discards it; every other register of the file,
every lane and mask register, every CSR and every other field stays; the pc moves past the word. -/
def SetsScalar (d : SReg) (x : SVal) (sl sl' : Slice) : Prop :=
  (∀ k, Map.get {} sl'.scal k = if d ≠ 0 ∧ k = sl.scalKey d then x else Map.get {} sl.scal k) ∧ KeepsPending sl sl' ∧
    sl' = { sl with scal := sl'.scal, pending := sl'.pending, pc := sl.pc + 4, between := sl.between || endsRegion d
                    justRegion := false, unfin := none }

/-- The value of an ALU word on n bits, n = 64 or, with W, 32 sign-extended, and its tag (06 R122, R123). -/
def aluValue (f : (n : Nat) → BitVec n → BitVec n → BitVec n) (two w : Bool) (a b : SVal) : SVal :=
  ⟨if w then (f 32 (a.v.setWidth 32) (b.v.setWidth 32)).signExtend 64 else f 64 a.v b.v, a.tag || (two && b.tag)⟩

/-- An ALU word completes in every form, with its value written to SD. -/
def Alu (i : FormNA → Instr) (f : (n : Nat) → BitVec n → BitVec n → BitVec n) (two : Bool := true) : Prop :=
  ∀ o s g, Runs (i o) s g → Completes (i o) s g fun sl sl' =>
    SetsScalar o.sd (aluValue f two o.w (sl.readS (s.rctx g) o.sa) (sl.readS (s.rctx g) o.sb)) sl sl'

/-- A word with one scalar result completes in every form, the value by what its slice reads. -/
def Scalar {F : Type} (i : F → Instr) (d : F → SReg) (x : F → (SReg → SVal) → Slice → SVal) : Prop :=
  ∀ o s g, Runs (i o) s g → Completes (i o) s g fun sl sl' => SetsScalar (d o) (x o (sl.readS (s.rctx g)) sl) sl sl'

end Sys2Proof.Claim

open Sys2Proof Sys2Proof.Machine Sys2Proof.Claim

/-! ## Scalar arithmetic (06) -/

/-- 06 R123: sums, products and logic keep the low n bits of the exact result; MULH and MULHN bits 2n−1 to n of the product. -/
def Sys2Proof.Claim.aluSumsProductsAndLogic : Prop :=
  Alu .add (fun n a b => BitVec.ofInt n (a.toInt + b.toInt)) ∧
  Alu .sub (fun n a b => BitVec.ofInt n (a.toInt - b.toInt)) ∧
  Alu .mul (fun n a b => BitVec.ofNat n (a.toNat * b.toNat)) ∧
  Alu .mulh (fun n a b => BitVec.ofInt n (a.toInt * b.toInt / 2 ^ n)) ∧
  Alu .mulhn (fun n a b => BitVec.ofNat n (a.toNat * b.toNat / 2 ^ n)) ∧
  Alu .and (fun _ a b => a &&& b) ∧ Alu .or (fun _ a b => a ||| b) ∧ Alu .xor (fun _ a b => a ^^^ b) ∧
  Alu .andn (fun _ a b => a &&& ~~~b) ∧
  (∀ k, Alu (.lea k) (fun n a b => BitVec.ofNat n (a.toNat + b.toNat * 2 ^ k.toNat)))

/-- 06 R123, R124: division truncates toward zero; a zero divisor gives all ones and leaves the dividend as the remainder; the
most negative number by −1 wraps and leaves remainder 0; a remainder is the dividend less quotient times divisor. -/
def Sys2Proof.Claim.aluDivisionAndItsCorners : Prop :=
  Alu .div (fun n a b => if b = 0 then BitVec.allOnes n else BitVec.ofInt n (a.toInt.tdiv b.toInt)) ∧
  Alu .divn (fun n a b => if b = 0 then BitVec.allOnes n else BitVec.ofNat n (a.toNat / b.toNat)) ∧
  Alu .rem (fun n a b => if b = 0 then a else BitVec.ofInt n (a.toInt - a.toInt.tdiv b.toInt * b.toInt)) ∧
  Alu .remn (fun n a b => if b = 0 then a else BitVec.ofNat n (a.toNat - a.toNat / b.toNat * b.toNat))

/-- 06 R123, R124: the words of the ALU group that add, multiply, combine bits and divide. -/
def Obligations.ScalarSumsProductsLogicAndDivision : Prop := Claim.aluSumsProductsAndLogic ∧ Claim.aluDivisionAndItsCorners

/-- 06 R123: shifts take their amount modulo 64 and then modulo n; ROL brings back at the low end what leaves at the high end. -/
def Sys2Proof.Claim.aluShiftsByAmountModuloWidth : Prop :=
  Alu .shl (fun n a b => BitVec.ofNat n (a.toNat * 2 ^ (b.toNat % 64 % n))) ∧
  Alu .shr (fun n a b => BitVec.ofNat n (a.toNat / 2 ^ (b.toNat % 64 % n))) ∧
  Alu .sar (fun n a b => BitVec.ofInt n (a.toInt / 2 ^ (b.toNat % 64 % n))) ∧
  Alu .rol (fun n a b => BitVec.ofNat n (a.toNat * 2 ^ (b.toNat % 64 % n) + a.toNat / 2 ^ (n - b.toNat % 64 % n)))

/-- 06 R123: the smaller and the larger, and comparisons that answer 1 or 0. -/
def Sys2Proof.Claim.aluMinMaxAndComparisons : Prop :=
  Alu .min (fun n a b => BitVec.ofInt n (min a.toInt b.toInt)) ∧ Alu .minn (fun n a b => BitVec.ofNat n (min a.toNat b.toNat)) ∧
  Alu .max (fun n a b => BitVec.ofInt n (max a.toInt b.toInt)) ∧ Alu .maxn (fun n a b => BitVec.ofNat n (max a.toNat b.toNat)) ∧
  Alu .slt (fun n a b => if a.toInt < b.toInt then 1#n else 0#n) ∧ Alu .sltn (fun n a b => if a.toNat < b.toNat then 1#n else 0#n) ∧
  Alu .seq (fun n a b => if a = b then 1#n else 0#n)

/-- 06 R123: CLZ and CTZ count the zero bits above the highest and below the lowest one bit, all n of 0; POPC the one bits; BREV turns
the order of the bits round; SEXT and ZEXT extend the low zext(b, 6) bits, to 0 for no bit. -/
def Sys2Proof.Claim.aluBitCountsAndExtensions : Prop :=
  Alu .clz (fun n a _ => BitVec.ofNat n (((List.range n).find? fun k => a.getLsbD (n - 1 - k)).getD n)) false ∧
  Alu .ctz (fun n a _ => BitVec.ofNat n (((List.range n).find? fun k => a.getLsbD k).getD n)) false ∧
  Alu .popc (fun n a _ => BitVec.ofNat n ((List.range n).countP fun k => a.getLsbD k)) false ∧
  Alu .brev (fun n a _ => BitVec.ofNat n ((List.range n).map fun k => if a.getLsbD k then 2 ^ (n - 1 - k) else 0).sum) false ∧
  Alu .sext (fun n a b => BitVec.ofInt n (Int.bmod a.toNat (2 ^ (b.toNat % 64)))) ∧
  Alu .zext (fun n a b => BitVec.ofNat n (a.toNat % 2 ^ (b.toNat % 64)))

/-- 06 R123: the other words of the ALU group. -/
def Obligations.ScalarShiftsComparisonsAndBitCounts : Prop := 
  Claim.aluShiftsByAmountModuloWidth ∧ Claim.aluMinMaxAndComparisons ∧ Claim.aluBitCountsAndExtensions

/-- 06 R125, R126: immediates are 14 bits sign-extended; SHI names its shift by bits 13:12, W by bit 8, the amount by bits 5:0; LI, LSH
and ADDPC make constants, LSH keeping the tag of SD and the other two clearing it. -/
def Sys2Proof.Claim.immediatesAndConstants : Prop :=
  Scalar .addi FormNI.sd (fun o rd _ => ⟨BitVec.ofInt 64 ((rd o.sa).v.toInt + o.imm.toInt), (rd o.sa).tag⟩) ∧
  Scalar .andi FormNI.sd (fun o rd _ => ⟨(rd o.sa).v &&& o.imm.signExtend 64, (rd o.sa).tag⟩) ∧
  Scalar .ori FormNI.sd (fun o rd _ => ⟨(rd o.sa).v ||| o.imm.signExtend 64, (rd o.sa).tag⟩) ∧
  Scalar .xori FormNI.sd (fun o rd _ => ⟨(rd o.sa).v ^^^ o.imm.signExtend 64, (rd o.sa).tag⟩) ∧
  Scalar .slti FormNI.sd (fun o rd _ => ⟨if (rd o.sa).v.toInt < o.imm.toInt then 1 else 0, (rd o.sa).tag⟩) ∧
  Scalar .shi FormNI.sd (fun o rd _ => aluValue (fun n a b =>
    let k := b.toNat % n
    match o.imm.toNat / 2 ^ 12 with
    | 0 => BitVec.ofNat n (a.toNat * 2 ^ k)
    | 1 => BitVec.ofNat n (a.toNat / 2 ^ k)
    | 2 => BitVec.ofInt n (a.toInt / 2 ^ k)
    | _ => BitVec.ofNat n (a.toNat * 2 ^ k + a.toNat / 2 ^ (n - k))) false (o.imm.getLsbD 8) (rd o.sa)
      ⟨BitVec.ofNat 64 (o.imm.toNat % 64), false⟩) ∧
  Scalar .li FormNL.sd (fun o _ _ => ⟨BitVec.ofInt 64 o.imm.toInt, false⟩) ∧
  Scalar .lsh FormNL.sd (fun o rd _ => ⟨BitVec.ofNat 64 ((rd o.sd).v.toNat * 2 ^ 16) ||| BitVec.ofNat 64 (o.imm.toNat % 2 ^ 16), (rd o.sd).tag⟩) ∧
  Scalar .addpc FormNL.sd (fun o _ sl => ⟨BitVec.ofInt 64 (sl.pc.toInt + o.imm.toInt), false⟩)

/-- The field of width `w` at position `p` of 64 bits, and another put there; the width is cut to the bits that are left. -/
def Sys2Proof.Claim.fieldOf64 (a : Word64) (p w : Nat) : Word64 := BitVec.ofNat 64 (a.toNat / 2 ^ p % 2 ^ min w (64 - p))
def Sys2Proof.Claim.putField64 (d a : Word64) (p w : Nat) : Word64 :=
  BitVec.ofNat 64 (d.toNat - (fieldOf64 d p w).toNat * 2 ^ p + a.toNat % 2 ^ min w (64 - p) * 2 ^ p)

/-- 06 R127: BEXT and BINS take position and width from the word, BEXTV and BINSV from bits 5:0 and 13:8 of SB; the insertions read
SD too and keep its other bits. -/
def Sys2Proof.Claim.bitFieldsExtractAndInsert : Prop :=
  Scalar .bext FormNF.sd (fun o rd _ => ⟨fieldOf64 (rd o.sa).v o.pos.toNat o.wid.toNat, (rd o.sa).tag⟩) ∧
  Scalar .bins FormNF.sd (fun o rd _ => ⟨putField64 (rd o.sd).v (rd o.sa).v o.pos.toNat o.wid.toNat, (rd o.sa).tag || (rd o.sd).tag⟩) ∧
  Scalar .bextv FormNR.sd (fun o rd _ =>
    ⟨fieldOf64 (rd o.sa).v ((rd o.sb).v.toNat % 64) ((rd o.sb).v.toNat / 256 % 64), (rd o.sa).tag || (rd o.sb).tag⟩) ∧
  Scalar .binsv FormNR.sd (fun o rd _ =>
    ⟨putField64 (rd o.sd).v (rd o.sa).v ((rd o.sb).v.toNat % 64) ((rd o.sb).v.toNat / 256 % 64),
      (rd o.sa).tag || (rd o.sb).tag || (rd o.sd).tag⟩)

/-- 06 R125 to R127: the words with an immediate, the constants, and the bit fields. -/
def Obligations.ImmediatesConstantsAndBitFields : Prop := Claim.immediatesAndConstants ∧ Claim.bitFieldsExtractAndInsert

/-! ## What comes before an effect (03 R70; 05 R111, R112, R116, R117; 10 R222 to R224) -/

/-- The first parcel of a word as the traps report it. -/
def Sys2Proof.Claim.parcel0 (i : Instr) : Word64 := ((encode i).headD 0).setWidth 64

/-- The word writes a register that its region holds as a live-in: one of s0 to s23 in LIVES, one of g1 to g7 where the word does not
end the region, a lane register in LIVEV when some lane is active (05 R112). -/
def Sys2Proof.Claim.writesLiveIn (i : Instr) (s : State) (g : Gang) : Bool :=
  !regionEnding i && g.slices.any fun sl => sl.writesLiveIn i (g.anyActive (s.rctx g) (pmOf i))

/-- 03 R70 order 3, 05 R111, R112, R116, R117: each word of the opcode table first meets the checks, in this order. A privileged form in
user mode raises PRIVILEGE; a LIVEV that does not follow REGION, and any word but REGION between regions, raise REGION_VIOLATION; a
word that waits for outstanding results parks; a word whose sources are outstanding is held and changes nothing: a word of R116's list, and, by the
model's choice (log 28, DEDUCED), SIGNAL, CELLINIT and RESOLVE and the mask that pm names; a write to a live-in raises REGION_VIOLATION. -/
def Obligations.ChecksComeBeforeEveryEffect : Prop :=
  ∀ (i : Instr) (s : State) (g : Gang), i.isWord = true → s.cur = some g →
    let trap := fun (cause : BitVec 8) => exec i s = .next (s.trapped g ⟨cause, parcel0 i⟩)
    let priv := privileged i && g.user
    let region := (isLivev i && g.slices.any fun sl => !sl.justRegion) || (!isRegion i && g.slices.any fun sl => sl.between)
    let waits := waitsAll i && g.outstanding s.cycle
    let held := g.interlockHeld s.cycle i
    (priv → trap 0x03) ∧
    (!priv && region → trap 0x10) ∧
    (!priv && !region && waits → exec i s = .next { s with cur := some { g with park := .settle, waiting := true } }) ∧
    (!priv && !region && !waits && held → exec i s = .next s) ∧
    (!priv && !region && !waits && !held && writesLiveIn i s g → trap 0x10) ∧
    (!priv && !region && !waits && !held && !writesLiveIn i s g → Runs i s g)

/-- The slice can take a trap: TSAVED is 0, TVEC is no 0 and a multiple of 4 (10 R222). -/
def Sys2Proof.Claim.CanTrap (sl : Slice) : Prop := sl.tsave = none ∧ sl.tvec ≠ 0 ∧ sl.tvec.toNat % 4 = 0

/-- 10 R222: with nothing outstanding every slice of the gang takes the trap at once: the trap save takes REGIONPC, LIVES, LIVEV, the
snapshots and the parts not yet performed; TCAUSE, TVAL and TEPC are written; PPRIV takes PRIV and PRIV becomes 1; the fetch buffer is
discarded, PC takes TVEC, and the slice is between regions. Every register and every other field stays, memory too. With a result
outstanding the gang waits with the trap. A consumption in a crew with rollback is another matter (21 R438). -/
def Sys2Proof.Claim.trapEntrySavesAndVectors : Prop :=
  ∀ (s : State) (g : Gang) (t : Trap), t.cause ≠ 0x09 ∨ g.crew = none →
    (g.outstanding s.cycle = true → s.trapped g t = { s with cur := some { g with park := .trap t.cause t.val }, free := s.free + 1 }) ∧
    (g.outstanding s.cycle = false → (∀ sl ∈ g.slices, CanTrap sl) →
      ∃ g', s.trapped g t = { s with cur := some { g' with park := .none, buf := [] }, free := s.free + 1 } ∧
        Each (fun sl sl' => sl' = { sl with
          tsave := some { wordAt := sl.pc, regionpc := sl.regionpc, lives := sl.lives, livev := sl.livev, snap := sl.snap, replay := sl.unfin, noteMark := sl.noteMark }
          tcause := t.cause.setWidth 64, tval := t.val, tepc := sl.pc, ppriv := sl.priv, priv := true, pc := sl.tvec
          between := true, justRegion := false, unfin := none }) g g')

/-- OP8 of the word at which a gang stands, 0 when it has none (22 R453). -/
def Sys2Proof.Claim.opcodeAt (g : Gang) : Nat :=
  match g.buf.head? with
  | some f => if f.addr = g.pc ∧ f.parcel.getLsbD 31 = true then f.parcel.toNat / 2 ^ 22 % 256 else 0
  | none => 0

/-- 10 R224: a trap that some slice cannot take is a double trap: a context fault is raised, the gang goes no further, and no register of it
changes. R224 and R225 speak of one slice; that a gang raises one context fault, with the cause, TVAL and the pc of its lowest such slice, is
the model's choice (log 16, DEDUCED). -/
def Sys2Proof.Claim.doubleTrapRaisesContextFault : Prop :=
  ∀ (s : State) (g : Gang) (t : Trap) (front back : List Slice) (sl : Slice), t.cause ≠ 0x09 ∨ g.crew = none →
    g.outstanding s.cycle = false → g.slices = front ++ sl :: back → (∀ x ∈ front, CanTrap x) → ¬ CanTrap sl →
      s.trapped g t = { s with
        cur := some { g with park := .dead }, free := s.free + 1
        ctxFaults := s.ctxFaults ++ [{ part := g.part, ctx := g.ctx, cause := t.cause, tepc := sl.pc, tval := t.val, core := g.core, op8 := opcodeAt g }] }

/-- 10 R222, R224: taking a trap, and where a slice cannot take it; one context fault for a gang's double trap is the model's choice (log 16). -/
def Obligations.TrapEntryAndDoubleTrap : Prop := Claim.trapEntrySavesAndVectors ∧ Claim.doubleTrapRaisesContextFault

/-- 10 R223, 03 R48: ERET gives each slice PRIV from PPRIV and the pc from TEPC; with TSAVED it restores REGIONPC, LIVES, LIVEV and the
snapshots, is inside the restored region, not directly behind its REGION by the model's choice (log 75), and at the trapping word only the
replay mask is left to do; without it the slice is between regions. The first slice whose TEPC is no multiple of 4 raises MISALIGNED_FETCH with it. -/
def Obligations.EretRestoresAndReturns : Prop :=
  ∀ (o : FormNS) (s : State) (g : Gang), Runs (.eret o) s g →
   (∀ front sl back, g.slices = front ++ sl :: back → (∀ y ∈ front, y.tepc.toNat % 4 = 0) → sl.tepc.toNat % 4 ≠ 0 →
    exec (.eret o) s = .next (s.trapped g ⟨0x11, sl.tepc⟩)) ∧
   ((∀ sl ∈ g.slices, sl.tepc.toNat % 4 = 0) → ∃ g',
    exec (.eret o) s = .next { s with cur := some { g' with buf := [] }, free := s.free + 1, performed := true } ∧
      Each (fun sl sl' => match sl.tsave with
        | some t => sl' = { sl with
            priv := sl.ppriv, pc := sl.tepc, regionpc := t.regionpc, lives := t.lives, livev := t.livev, snap := t.snap, noteMark := t.noteMark, tsave := none
            between := false, justRegion := false, unfin := if sl.tepc = t.wordAt then t.replay else none }
        | none => sl' = { sl with priv := sl.ppriv, pc := sl.tepc, between := true, justRegion := false, unfin := none }) g g')

/-! ## The SYS group and control (05, 06, 10) -/

/-- A slice moves past a narrow word, and nothing else of it changes. -/
def Sys2Proof.Claim.Passes (sl sl' : Slice) : Prop := sl' = { sl with pc := sl.pc + 4, justRegion := false, unfin := none }

/-- A slice moves past a word that ends its region. -/
def Sys2Proof.Claim.EndsAt (bytes : Nat) (sl sl' : Slice) : Prop :=
  sl' = { sl with pc := sl.pc + BitVec.ofNat 64 bytes, between := true, justRegion := false, unfin := none }

/-- 05 R95; 06 R144, R145; 08 R190; 10 R217, R218: NOP moves on; GUARD makes its slot UNRESOLVED; YIELD makes the gang the youngest; FETCHB
discards the fetch buffer, and the range walks of ICINV that are over bound what is fetched from now on; REGANG ends the region, and goes
on at once when the original gang has not parted, else it waits with its identifier, its home stores performed. That a waiting gang keeps
its slots until its frame is moved is the model's choice (log 30), and so is that one that may resume on another core is the source of an edge
there, an inference beside 09 R207, which names AWAIT, BAR WAIT and BAR SYNC. -/
def Obligations.NopGuardYieldFetchbRegang : Prop :=
  (∀ o s g, Runs (.nop o) s g → Completes (.nop o) s g Passes) ∧
  (∀ o s g, Runs (.guard o) s g → Completes (.guard o) s g fun sl sl' =>
    (∀ k, sl'.guardState k = if k = o.imm.toNat % 16 then .unresolved else sl.guardState k) ∧
    sl' = { sl with guards := sl'.guards, pc := sl.pc + 4, justRegion := false, unfin := none }) ∧
  (∀ o s g, Runs (.yield o) s g → ∃ g',
    exec (.yield o) s =
      .next { s with cur := some { g' with age := s.nextId }, nextId := s.nextId + 1, free := s.free + 1, performed := true } ∧ Each Passes g g') ∧
  (∀ o s g, Runs (.fetchb o) s g → ∃ g',
    exec (.fetchb o) s = .next { s with
      cur := some { g' with buf := [], floors := g.floors ++ g.icinvs, icinvs := [] }, free := s.free + 1, performed := true } ∧ Each Passes g g') ∧
  (∀ o s g, Runs (.regang o) s g → (∀ h ∈ s.gangs, h.og = g.og → h.gid = g.gid) → Completes (.regang o) s g (EndsAt 4)) ∧
  (∀ o s g h, Runs (.regang o) s g → h ∈ s.gangs → h.og = g.og → h.gid ≠ g.gid →
    (g.movable false = false ∨ s.ackClear g.core g.tier = true) → ∃ g',
      let t := if g.movable false then (s.drain g.gid).reconcileSource g.core g.tier else s.drain g.gid
      exec (.regang o) s = .next { t with cur := some { g' with park := .regang o.imm, buf := [] }, free := t.free + 1, performed := true } ∧
        Each (EndsAt 4) g g')

/-- 06 R145, 10 R221, R222, R231: TRAP raises TRAP_INSTRUCTION with its code; BRK without an attached debugger raises BREAKPOINT with 0; with
one it stops the gang before the word, in stop-all mode the whole context. That a debugger is attached when the debug state is not CLOSED, and
that a gang which it has resumed there goes past, are the model's choice (log 37, DEDUCED). -/
def Obligations.TrapAndBreakpointWords : Prop :=
  (∀ o s g, Runs (.trap o) s g → exec (.trap o) s = .next (s.trapped g ⟨0x0C, o.imm.setWidth 64⟩)) ∧
  (∀ o s g, Runs (.brk o) s g → s.debugged g.part = false → exec (.brk o) s = .next (s.trapped g ⟨0x0B, 0⟩)) ∧
  (∀ o s g, Runs (.brk o) s g → s.debugged g.part = true → g.passStop = true → Completes (.brk o) s g Passes) ∧
  (∀ o s g, Runs (.brk o) s g → s.debugged g.part = true → g.passStop = false → (s.reg g.part 0x30040).getLsbD 0 = false →
    exec (.brk o) s = .next { s with cur := some { g with stopped := true } }) ∧
  (∀ o s g, Runs (.brk o) s g → s.debugged g.part = true → g.passStop = false → (s.reg g.part 0x30040).getLsbD 0 = true →
    ∃ t, exec (.brk o) s = .next t ∧ t.cur = some { g with stopped := true } ∧
      t.gangs = (s.gangs.map fun h => if h.ctx = g.ctx then { h with stopped := true } else h) ∧ t.mem = s.mem)

/-- The conditions of BR on a signed 64-bit value: EQZ, NEZ, LTZ, GEZ, GTZ, LEZ, ALW as 0 to 6 (06 R128). -/
def Sys2Proof.Claim.taken (cc : BitVec 3) (x : Word64) : Bool :=
  match cc.toNat with
  | 0 => decide (x.toInt = 0)
  | 1 => decide (x.toInt ≠ 0)
  | 2 => decide (x.toInt < 0)
  | 3 => decide (0 ≤ x.toInt)
  | 4 => decide (0 < x.toInt)
  | 5 => decide (x.toInt ≤ 0)
  | _ => true

/-- A displacement in parcels from the word's first parcel (03 R48). -/
def Sys2Proof.Claim.target {n : Nat} (pc : Word64) (d : BitVec n) : Word64 := BitVec.ofInt 64 (pc.toInt + 4 * d.toInt)

/-- A slice goes on at an address; a word that ends its region leaves it between regions. -/
def Sys2Proof.Claim.GoesTo (ends : Bool) (pc : Slice → Word64) (sl sl' : Slice) : Prop :=
  sl' = { sl with pc := pc sl, between := sl.between || ends, justRegion := false, unfin := none }

/-- 06 R128: each slice of BR goes to its target where its condition holds and on past the word otherwise, J always to its target; no
register changes. A tagged condition raises POISON_USE with its field code, a target that fails its checks MISALIGNED_FETCH with the
target, in the first slice that has one. -/
def Sys2Proof.Claim.branchesAndJumps : Prop :=
  (∀ o s g, Runs (.br o) s g →
    let x := fun (sl : Slice) => sl.readS (s.rctx g) o.sa
    let stop := fun (sl : Slice) => (x sl).tag ∨ (taken o.c (x sl).v ∧ (s.targetTrap g (!sl.priv) (target sl.pc o.x)).isSome)
    ((∀ sl ∈ g.slices, ¬ stop sl) →
      Completes (.br o) s g (GoesTo false fun sl => if taken o.c (x sl).v then target sl.pc o.x else sl.pc + 4)) ∧
    (∀ front sl back, g.slices = front ++ sl :: back → (∀ y ∈ front, ¬ stop y) →
      ((x sl).tag → exec (.br o) s = .next (s.trapped g ⟨0x09, o.sa.setWidth 64⟩)) ∧
      (¬ (x sl).tag → stop sl → exec (.br o) s = .next (s.trapped g ⟨0x11, target sl.pc o.x⟩)))) ∧
  (∀ o s g, Runs (.j o) s g → (∀ sl ∈ g.slices, s.targetTrap g (!sl.priv) (target sl.pc o.x) = none) →
    Completes (.j o) s g (GoesTo false fun sl => target sl.pc o.x))

/-- 03 R48, R49: a checked target fails when it is no multiple of 4, or when one of the two parcels before it is readable code with bit 31
set, so that it may lie inside a wide word. -/
def Sys2Proof.Claim.checkedTargets : Prop :=
  ∀ (s : State) (g : Gang) (user : Bool) (a : Word64),
    let wide := fun (b : Word64) => ∃ p, s.peekParcel g user b = some p ∧ p.getLsbD 31 = true
    (a.toNat % 4 ≠ 0 ∨ wide (a - 8) ∨ wide (a - 4) → s.targetTrap g user a = some ⟨0x11, a⟩) ∧
    (¬ (a.toNat % 4 ≠ 0 ∨ wide (a - 8) ∨ wide (a - 4)) → s.targetTrap g user a = none)

/-- 06 R128; 03 R48, R49: branches, jumps, and which targets fail their checks. -/
def Obligations.BranchesJumpsAndCheckedTargets : Prop := Claim.branchesAndJumps ∧ Claim.checkedTargets

/-- A call pushes a link: the return address behind the word with the slides, the window bases moved on by 2kS of 56 and 4kV of the
gang's lane registers, the pc at the target, the region ended (05 R101). -/
def Sys2Proof.Claim.Calls (lregs : Nat) (kS kV : Nat) (pc : Slice → Word64) (sl sl' : Slice) : Prop :=
  sl' = { sl with
    link := { ret := sl.pc + 4, kS := kS, kV := kV } :: sl.link, wb := (sl.wb + 2 * kS) % 56, lb := (sl.lb + 4 * kV) % lregs
    pc := pc sl, between := true, justRegion := false, unfin := none }

/-- The windows of a slice have room for one more group: at most 16 links, 24 + Σ2kS ≤ 56 and 64 + Σ4kV ≤ the lane registers (05 R102). -/
def Sys2Proof.Claim.Room (lregs kS kV : Nat) (sl : Slice) : Prop :=
  sl.link.length + 1 ≤ 16 ∧ 24 + 2 * kS + (sl.link.map fun l => 2 * l.kS).sum ≤ 56 ∧
    64 + 4 * kV + (sl.link.map fun l => 4 * l.kV).sum ≤ lregs

/-- 05 R101, R102, R105; 06 R129; 03 R59, R60: CALL and CALLR with room in the windows push a link and slide, nothing being spilled and
no register changed; RET with a resident link pops it and slides back. CALLR goes where the register in bits 15:11 says. -/
def Sys2Proof.Claim.callsAndReturnsInTheWindows : Prop :=
  (∀ o s g, Runs (.call o) s g →
    (∀ sl ∈ g.slices, sl.scalarDue = true ∧ Room g.lregs o.kS.toNat o.kV.toNat sl ∧
      s.targetTrap g (!sl.priv) (target sl.pc o.x) = none) →
    Completes (.call o) s g (Calls g.lregs o.kS.toNat o.kV.toNat fun sl => target sl.pc o.x)) ∧
  (∀ o s g, Runs (.callr o) s g →
    let x := fun (sl : Slice) => sl.readS (s.rctx g) (BitVec.ofNat 5 (o.x.toNat / 2 ^ 11))
    (∀ sl ∈ g.slices, sl.scalarDue = true ∧ Room g.lregs o.kS.toNat o.kV.toNat sl ∧ (x sl).tag = false ∧
      s.targetTrap g (!sl.priv) (x sl).v = none) →
    Completes (.callr o) s g (Calls g.lregs o.kS.toNat o.kV.toNat fun sl => (x sl).v)) ∧
  (∀ o s g, Runs (.ret o) s g → (∀ sl ∈ g.slices, sl.link ≠ []) →
    Completes (.ret o) s g fun sl sl' => ∃ l ls, sl.link = l :: ls ∧
      sl' = { sl with link := ls, wb := (sl.wb + 56 - 2 * l.kS) % 56, lb := (sl.lb + g.lregs - 4 * l.kV % g.lregs) % g.lregs, pc := l.ret
                      between := true, justRegion := false, unfin := none })

/-- Bytes of a hidden group's record (05 R103). -/
def Sys2Proof.Claim.recordBytes (l : Link) : Nat := 16 * l.kS + 64 * l.kV + 8 * ((l.kV + 3) / 4) + 16

/-- Byte `b` of a value. -/
def Sys2Proof.Claim.byteOf (v b : Nat) : Byte := BitVec.ofNat 8 (v / 2 ^ (8 * b))

/-- 05 R103: the record of a group in a slice whose caller's window bases are `wb` and `lb`: the scalar entries, caller's s0 first, 8 bytes each;
the lane entries, caller's v0 first, 4 bytes a lane; the lane tags, register j's four in byte j / 2, then zeros; the scalar tags; the
link entry. -/
def Sys2Proof.Claim.IsRecord (sl : Slice) (lregs : Nat) (l : Link) (wb lb : Nat) (r : List Byte) : Prop :=
  let lanes := 16 * l.kS
  let tags := lanes + 64 * l.kV
  let word := fun (at_ : Nat) => natOfBytes ((r.drop at_).take 8)
  r.length = recordBytes l ∧
  (∀ i < 2 * l.kS, ∀ b < 8, r.getD (8 * i + b) 0 = byteOf (Map.get {} sl.scal (8 + (wb + i) % 56)).v.toNat b) ∧
  (∀ j < 4 * l.kV, ∀ k < 4, ∀ b < 4,
    r.getD (lanes + 16 * j + 4 * k + b) 0 = byteOf (Map.get {} sl.lane (4 * ((lb + j) % lregs) + k)).v.toNat b) ∧
  (∀ j < 4 * l.kV, ∀ k < 4,
    (r.getD (tags + j / 2) 0).getLsbD (4 * (j % 2) + k) = (Map.get {} sl.lane (4 * ((lb + j) % lregs) + k)).tag) ∧
  (∀ b < 8 * ((l.kV + 3) / 4), 2 * l.kV ≤ b → r.getD (tags + b) 0 = 0) ∧
  (∀ i < 64, (word (recordBytes l - 16)).testBit i = (decide (i < 2 * l.kS) && (Map.get {} sl.scal (8 + (wb + i) % 56)).tag)) ∧
  word (recordBytes l - 8) = (l.ret.toNat % 2 ^ 56 + 2 ^ 56 * (l.kS + 16 * l.kV)) % 2 ^ 64

/-- The window bases of the callers of the resident groups, newest first, from those that the newest group has. -/
def Sys2Proof.Claim.basesBack (lregs : Nat) : List Link → Nat → Nat → List (Nat × Nat)
  | [], _, _ => []
  | l :: ls, wb, lb =>
    let b := ((wb + 56 - 2 * l.kS) % 56, (lb + lregs - 4 * l.kV % lregs) % lregs)
    b :: basesBack lregs ls b.1 b.2

/-- 05 R103 to R105: a spill stores 8 bytes at a time from Attic offset SPILLP on, and a refill loads 8 bytes at a time, each access checked and
translated before any of them is performed: that nothing is written before an ATTIC_OVERFLOW or a park on a fault is the model's choice (log
32, DEDUCED), where R104 lets bytes have been written. A refill first reads the link entry at SPILLP − 8, and then the whole record before
SPILLP. -/
def Sys2Proof.Claim.atticWordByWord : Prop :=
  (∀ (s : State) (g : Gang) (sl : Slice) (k : AccKind) (off n : Nat), (s.checkAttic g sl k off n).1 = none →
    (s.checkAttic g sl k off n).2.1.length = n / 8 ∧
    ∀ i a, (s.checkAttic g sl k off n).2.1[i]? = some a → ∃ s' : State,
      (s'.resolvePlace g (!sl.priv) k (BitVec.ofNat 64 (0xFD * 2 ^ 56 + (off + 8 * i))) 8 (.virt (sl.stkb.toNat + (off + 8 * i)))).1 = .ok a) ∧
  (∀ (s : State) (g : Gang) (sl : Slice) (a : Access) (as : List Access) (bs : List Byte),
    s.spillBytes g sl [] bs = (sl, s) ∧
    s.spillBytes g sl (a :: as) bs =
      (s.storePart g sl a (bs.take 8)).2.spillBytes g (s.storePart g sl a (bs.take 8)).1 as (bs.drop 8)) ∧
  (∀ (s : State) (g : Gang) (a : Access) (as : List Access),
    s.readWords g [] = ([], [], s) ∧
    let r := (s.orderPosted g a.loc 8).readAt g.core a.loc 8
    let q := r.2.2.readWords g as
    s.readWords g (a :: as) = (r.1 ++ q.1, (r.2.1 || a.por) :: q.2.1, q.2.2)) ∧
  (∀ (s s1 : State) (g : Gang) (sl : Slice) (l : Link) (bs : List Byte) (bad : List Bool), s.retPlan g sl = (.refill l bs bad, s1) →
    sl.link = [] ∧ sl.spilled ≠ 0 ∧ l.ret.toNat % 4 = 0 ∧
    let c := s.checkAttic g sl .load (sl.spillp.toNat - 8) 8
    let e := c.2.2.readWords g c.2.1
    let d := e.2.2.checkAttic g sl .load (sl.spillp.toNat - recordBytes l) (recordBytes l)
    c.1 = none ∧ (∀ b ∈ e.2.1, b = false) ∧
      l = { ret := BitVec.ofNat 64 (natOfBytes e.1 % 2 ^ 56), kS := natOfBytes e.1 / 2 ^ 56 % 16, kV := natOfBytes e.1 / 2 ^ 60 % 16 } ∧
      d.1 = none ∧ (bs, bad, s1) = d.2.2.readWords g d.2.1)

/-- 05 R102 to R105: a call without room keeps the newest groups that the windows hold and writes the records of the others, the oldest first, at
SPILLP, which moves past them, no register changing; without room below the spill limit it raises ATTIC_OVERFLOW with SPILLP. RET
with no resident link and a spilled group takes the record before SPILLP back: its registers at the caller's bases, with their tags, its return
address and its slides; g0 to g7, EM and the masks stay. -/
def Sys2Proof.Claim.spillsAndRefills : Prop :=
  (∀ (sl : Slice) (lregs : Nat) (new : Link),
    let p := sl.callPlan lregs new
    let ls := new :: sl.link
    let fits := fun (k : Nat) => (ls.take k).length ≤ 16 ∧ 24 + ((ls.take k).map fun l => 2 * l.kS).sum ≤ 56 ∧
      64 + ((ls.take k).map fun l => 4 * l.kV).sum ≤ lregs
    ∃ k, k ≤ ls.length ∧ (k = 0 ∨ fits k) ∧ (∀ m, k < m → m ≤ ls.length → ¬ fits m) ∧ p.links = ls.take k ∧ p.groups = ls.length - k ∧
      ∃ rs : List (List Byte), p.spill = rs.flatten ∧ rs.length = ls.length - k ∧
        ∀ m r, rs[m]? = some r → ∃ l b, ls[ls.length - 1 - m]? = some l ∧
          ((sl.wb, sl.lb) :: basesBack lregs sl.link sl.wb sl.lb)[ls.length - 1 - m]? = some b ∧ IsRecord sl lregs l b.1 b.2 r) ∧
  (∀ o s g sl, Runs (.call o) s g → g.slices = [sl] → sl.scalarDue = true → (∀ p ∈ sl.pending, p.load = none) →
    s.targetTrap g (!sl.priv) (target sl.pc o.x) = none →
    let plan := sl.callPlan g.lregs { ret := sl.pc + 4, kS := o.kS.toNat, kV := o.kV.toNat }
    let n := plan.spill.length
    let check := fun (s : State) => s.checkAttic g sl .store sl.spillp.toNat n
    (0 < n → sl.spillLimit < sl.spillp.toNat + n → exec (.call o) s = .next (s.trapped g ⟨0x0D, sl.spillp⟩)) ∧
    (0 < n → sl.spillp.toNat + n ≤ sl.spillLimit → (check s).1 = none →
      let s1 := (check s).2.2
      let p := (check s1).2.2.spillBytes g sl (check s1).2.1 plan.spill
      p.1 = { sl with sig := p.1.sig, heldAt := p.1.heldAt } ∧
      exec (.call o) s = .next { p.2 with
        cur := some { g with slices := [{ p.1 with
          link := plan.links, spillp := sl.spillp + BitVec.ofNat 64 n, spilled := sl.spilled + plan.groups
          wb := (sl.wb + 2 * o.kS.toNat) % 56, lb := (sl.lb + 4 * o.kV.toNat) % g.lregs, pc := target sl.pc o.x
          between := true, justRegion := false, unfin := none }] }
        free := p.2.free + 1, performed := true })) ∧
  (∀ o s g sl l bs bad s1, Runs (.ret o) s g → g.slices = [sl] → (∀ p ∈ sl.pending, p.load = none) → s.retPlan g sl = (.refill l bs bad, s1) → ∃ sl',
    exec (.ret o) s = .next { s1 with cur := some { g with slices := [sl'] }, free := s1.free + 1, performed := true } ∧
      sl'.pc = l.ret ∧ sl'.link = [] ∧ sl'.spilled = sl.spilled - 1 ∧ sl'.spillp = sl.spillp - BitVec.ofNat 64 (recordBytes l) ∧
      sl'.wb = (sl.wb + 56 - 2 * l.kS) % 56 ∧ sl'.lb = (sl.lb + g.lregs - 4 * l.kV % g.lregs) % g.lregs ∧ sl'.between = true ∧
      sl'.em = sl.em ∧ sl'.masks = sl.masks ∧
      (∀ i < 2 * l.kS, i < 56 → (Map.get {} sl'.scal (8 + (sl'.wb + i) % 56)).v = BitVec.ofNat 64 (natOfBytes ((bs.drop (8 * i)).take 8)) ∧
        (Map.get {} sl'.scal (8 + (sl'.wb + i) % 56)).tag =
          ((natOfBytes ((bs.drop (recordBytes l - 16)).take 8)).testBit i || bad.getD i false || bad.getD ((recordBytes l - 16) / 8) false)) ∧
      (∀ j < 4 * l.kV, ∀ k < 4, 4 * l.kV ≤ g.lregs →
        (Map.get {} sl'.lane (4 * ((sl'.lb + j) % g.lregs) + k)).v = BitVec.ofNat 32 (natOfBytes ((bs.drop (16 * l.kS + 16 * j + 4 * k)).take 4))) ∧
      ∀ k < 8, Map.get {} sl'.scal k = Map.get {} sl.scal k)

/-- 03, 05, 06: calls and returns within the windows, and over the Attic; nothing of a spill is written before its ATTIC_OVERFLOW, by the
model's choice (log 32). -/
def Obligations.CallsAndReturnsSlideTheWindows : Prop := Claim.callsAndReturnsInTheWindows ∧ Claim.atticWordByWord ∧ Claim.spillsAndRefills

/-- 05 R109, 07 R184: REGION takes its address, its mask and the snapshot of EM, the masks and the reconvergence stack, the place that a twin's
notes have reached with them, and clears LIVEV and a hold-off; LIVEV directly after it takes its 64-bit mask. -/
def Obligations.RegionsOpenWithTheirLiveIns : Prop :=
  (∀ o s g, Runs (.region o) s g → Completes (.region o) s g fun sl sl' =>
    sl' = { sl with
      noteMark := sl.notePos, regionpc := sl.pc, lives := o.x, livev := 0, snap := { em := sl.em, masks := sl.masks, recon := sl.recon }
      between := false, justRegion := true, holdoff := false, unfin := none, pc := sl.pc + 4 }) ∧
  (∀ o s g, Runs (.livev o) s g → Completes (.livev o) s g fun sl sl' =>
    sl' = { sl with livev := o.imm ++ o.parcel1, pc := sl.pc + 12, justRegion := false, unfin := none })

/-! ## CSRs, segments, the end of a strand (05 R118 to R120; 06 R146 to R148) -/

/-- The value of a CSR (05 R118): the registers of the slice, and what it reads of its gang, quadrant, partition and the clock. -/
def Sys2Proof.Claim.csrValue (s : State) (g : Gang) (sl : Slice) (n : Nat) : Option Word64 :=
  let bit := fun (b : Bool) (k : Nat) => if b then 2 ^ k else 0
  match n with
  | 0x000 => some (BitVec.ofNat 64 (bit sl.ppriv 2 + bit sl.priv 1 + bit sl.regangfail 0))
  | 0x001 => some (BitVec.ofNat 64 (bit sl.nantrap 1 + bit sl.ftz 0))
  | 0x002 => some (sl.lfsr.a0.setWidth 64)
  | 0x003 => some (BitVec.ofNat 64 (g.slices.map fun x => x.em.toNat * 2 ^ (4 * x.pos)).sum)
  | 0x004 => some (BitVec.ofNat 64 (bit (s.quad g.quadNo).rr 0))
  | 0x005 => some (s.chkiv g.ctx)
  | 0x008 => some sl.tvec
  | 0x009 => some sl.tcause
  | 0x00A => some sl.tval
  | 0x00B => some sl.tepc
  | 0x010 => some sl.spillp
  | 0x011 => some (BitVec.ofNat 64 (sl.link.length + 65536 * min sl.spilled 65535))
  | 0x012 => some (BitVec.ofNat 64 sl.recon.length)
  | 0x013 => some (BitVec.ofNat 64 g.lregs)
  | 0x014 => some sl.regionpc
  | 0x015 => some (sl.lives.setWidth 64)
  | 0x016 => some (BitVec.ofNat 64 (sl.livev.toNat % 2 ^ 32))
  | 0x017 => some (BitVec.ofNat 64 (sl.livev.toNat / 2 ^ 32))
  | 0x018 => some (BitVec.ofNat 64 sl.index)
  | 0x019 => some (BitVec.ofNat 64 (sl.pos + 256 * (g.slices.map fun x => 2 ^ x.pos).sum))
  | 0x01A => if g.crew.isNone then some (BitVec.ofNat 64 (g.core + 256 * g.quad + 1024 * (g.core / 12) + 16384 * (g.core / 48))) else none
  | 0x01B => some (BitVec.ofNat 64 ((s.part g.part).devid.toNat + 4096 * g.part))
  | 0x01C => some (BitVec.ofNat 64 s.cycle)
  | 0x020 => some sl.scrb
  | 0x021 => some sl.scrl
  | 0x022 => some sl.stkb
  | 0x023 => some sl.stkl
  | 0x024 => some sl.glbb
  | 0x025 => some sl.glbl
  | _ => none

/-- 05 R118, 06 R147: CSRR writes the value of the CSR that bits 11:0 number, tag clear, in every slice of a gang that is in no crew, where
COREID names the gang's own place; SCRB to GLBL are the segment registers and CYCLE the clock. That LINKD stops at 65,535 spilled groups is
the model's choice (log 53, DEDUCED). -/
def Sys2Proof.Claim.csrReads : Prop :=
  ∀ o s g, Runs (.csrr o) s g → g.crew = none → (∀ sl ∈ g.slices, (csrValue s g sl (o.imm.toNat % 4096)).isSome) →
    Completes (.csrr o) s g fun sl sl' =>
      SetsScalar o.sd ⟨(csrValue s g sl (o.imm.toNat % 4096)).getD 0, false⟩ sl sl'

/-- The state an LFSR of lane index `l` takes from a seed (04 R79). -/
def Sys2Proof.Claim.seed (v : Word64) (l : Nat) : BitVec 16 :=
  if (v.setWidth 16 ^^^ BitVec.ofNat 16 (0x0101 * l) : BitVec 16) = 0 then 1 else v.setWidth 16 ^^^ BitVec.ofNat 16 (0x0101 * l)

/-- What CSRW leaves in a slice (05 R118, R119; 04 R79; 05 R99): PPRIV in privileged mode alone, a 0 clearing REGANGFAIL, the rest of
STATUS ignoring the write; FTZ and NANTRAP; the seeds; EM without exited lanes; the trap registers. -/
def Sys2Proof.Claim.csrWritten (sl : Slice) (n : Nat) (v : Word64) : Slice :=
  match n with
  | 0x000 => { sl with ppriv := if sl.priv then v.getLsbD 2 else sl.ppriv, regangfail := sl.regangfail && v.getLsbD 0 }
  | 0x001 => { sl with nantrap := v.getLsbD 1, ftz := v.getLsbD 0 }
  | 0x002 => { sl with lfsr := ⟨seed v (4 * sl.pos), seed v (4 * sl.pos + 1), seed v (4 * sl.pos + 2), seed v (4 * sl.pos + 3)⟩ }
  | 0x003 => { sl with em := BitVec.ofNat 4 (v.toNat / 2 ^ (4 * sl.pos)) &&& ~~~sl.exited }
  | 0x008 => { sl with tvec := v }
  | 0x009 => { sl with tcause := v }
  | 0x00A => { sl with tval := v }
  | 0x00B => { sl with tepc := v }
  | _ => sl

/-- 05 R118, R119, 06 R121, R147: CSRW gives SD the old value and the CSR the new one and ends the region, the slices in position order, so that a
slice's old value is the one that the lower slices have left; a tagged source raises POISON_USE with its field code. ISSUEPOL's bit 0
goes to the quadrant. -/
def Sys2Proof.Claim.csrWrites : Prop :=
  (∀ o s g, Runs (.csrw o) s g →
    let x := fun (sl : Slice) => sl.readS (s.rctx g) o.sa
    let n := o.imm.toNat % 4096
    let written := fun (sl : Slice) => csrWritten sl n (x sl).v
    ((∀ sl ∈ g.slices, (x sl).tag = false) → n ≠ 4 → ∃ g',
      exec (.csrw o) s = .next { s with cur := some g', free := s.free + 1, performed := true } ∧
      g' = { g with slices := g'.slices } ∧ g'.slices.length = g.slices.length ∧
      ∀ (j : Nat) (sl sl' : Slice), g.slices[j]? = some sl → g'.slices[j]? = some sl' →
        let old := s.csr { g with slices := (g.slices.take j).map written ++ g.slices.drop j } sl n
        (∀ k, Map.get {} sl'.scal k = if o.sd ≠ 0 ∧ k = sl.scalKey o.sd then ⟨old, false⟩ else Map.get {} sl.scal k) ∧
        sl' = { written sl with scal := sl'.scal, pending := sl'.pending, pc := sl.pc + 4, between := true, justRegion := false, unfin := none }) ∧
    (∀ front sl back, g.slices = front ++ sl :: back → (∀ y ∈ front, (x y).tag = false) → (x sl).tag = true →
      exec (.csrw o) s = .next (s.trapped g ⟨0x09, o.sa.setWidth 64⟩))) ∧
  (∀ o s g sl, Runs (.csrw o) s g → o.imm.toNat % 4096 = 4 → g.crew = none → g.slices = [sl] → (sl.readS (s.rctx g) o.sa).tag = false →
    ∃ t, exec (.csrw o) s = .next t ∧ (t.quad g.quadNo).rr = (sl.readS (s.rctx g) o.sa).v.getLsbD 0 ∧ t.mem = s.mem ∧
      ∃ g' sl', t.cur = some g' ∧ g' = { g with slices := [sl'] } ∧ sl'.pc = sl.pc + 4 ∧ sl'.between = true ∧
        ∀ k, Map.get {} sl'.scal k =
          if o.sd ≠ 0 ∧ k = sl.scalKey o.sd then ⟨if (s.quad g.quadNo).rr then 1 else 0, false⟩ else Map.get {} sl.scal k)

/-- 05 R118, R119; 06 R147: the CSR words; LINKD's limit is the model's choice (log 53). -/
def Obligations.CsrReadsAndWrites : Prop := Claim.csrReads ∧ Claim.csrWrites

/-- What SEGW leaves in a slice: SCRB, SCRL, STKB, STKL, GLBB, GLBL by the low three bits (06 R148). -/
def Sys2Proof.Claim.segWritten (sl : Slice) (k : Nat) (v : Word64) : Slice :=
  match k with
  | 0 => { sl with scrb := v }
  | 1 => { sl with scrl := v }
  | 2 => { sl with stkb := v }
  | 3 => { sl with stkl := v }
  | 4 => { sl with glbb := v }
  | 5 => { sl with glbl := v }
  | _ => sl

/-- 06 R148, 11 R249, 21 R432, for a gang that is in no crew: SEGW writes the segment register that it names and ends the region; TLBI drops
the context's cached translations of the addresses in SA, or all of them, at once and the gang parks until the units confirm; CHKERR reads
CHKIV into its register and clears it. -/
def Obligations.SegmentsTlbAndChkiv : Prop :=
  (∀ o s g, Runs (.segw o) s g → g.crew = none → (∀ sl ∈ g.slices, (sl.readS (s.rctx g) o.sa).tag = false) →
    Completes (.segw o) s g fun sl sl' =>
      sl' = { segWritten sl (o.fn.toNat % 8) (sl.readS (s.rctx g) o.sa).v with
        pc := sl.pc + 4, between := true, justRegion := false, unfin := none }) ∧
  (∀ o s g, Runs (.tlbi o) s g → g.crew = none → o.fn.getLsbD 0 = true → g.slices ≠ [] → ∃ g',
    exec (.tlbi o) s = .next { s with
      tlb := s.tlb.filter fun e => e.ctx != g.ctx, cur := some { g' with park := .tlbi }, free := s.free + 1, performed := true } ∧ Each Passes g g') ∧
  (∀ o s g sl, Runs (.tlbi o) s g → g.crew = none → o.fn.getLsbD 0 = false → g.slices = [sl] →
    let a := sl.readS (s.rctx g) o.sa
    a.tag = false → a.v.toNat < 2 ^ 56 → ∃ g',
      exec (.tlbi o) s = .next { s with
        tlb := s.tlb.filter fun e => !(e.ctx == g.ctx && decide (e.base ≤ a.v.toNat) && decide (a.v.toNat < e.base + e.size))
        cur := some { g' with park := .tlbi }, free := s.free + 1, performed := true } ∧ Each Passes g g') ∧
  (∀ o s g sl c, Runs (.chkerr o) s g → g.slices = [sl] → Map.find? s.ctxs g.ctx = some c →
    let sd : SReg := BitVec.ofNat 5 o.imm.toNat
    ∃ g' sl', exec (.chkerr o) s = .next { s with
      ctxs := s.ctxs.put g.ctx { c with chkiv := 0 }, cur := some g', free := s.free + 1, performed := true } ∧
      g' = { g with slices := [sl'] } ∧ SetsScalar sd ⟨c.chkiv, false⟩ sl sl')

/-! ## Scalar memory (06 R130 to R134; 09; 11) -/

/-- Every slice of the word still has its part to do, and each part has passed its checks with an access. -/
def Sys2Proof.Claim.AllPass (g : Gang) (cs : List (Slice × Option Check)) : Prop :=
  (∀ sl ∈ g.slices, sl.scalarDue = true) ∧ ∀ p ∈ cs, ∃ a, p.2 = some (.ok a)

/-- The gang is in no twin pair (21 R439). -/
def Sys2Proof.Claim.Single (s : State) (g : Gang) : Prop := s.twin g = false ∧ s.isShadow g = false

/-- The gang after a word of which every slice has done its part: past the word, between regions where the word ends its region. -/
def Sys2Proof.Claim.past (g : Gang) (bytes : Nat) (ends : Bool) (sls : List Slice) : Gang :=
  { g with slices := sls.map fun sl =>
      { sl with pc := sl.pc + BitVec.ofNat 64 bytes, between := sl.between || ends, justRegion := false, unfin := none } }

/-- A scalar memory word whose slices all pass completes: the gang's deferred loads that must come before it are performed, then in position
order each slice does its part where its check found it to lie; a store or an atomic at home, now or before a park on a fault, ends
the region and makes a recoverable interval unrecoverable (06 R130; 05 R110; 09 R196, R202; 21 R436). -/
def Sys2Proof.Claim.DoesItsParts (i : Instr) (s : State) (g : Gang) (store writes ends : Bool) (check : State → Slice → Check × State)
    (part : State → Slice → Slice → Access → Slice × State) : Prop :=
  ∀ cs s1, s.checkSlices g check = (cs, s1) → AllPass g cs → Single s1 g →
    let home := store && (homeStore cs || g.slices.any Slice.homeDone)
    let q := (if home then s1.irrevocable g else s1).orderLoads g (accessesOf cs) writes
    let r := q.2.performSlices cs q.1.slices home part
    exec i s = .next { r.2 with cur := some (past g 4 (ends || home) r.1), free := r.2.free + 1, performed := true }

/-- The slices of a gang read none of some registers with its tag set. -/
def Sys2Proof.Claim.Untagged (s : State) (g : Gang) (rs : List SReg) : Prop :=
  ∀ sl ∈ g.slices, ∀ r ∈ rs, (sl.readS (s.rctx g) r).tag = false

/-- The address of LD and ST, and of LDX and STX (06 R130, R132). -/
def Sys2Proof.Claim.plus {n : Nat} (a : Word64) (off : BitVec n) : Word64 := BitVec.ofInt 64 (a.toInt + off.toInt)

/-- A space-1 access of a physical address that holds nothing of the partition's memory (11 R243, 22 R460). -/
def Sys2Proof.Claim.atNothing (s : State) (part space : Nat) (a : Access) : Bool :=
  space == 1 && match a.loc with
    | .home pa => !s.owned part pa a.size
    | _ => false

/-- 06 R130 to R132: LD and ST at SA plus an offset of 11 bits, AMO at SA, LDX and STX at SA plus an offset of 8 bits in their space, of
1, 2, 4 or 8 bytes, complete once every slice's part passes its checks, the slices in position order. A load's part loads into SD, a
store's part stores the low bytes of the register in the sd field, an atomic's part leaves the old value in SD; AMO ends the region. At a
physical address where the partition has no memory LDX loads a free value and STX stores nothing, by the model's choice (log 14). -/
def Obligations.ScalarMemoryWordsDoTheirParts : Prop :=
  (∀ o s g, Runs (.ld o) s g → Untagged s g [o.sa] → DoesItsParts (.ld o) s g false false (endsRegion o.sd)
    (fun s' sl => s'.resolve g sl .load (plus (sl.readS (s.rctx g) o.sa).v o.off) (2 ^ o.size.toNat))
    (fun s' _ acc a => s'.loadScalar g (s.rctx g) acc a o.sd o.sx)) ∧
  (∀ o s g, Runs (.st o) s g → Untagged s g [o.sd, o.sa] → DoesItsParts (.st o) s g true true false
    (fun s' sl => s'.resolve g sl .store (plus (sl.readS (s.rctx g) o.sa).v o.off) (2 ^ o.size.toNat))
    (fun s' sl acc a => s'.storePart g acc a (toBytes (sl.readS (s.rctx g) o.sd).v a.size))) ∧
  (∀ o s g, Runs (.amo o) s g → Untagged s g (if o.fn.toNat % 16 = 9 then [o.sd, o.sa, o.sb] else [o.sa, o.sb]) →
    DoesItsParts (.amo o) s g true true true
      (fun s' sl => s'.resolve g sl .atomic (sl.readS (s.rctx g) o.sa).v (2 ^ (o.fn.toNat / 16 % 4)))
      (fun s' sl acc a =>
        let r := s'.atomicAt g acc a (o.fn.toNat % 16) (sl.readS (s.rctx g) o.sb).v (sl.readS (s.rctx g) o.sd).v
        (r.2.2.1.writeS (s.rctx g) (.variable (s'.loadFigure g.core a.loc a.size)) o.sd ⟨extend true r.1, r.2.1⟩, r.2.2.2))) ∧
  (∀ o s g, Runs (.ldx o) s g → Untagged s g [o.sa] →
    DoesItsParts (.ldx o) s g false false (endsRegion o.sd)
      (fun s' sl => s'.resolveX g sl .load o.space.toNat (plus (sl.readS (s.rctx g) o.sa).v o.off) (2 ^ o.size.toNat))
      (fun s' _ acc a =>
        if atNothing s' g.part o.space.toNat a then
          (acc.loadHole (s.rctx g) (.variable (s'.loadFigure g.core a.loc a.size)) o.sd o.sx a.size, s')
        else s'.loadScalar g (s.rctx g) acc a o.sd o.sx)) ∧
  (∀ o s g, Runs (.stx o) s g → Untagged s g [o.sd, o.sa] →
    DoesItsParts (.stx o) s g (decide (o.space.toNat < 4)) true false
      (fun s' sl => s'.resolveX g sl .store o.space.toNat (plus (sl.readS (s.rctx g) o.sa).v o.off) (2 ^ o.size.toNat))
      (fun s' sl acc a =>
        let bs := toBytes (sl.readS (s.rctx g) o.sd).v a.size
        if atNothing s' g.part o.space.toNat a then (acc, s')
        else if o.space.toNat = 4 then
          (acc, (s'.orderPosted g a.loc a.size).writeLarder g.part (plus (sl.readS (s.rctx g) o.sa).v o.off).toNat bs)
        else s'.storePart g acc a bs))

/-- No store of the gang is posted, and the word at hand is not issued late (09 R199, R205). -/
def Sys2Proof.Claim.Quiet (s : State) (g : Gang) : Prop := (∀ e ∈ s.posted, e.gid ≠ g.gid) ∧ s.late = false

/-- 06 R130: the part of a load reads its bytes where they lie, extends them by sign or by zeros into SD, its tag set by a poisoned unit or
a page that reads as poisoned; no other register changes, and no byte at home. The part of a store writes its bytes where they lie: at
home, in the core's scratchpad or in the core's L1, the slice staying as it was; a store at home that is issued late changes no byte yet. -/
def Sys2Proof.Claim.onePartOfALoadOrStore : Prop :=
  (∀ (s : State) (g : Gang) (c : RCtx) (sl : Slice) (a : Access) (d : SReg) (sx : Bool), Quiet s g →
    let r := s.readAt g.core a.loc a.size
    let p := s.loadScalar g c sl a d sx
    let n := natOfBytes r.1
    let v : Word64 := if sx then (BitVec.ofNat (8 * r.1.length) n).signExtend 64 else BitVec.ofNat 64 n
    p.2 = r.2.2 ∧ p.2.mem = s.mem ∧ p.2.bad = s.bad ∧ p.2.gangs = s.gangs ∧
      (∀ k, Map.get {} p.1.scal k = if d ≠ 0 ∧ k = sl.scalKey d then ⟨v, r.2.1 || a.por⟩ else Map.get {} sl.scal k) ∧
      KeepsPending sl p.1 ∧ p.1 = { sl with scal := p.1.scal, pending := p.1.pending }) ∧
  (∀ (s : State) (g : Gang) (sl : Slice) (a : Access) (bs : List Byte), Quiet s g → Single s g →
    s.storePart g sl a bs = (sl, match a.loc with
      | .home pa => s.writeHome pa bs
      | .l1 pa _ => s.writeL1 g.core pa bs false
      | .scratch off => s.writeScratchOf g.crew g.core off bs)) ∧
  (∀ (s : State) (g : Gang) (sl : Slice) (a : Access) (bs : List Byte) (pa : Nat), (∀ e ∈ s.posted, e.gid ≠ g.gid) →
    s.late = true → Single s g → a.loc = .home pa →
    s.storePart g sl a bs = (sl, { s with posted := s.posted ++ [{ gid := g.gid, addr := pa, data := bs }] }))

/-- The bytes at home, in a scratchpad, and as a core's L1 gives them. -/
def Sys2Proof.Claim.homeBytes (s : State) (pa n : Nat) : List Byte := (List.range n).map fun i => Map.get 0 s.mem (pa + i)
def Sys2Proof.Claim.scratchBytes (s : State) (core off n : Nat) : List Byte :=
  (List.range n).map fun i => Map.get 0 (s.core core).scratch (off + i)

/-- 11 R237 to R240, 04 R71: bytes read back as they were stored. At home and in scratchpad a write changes the bytes of its range and no
other; a store through an L1 with room, of a piece of one line, changes no byte at home, and a load of that piece on the same core gives the
bytes stored, dirty bytes standing before what a fill brings; an L1 without room passes the bytes of a store home, by the model's choice
(log 56). -/
def Sys2Proof.Claim.storedBytesReadBack : Prop :=
  (∀ (s : State) (pa : Nat) (bs : List Byte) (b : Nat),
    Map.get 0 (s.writeHome pa bs).mem b = if pa ≤ b ∧ b < pa + bs.length then bs.getD (b - pa) 0 else Map.get 0 s.mem b) ∧
  (∀ (s : State) (core off : Nat) (bs : List Byte) (k b : Nat),
    Map.get 0 ((s.writeScratch core off bs).core k).scratch b =
      if k = core ∧ off ≤ b ∧ b < off + bs.length then bs.getD (b - off) 0 else Map.get 0 (s.core k).scratch b) ∧
  (∀ (s : State) (core pa : Nat) (bs : List Byte) (ro held unit : Bool), 0 < bs.length → pa % 128 + bs.length ≤ 128 →
    (s.l1Room core (pa / 128) = true → (s.writeL1 core pa bs held).mem = s.mem ∧ (s.writeL1 core pa bs held).l2 = s.l2 ∧
      ((s.writeL1 core pa bs held).readL1 core pa bs.length ro unit).1 = bs) ∧
    (s.l1Room core (pa / 128) = false → ∀ b, Map.get 0 (s.writeL1 core pa bs false).mem b =
      if pa ≤ b ∧ b < pa + bs.length then bs.getD (b - pa) 0 else Map.get 0 s.mem b))

/-- 06: one part of a scalar load or store, and that what is stored is what is read. -/
def Obligations.OnePartOfAScalarMemoryWord : Prop := Claim.onePartOfALoadOrStore ∧ Claim.storedBytesReadBack

/-- The value an atomic leaves: ADD, AND, OR, XOR, MIN, MAX, MINN, MAXN, SWAP, CAS as 0 to 9 on n bits (06 R131). -/
def Sys2Proof.Claim.atomicValue (n op : Nat) (old x cmp : BitVec n) : BitVec n :=
  match op with
  | 0 => BitVec.ofNat n (old.toNat + x.toNat)
  | 1 => old &&& x
  | 2 => old ||| x
  | 3 => old ^^^ x
  | 4 => BitVec.ofInt n (min old.toInt x.toInt)
  | 5 => BitVec.ofInt n (max old.toInt x.toInt)
  | 6 => BitVec.ofNat n (min old.toNat x.toNat)
  | 7 => BitVec.ofNat n (max old.toNat x.toNat)
  | 8 => x
  | _ => if old = cmp then x else old

/-- 06 R131: an atomic at home answers the bytes that stood there once the core's own copies had gone home, and leaves there the value
that its operation makes of them on 8 × size bits, little-endian; every other byte at home is as the write-back left it. -/
def Obligations.AtomicsAtHome : Prop :=
  ∀ (s : State) (g : Gang) (sl : Slice) (a : Access) (pa op : Nat) (x cmp : Word64), op < 10 → a.loc = .home pa → Quiet s g → Single s g →
    let h := s.prepareAtomic g.core pa a.size
    let n := 8 * a.size
    let old := homeBytes h pa a.size
    let r := s.atomicAt g sl a op x cmp
    r.1 = old ∧ r.2.1 = (h.poisonedAt pa a.size || a.por) ∧ r.2.2.1 = sl ∧
      homeBytes r.2.2.2 pa a.size = toBytes (atomicValue n op (BitVec.ofNat n (natOfBytes old)) (x.setWidth n) (cmp.setWidth n)) a.size ∧
      ∀ b, b < pa ∨ pa + a.size ≤ b → Map.get 0 r.2.2.2.mem b = Map.get 0 h.mem b

/-- The ranges of a range word, by slice: virtual address and length of SB bytes at SA, none for a scratchpad range or no byte. -/
def Sys2Proof.Claim.ranges (s : State) (g : Gang) (o : FormNR) : List (Nat × Nat) :=
  g.slices.filterMap fun sl => rangePlace sl.segs (sl.readS (s.rctx g) o.sa).v (sl.readS (s.rctx g) o.sb).v

/-- What a range word does: the ranges of its slices are walked in position order, the gang parks until the walk is over, and no register
changes; a walk that drops code has the gang's posted stores to its range performed first (09 R210), and is noted with a number of its own, for the FETCHB that follows (06 R133, R134; 10 R218). -/
def Sys2Proof.Claim.Walks (i : Instr) (k : WalkKind) (o : FormNR) : Prop :=
  ∀ s g, Runs i s g → Untagged s g [o.sa, o.sb] →
    (∀ sl ∈ g.slices, rangeTrap sl.segs (sl.readS (s.rctx g) o.sa).v (sl.readS (s.rctx g) o.sb).v = none) → ∃ g',
      let t := (ranges s g o).foldl (fun s' r => (if k = .icinv then s'.landStores g r.1 r.2 else s').walkVirtual g k r.1 r.2) s
      let n := t.nextId + if k = .icinv then 1 else 0
      exec i s = .next { t with
        cur := some { g' with
          park := .walk, icinvs := g.icinvs ++ if k = .icinv then (ranges s g o).map fun r => (r.1, r.2, n) else [] }
        nextId := n, free := t.free + 1, performed := true } ∧ Each Passes g g'

/-- 06 R133, R134: CWB writes back the dirty bytes of the range, with INV invalidating too, CINV invalidates the words without a dirty byte,
ICINV drops code; the gang parks until the walk is over, and no register changes. -/
def Sys2Proof.Claim.rangeWordsWalk : Prop :=
  (∀ o, Walks (.cwb o) (.cwb (o.fn.getLsbD 0)) o) ∧ (∀ o, Walks (.cinv o) .cinv o) ∧ (∀ o, Walks (.icinv o) .icinv o)

/-- 06 R133; 10 R219: what a walk does to one piece of a line that the L1 holds. CWB writes the piece's dirty bytes that are not held home, and no other
byte, marks them clean and with INV makes its words invalid; CINV makes the words invalid that hold no dirty byte and leaves the dirty
bytes; ICINV takes the line out of the instruction cache and leaves no word of it in the slice's remote lines. -/
def Sys2Proof.Claim.walksReachTheCaches : Prop :=
  ∀ (s : State) (core pa n : Nat) (l : Line), 0 < n → pa % 128 + n ≤ 128 → Map.find? (s.core core).l1 (pa / 128) = some l →
    let key := pa / 128
    let within := fun (i : Nat) => decide (pa % 128 ≤ i) && decide (i < pa % 128 + n)
    let goes := fun (i : Nat) => within i && l.dirty.getLsbD i && !l.held.getLsbD i
    let touched := fun (w : Nat) => decide (pa % 128 < 4 * w + 4) && decide (4 * w < pa % 128 + n)
    (∀ inv,
      let t := s.walkRange core (.cwb inv) pa n
      (∀ a, Map.get 0 t.mem a = if a / 128 = key ∧ goes (a % 128) = true then Map.get 0 l.data (a % 128) else Map.get 0 s.mem a) ∧
      ∃ l', Map.find? (t.core core).l1 key = some l' ∧ l'.data = l.data ∧ (∀ i < 128, l'.dirty.getLsbD i = (l.dirty.getLsbD i && !goes i)) ∧
        ∀ w < 32, l'.wvalid.getLsbD w = (l.wvalid.getLsbD w && !(inv && touched w))) ∧
    (let t := s.walkRange core .cinv pa n
     t.mem = s.mem ∧ ∃ l', Map.find? (t.core core).l1 key = some l' ∧ l' = { l with wvalid := l'.wvalid } ∧
        ∀ w < 32, l'.wvalid.getLsbD w = (l.wvalid.getLsbD w && !(touched w && (List.range 4).all fun i => !l.dirty.getLsbD (4 * w + i)))) ∧
    (let t := s.walkRange core .icinv pa n
     t.mem = s.mem ∧ (t.core core).l1 = (s.core core).l1 ∧ (∀ k, Map.find? (t.core core).code k = if k = key then none else Map.find? (s.core core).code k) ∧
        ∀ a, a / 128 = key → (t.slice (groupOf core)).hit a = false)

/-- 06, 10: the range words walk, and what a walk does. -/
def Obligations.RangeWordsWalkTheirRanges : Prop := Claim.rangeWordsWalk ∧ Claim.walksReachTheCaches

/-! ## Lane words (07 R149 to R167) -/

namespace Sys2Proof.Claim

/-- What a word does in one active lane: the registers that it writes, in order, the bit of a mask register, and how often the lane's LFSR
steps. -/
structure LaneEffect where
  regs : List (VReg × LVal) := []
  mask : Option (Nat × Bool) := none
  draws : Nat := 0

/-- An LFSR after `n` steps (04 R79). -/
def stepped : Nat → BitVec 16 → BitVec 16
  | 0, x => x
  | n + 1, x => stepped n (lfsrStep x)

/-- A slice after a wide word that acts in the lanes of `a`: an active lane of a lane register takes the last value written to it, a mask
register other than m0 its bit, an LFSR its steps; every other lane, mask bit and LFSR, every scalar register, every CSR and every other
field stays; the pc moves past the word. -/
def LanesDone (lregs : Nat) (a : BitVec 4) (f : Nat → LaneEffect) (sl sl' : Slice) : Prop :=
  (∀ r k, k < 4 → Map.get {} sl'.lane (4 * r + k) =
    if a.getLsbD k then
      match (f k).regs.reverse.find? fun w => sl.laneRing lregs w.1 == r with
      | some w => w.2
      | none => Map.get {} sl.lane (4 * r + k)
    else Map.get {} sl.lane (4 * r + k)) ∧
  (∀ m k, k < 4 → (Map.get 0 sl'.masks m).getLsbD k =
    match (f k).mask with
    | some (m', b) => if a.getLsbD k ∧ m ≠ 0 ∧ m' = m then b else (Map.get 0 sl.masks m).getLsbD k
    | none => (Map.get 0 sl.masks m).getLsbD k) ∧
  (∀ k, k < 4 → sl'.lfsrOf k = if a.getLsbD k then stepped (f k).draws (sl.lfsrOf k) else sl.lfsrOf k) ∧
  KeepsPending sl sl' ∧
  sl' = { sl with
    lane := sl'.lane, masks := sl'.masks, lfsr := sl'.lfsr, pending := sl'.pending, pc := sl.pc + 12, justRegion := false, unfin := none }

/-- A lane word completes in every form. -/
def Lane (i : Wide → Instr) (f : Wide → RCtx → Slice → Nat → LaneEffect) : Prop :=
  ∀ o s g, Runs (i o) s g → Completes (i o) s g fun sl sl' =>
    LanesDone g.lregs (sl.act (s.rctx g) o.pm) (f o (s.rctx g) sl) sl sl'

/-- A lane is active in a word. -/
def Active (c : RCtx) (o : Wide) (sl : Slice) (k : Nat) : Prop := k < 4 ∧ (sl.act c o.pm).getLsbD k

/-- A lane word that some lanes' tags stop: it completes with no such lane; else the lowest one raises POISON_USE with its index (07 R151). -/
def LaneP (i : Wide → Instr) (tagged : Wide → RCtx → Slice → Nat → Bool) (f : Wide → RCtx → Slice → Nat → LaneEffect) : Prop :=
  ∀ o s g, Runs (i o) s g →
    let c := s.rctx g
    let bad := fun sl k => Active c o sl k ∧ tagged o c sl k = true
    ((∀ sl ∈ g.slices, ∀ k, ¬ bad sl k) → Completes (i o) s g fun sl sl' => LanesDone g.lregs (sl.act c o.pm) (f o c sl) sl sl') ∧
    (∀ front sl back k, g.slices = front ++ sl :: back → (∀ x ∈ front, ∀ j, ¬ bad x j) → bad sl k → (∀ j, j < k → ¬ bad sl j) →
      exec (i o) s = .next (s.trapped g ⟨0x09, BitVec.ofNat 64 (4 * sl.pos + k)⟩))

/-- A lane word that may produce NaNs: it completes when no lane under NANTRAP does; else NAN_PRODUCED is raised with a mask of those lanes
and nothing is written (04 R76). In a gang whose slices differ in NANTRAP a lane counts by its own slice's, by the model's choice (log 80). -/
def LaneN (i : Wide → Instr) (nan : Wide → RCtx → Slice → Nat → Bool) (f : Wide → RCtx → Slice → Nat → LaneEffect) : Prop :=
  ∀ o s g, Runs (i o) s g →
    let c := s.rctx g
    let bad := fun (sl : Slice) k => sl.nantrap && nan o c sl k
    let mask := (g.slices.map fun sl => ((lanesOf (sl.act c o.pm)).map fun k => if bad sl k then 2 ^ (4 * sl.pos + k) else 0).sum).sum
    (mask = 0 → Completes (i o) s g fun sl sl' => LanesDone g.lregs (sl.act c o.pm) (f o c sl) sl sl') ∧
    (mask ≠ 0 → exec (i o) s = .next (s.trapped g ⟨0x0A, BitVec.ofNat 64 mask⟩))

/-- i64 and n64 lie in register pairs, the even register low (04 R71). -/
def pairT (t : BitVec 4) : Bool := t == 6 || t == 7

/-- A result of type T: one register, or the low and the high register of a pair. -/
def typed (t : BitVec 4) (v : VReg) (x : SVal) : LaneEffect :=
  { regs := if pairT t then [(v, ⟨x.v.setWidth 32, x.tag⟩), (v + 1, ⟨BitVec.ofNat 32 (x.v.toNat / 2 ^ 32), x.tag⟩)]
            else [(v, ⟨x.v.setWidth 32, x.tag⟩)] }

/-- A 32-bit result. -/
def single (v : VReg) (x : Word32) (tag : Bool) : LaneEffect := { regs := [(v, ⟨x, tag⟩)] }

/-- Bits of an integer type, and the integer that a value reads as in it: the even codes are signed (03 R61). -/
def typeBits (t : Nat) : Nat := [32, 32, 16, 16, 8, 8, 64, 64].getD t 64
def typeInt (t : Nat) (x : Word64) : Int :=
  let m := x.toNat % 2 ^ typeBits t
  if t % 2 = 0 ∧ 2 ^ (typeBits t - 1) ≤ m then (m : Int) - 2 ^ typeBits t else m

/-- The least and the greatest value of an integer type, and a value cut to its range. -/
def typeLow (t : Nat) : Int := if t % 2 = 0 then -(2 ^ (typeBits t - 1)) else 0
def typeHigh (t : Nat) : Int := if t % 2 = 0 then 2 ^ (typeBits t - 1) - 1 else 2 ^ typeBits t - 1
def clampT (t : Nat) (x : Int) : Int := max (typeLow t) (min (typeHigh t) x)

/-- What a register holds of an integer of type T: its low bits, extended by its signedness. -/
def typeReg (t : Nat) (x : Int) : Word64 := BitVec.ofInt 64 (typeInt t (BitVec.ofInt 64 x))

/-- A lane word of two sources on n = 32 or 64 bits, by the signedness of T (07 R153). -/
def LaneAlu (i : Wide → Instr) (f : Bool → (n : Nat) → BitVec n → BitVec n → BitVec n) (two : Bool := true) : Prop :=
  Lane i fun o c sl k =>
    let a := sl.readT c o.t o.va k
    let b := sl.readT c o.t o.vb k
    let sign := decide (o.t.toNat % 2 = 0)
    typed o.t o.vd ⟨if pairT o.t then f sign 64 a.v b.v else (f sign 32 (a.v.setWidth 32) (b.v.setWidth 32)).setWidth 64,
      a.tag || (two && b.tag)⟩

/-- The bit of a mask register that a lane reads; m0 is all ones (03 R57). -/
def maskBit (c : RCtx) (o : Wide) (sl : Slice) (k : Nat) : Bool := sl.readM c (o.aux.toNat % 8) k

end Sys2Proof.Claim

/-- 07 R153: VADD to VBREV on 32 or 64 bits, low bits kept, signed or unsigned by T, shifts by zext(b, 6) mod n; VMAD; VABSD exactly. -/
def Obligations.LaneIntegerArithmetic : Prop :=
  LaneAlu .vadd (fun _ n a b => BitVec.ofNat n (a.toNat + b.toNat)) ∧
  LaneAlu .vsub (fun _ n a b => BitVec.ofInt n ((a.toNat : Int) - b.toNat)) ∧
  LaneAlu .vmul (fun _ n a b => BitVec.ofNat n (a.toNat * b.toNat)) ∧
  LaneAlu .vmulh (fun sg n a b => if sg then BitVec.ofInt n (a.toInt * b.toInt / 2 ^ n) else BitVec.ofNat n (a.toNat * b.toNat / 2 ^ n)) ∧
  LaneAlu .vand (fun _ _ a b => a &&& b) ∧ LaneAlu .vor (fun _ _ a b => a ||| b) ∧ LaneAlu .vxor (fun _ _ a b => a ^^^ b) ∧
  LaneAlu .vandn (fun _ _ a b => a &&& ~~~b) ∧
  LaneAlu .vshl (fun _ n a b => BitVec.ofNat n (a.toNat * 2 ^ (b.toNat % 64 % n))) ∧
  LaneAlu .vshr (fun _ n a b => BitVec.ofNat n (a.toNat / 2 ^ (b.toNat % 64 % n))) ∧
  LaneAlu .vsar (fun _ n a b => BitVec.ofInt n (a.toInt / 2 ^ (b.toNat % 64 % n))) ∧
  LaneAlu .vmin (fun sg n a b => if sg then BitVec.ofInt n (min a.toInt b.toInt) else BitVec.ofNat n (min a.toNat b.toNat)) ∧
  LaneAlu .vmax (fun sg n a b => if sg then BitVec.ofInt n (max a.toInt b.toInt) else BitVec.ofNat n (max a.toNat b.toNat)) ∧
  LaneAlu .vclz (fun _ n a _ => BitVec.ofNat n (((List.range n).find? fun k => a.getLsbD (n - 1 - k)).getD n)) false ∧
  LaneAlu .vpopc (fun _ n a _ => BitVec.ofNat n ((List.range n).countP fun k => a.getLsbD k)) false ∧
  LaneAlu .vbrev (fun _ n a _ => BitVec.ofNat n ((List.range n).map fun k => if a.getLsbD k then 2 ^ (n - 1 - k) else 0).sum) false ∧
  Lane .vmad (fun o c sl k =>
    let a := sl.readT c o.t o.va k
    let b := sl.readT c o.t o.vb k
    let d := sl.readT c o.t o.vc k
    typed o.t o.vd ⟨BitVec.ofNat 64 (a.v.toNat * b.v.toNat + d.v.toNat), a.tag || b.tag || d.tag⟩) ∧
  Lane .vabsd (fun o c sl k =>
    let a := sl.readT c o.t o.va k
    let b := sl.readT c o.t o.vb k
    typed o.t o.vd ⟨BitVec.ofNat 64 (typeInt o.t.toNat a.v - typeInt o.t.toNat b.v).natAbs, a.tag || b.tag⟩)

/-- 07 R154, R155: VCMP compares as T and writes the bit of each active lane in the mask register of aux[2:0], a tag stopping it; VSEL takes
va where that register's bit XOR aux[3] is 1 and vb elsewhere, with the tag of the source taken. -/
def Sys2Proof.Claim.laneComparisonAndSelection : Prop :=
  LaneP .vcmp (fun o c sl k => (sl.readT c o.t o.va k).tag || (sl.readT c o.t o.vb k).tag) (fun o c sl k =>
    let a := typeInt o.t.toNat (sl.readT c o.t o.va k).v
    let b := typeInt o.t.toNat (sl.readT c o.t o.vb k).v
    { mask := some (o.aux.toNat % 8, match o.fn.toNat with
        | 0 => decide (a = b)
        | 1 => decide (a ≠ b)
        | 2 => decide (a < b)
        | 3 => decide (a ≤ b)
        | 4 => decide (b < a)
        | _ => decide (b ≤ a)) }) ∧
  Lane .vsel (fun o c sl k => typed o.t o.vd (sl.readT c o.t (if maskBit c o sl k != o.aux.getLsbD 3 then o.va else o.vb) k))

/-- A field of 32 bits at position p and of width w, and another put there; at p ≥ 32 or with w = 0 there is none (07 R159). -/
def Sys2Proof.Claim.field32 (a : Word32) (p w : Nat) : Word32 := BitVec.ofNat 32 (a.toNat / 2 ^ p % 2 ^ min w (32 - p))
def Sys2Proof.Claim.put32 (d a : Word32) (p w : Nat) : Word32 :=
  BitVec.ofNat 32 (d.toNat - (field32 d p w).toNat * 2 ^ p + a.toNat % 2 ^ min w (32 - p) * 2 ^ p)

/-- 07 R156 to R160: VSAT and VCVTI change widths; VADDC adds with the carry of a mask register and leaves the carry there; VDOT4I sums byte
products onto vc; VBEXT and VBINS take their field from imm32 or from vb; VMOVI moves an immediate or the slice's SS into lanes; VLANE
numbers the lanes. -/
def Obligations.LaneWidthsCarriesFieldsAndMoves : Prop :=
  Lane .vsat (fun o c sl k =>
    let a := sl.readV c o.va k
    let x : Int := if o.fn.getLsbD 0 then a.v.toNat else a.v.toInt
    single o.vd ((typeReg o.t.toNat (clampT o.t.toNat x)).setWidth 32) a.tag) ∧
  Lane .vcvti (fun o c sl k =>
    let src := o.fn.toNat % 16
    let a := sl.readT c (BitVec.ofNat 4 src) o.va k
    let x := typeInt src a.v
    typed o.t o.vd ⟨typeReg o.t.toNat (if o.fn.getLsbD 4 then clampT o.t.toNat x else x), a.tag⟩) ∧
  Lane .vaddc (fun o c sl k =>
    let a := sl.readV c o.va k
    let b := sl.readV c o.vb k
    let sum := a.v.toNat + b.v.toNat + if maskBit c o sl k then 1 else 0
    { single o.vd (BitVec.ofNat 32 sum) (a.tag || b.tag) with mask := some (o.aux.toNat % 8, decide (2 ^ 32 ≤ sum)) }) ∧
  Lane .vdot4i (fun o c sl k =>
    let a := sl.readV c o.va k
    let b := sl.readV c o.vb k
    let d := sl.readV c o.vc k
    let x := fun (r : Word32) (j : Nat) => typeInt (if o.t.toNat % 2 = 0 then 4 else 5) (BitVec.ofNat 64 (r.toNat / 256 ^ j))
    let sum := x a.v 0 * x b.v 0 + x a.v 1 * x b.v 1 + x a.v 2 * x b.v 2 + x a.v 3 * x b.v 3
    single o.vd (BitVec.ofInt 32 (d.v.toNat + sum)) (a.tag || b.tag || d.tag)) ∧
  Lane .vbext (fun o c sl k =>
    let a := sl.readV c o.va k
    let b := sl.readV c o.vb k
    let x := if o.fn = 0 then o.imm.toNat else b.v.toNat
    single o.vd (field32 a.v (x % 64) (x / 256 % 64)) (a.tag || (o.fn != 0 && b.tag))) ∧
  Lane .vbins (fun o c sl k =>
    let a := sl.readV c o.va k
    let b := sl.readV c o.vb k
    let d := sl.readV c o.vd k
    let x := if o.fn = 0 then o.imm.toNat else b.v.toNat
    single o.vd (put32 d.v a.v (x % 64) (x / 256 % 64)) (a.tag || d.tag || (o.fn != 0 && b.tag))) ∧
  Lane .vmovi (fun o c sl _ => typed o.t o.vd
    (if o.fn = 0 then ⟨if o.t = 6 then BitVec.ofInt 64 o.imm.toInt else BitVec.ofNat 64 o.imm.toNat, false⟩ else sl.readS c o.ss)) ∧
  Lane .vlane (fun o _ sl k => single o.vd (BitVec.ofInt 32 (4 * sl.pos + k + o.imm.toInt)) false)

/-! ## Lane floats (07 R161 to R167; 04 R74 to R82, R89, R90) -/

namespace Sys2Proof.Claim

/-- Steps of an LFSR for `n` elements rounded: one each under SR (mode 5), none otherwise. -/
def srSteps (o : Wide) (n : Nat) : Nat := if o.rm = 5 then n else 0

/-- The LFSR state that the e-th element of a lane's result rounds with. -/
def drawn (o : Wide) (sl : Slice) (k e : Nat) : Nat := (stepped (srSteps o e) (sl.lfsrOf k)).toNat

/-- A source with its modifier bits: x negates, a takes the magnitude, |x| then sign (03 R55); a subnormal reads as zero under FTZ. -/
def modified (ftz neg mag : Bool) (v : Word32) : FVal :=
  let y := if mag then v.toNat % 2 ^ 31 else v.toNat
  fmtF32.read ftz (if neg then (y + 2 ^ 31) % 2 ^ 32 else y)

/-- A lane word with one f32 result from sources: the result by the rounding mode, the LFSR state and FTZ; a NaN of no NaN source is
produced. -/
def LaneFloat (i : Wide → Instr) (srcs : Wide → RCtx → Slice → Nat → List FVal × Bool) (f : Wide → Bool → Nat → List FVal → Nat) : Prop :=
  let code := fun o c (sl : Slice) k => f o sl.ftz (drawn o sl k 0) (srcs o c sl k).1
  LaneN i (fun o c sl k => (fmtF32.decode (code o c sl k)).isNan && !(srcs o c sl k).1.any FVal.isNan)
    (fun o c sl k => { single o.vd (BitVec.ofNat 32 (code o c sl k)) (srcs o c sl k).2 with draws := srSteps o 1 })

/-- va and vb with the modifiers of aux[1:0] and aux[3:2]. -/
def two (o : Wide) (c : RCtx) (sl : Slice) (k : Nat) : List FVal × Bool :=
  let a := sl.readV c o.va k
  let b := sl.readV c o.vb k
  ([modified sl.ftz (o.aux.getLsbD 0) (o.aux.getLsbD 1) a.v, modified sl.ftz (o.aux.getLsbD 2) (o.aux.getLsbD 3) b.v], a.tag || b.tag)

/-- va alone. -/
def one (o : Wide) (c : RCtx) (sl : Slice) (k : Nat) : List FVal × Bool :=
  let a := sl.readV c o.va k
  ([modified sl.ftz false false a.v], a.tag)

/-- va, vb and vc. -/
def three (o : Wide) (c : RCtx) (sl : Slice) (k : Nat) : List FVal × Bool :=
  let d := sl.readV c o.vc k
  ((two o c sl k).1 ++ [modified sl.ftz false false d.v], (two o c sl k).2 || d.tag)

/-- A binary operation on the sources. -/
def bin (f : FVal → FVal → Nat) : List FVal → Nat
  | [a, b] => f a b
  | _ => 0

end Sys2Proof.Claim

/-- 07 R161: VFADD, VFSUB, VFMUL, VFMA, VFMIN, VFMAX, VFDIV and VFRND compute exactly on the modified sources and round once in RM; under
RDN an exact zero sum is −0. -/
def Obligations.LaneFloatArithmetic : Prop :=
  let r := fun (o : Wide) ftz st x => fmtF32.round o.rm.toNat st false ftz x
  LaneFloat .vfadd two (fun o ftz st => bin fun a b => r o ftz st (a.add (o.rm == 2) b)) ∧
  LaneFloat .vfsub two (fun o ftz st => bin fun a b => r o ftz st (a.add (o.rm == 2) b.neg)) ∧
  LaneFloat .vfmul two (fun o ftz st => bin fun a b => r o ftz st (a.mul b)) ∧
  LaneFloat .vfmin two (fun o ftz st => bin fun a b => r o ftz st (a.min b)) ∧
  LaneFloat .vfmax two (fun o ftz st => bin fun a b => r o ftz st (a.max b)) ∧
  LaneFloat .vfdiv two (fun o ftz st => bin fun a b => divF32 o.rm.toNat st ftz a b) ∧
  LaneFloat .vfma three (fun o ftz st xs => match xs with
    | [a, b, d] => r o ftz st ((a.mul b).add (o.rm == 2) d)
    | _ => 0) ∧
  LaneFloat .vfrnd one (fun o ftz st xs => match xs with
    | [a] => rndF32 o.rm.toNat st ftz a
    | _ => 0)

/-- 07 R162, R163: VFCMP compares after FTZ, no condition but NE and UN holding of a NaN, and traps on a tag; VFCLS gives the class of va's raw
bits, FTZ or not. -/
def Sys2Proof.Claim.laneFloatComparisonAndClass : Prop :=
  LaneP .vfcmp (fun o c sl k => (sl.readV c o.va k).tag || (sl.readV c o.vb k).tag) (fun o c sl k =>
    let a := modified sl.ftz false false (sl.readV c o.va k).v
    let b := modified sl.ftz false false (sl.readV c o.vb k).v
    let un := a.isNan || b.isNan
    { mask := some (o.aux.toNat % 8, match o.fn.toNat with
        | 0 => !un && !a.lt b && !b.lt a
        | 1 => un || a.lt b || b.lt a
        | 2 => !un && a.lt b
        | 3 => !un && !b.lt a
        | 4 => !un && b.lt a
        | 5 => !un && !a.lt b
        | 6 => un
        | _ => !un) }) ∧
  Lane .vfcls (fun o c sl k =>
    let a := sl.readV c o.va k
    let neg := decide (2 ^ 31 ≤ a.v.toNat)
    let e := a.v.toNat / 2 ^ 23 % 256
    let m := a.v.toNat % 2 ^ 23
    let bit := if e = 255 then (if m ≠ 0 then 8 else if neg then 0 else 7)
      else if e ≠ 0 then (if neg then 1 else 6)
      else if m ≠ 0 then (if neg then 2 else 5)
      else (if neg then 3 else 4)
    single o.vd (BitVec.ofNat 32 (2 ^ bit)) a.tag)

/-- 07: the lane words that compare, select and classify, on integers and floats. -/
def Obligations.LaneComparisonsSelectionAndClass : Prop := Claim.laneComparisonAndSelection ∧ Claim.laneFloatComparisonAndClass

namespace Sys2Proof.Claim

/-- The sources, not NaN, for which R90 gives a special function NaN: a number below zero or −∞ for VFRSQ (1), VFSQRT (2) and VFLOG2 (4), an
infinity for VFSIN (5) and VFCOS (6). -/
def noResult (op : Nat) : FVal → Bool
  | .nan => false
  | .inf neg => op == 5 || op == 6 || (neg && (op == 1 || op == 2 || op == 4))
  | .fin neg m _ => neg && m != 0 && (op == 1 || op == 2 || op == 4)

/-- The source of a special function in a lane: va after FTZ. -/
def sfuSource (o : Wide) (c : RCtx) (sl : Slice) (k : Nat) : FVal := modified sl.ftz false false (sl.readV c o.va k).v

/-- A special-function word completes where no lane under NANTRAP has a source without a result; it writes the function's value, flushed
under FTZ. Else it raises NAN_PRODUCED. -/
def Sfu (i : Wide → Instr) (op : Nat) : Prop :=
  LaneN i (fun o c sl k => noResult op (sfuSource o c sl k)) fun o c sl k =>
    let a := sl.readV c o.va k
    let x := special op (sfuSource o c sl k) a.v
    single o.vd (BitVec.ofNat 32 (if sl.ftz then fmtF32.round 0 0 false true (fmtF32.decode x) else x)) a.tag

/-- The f32 codes of zero, infinity and one with a sign, and of 2^n where that is a number of f32. -/
def zero32 (neg : Bool) : Nat := if neg then 0x80000000 else 0
def inf32 (neg : Bool) : Nat := if neg then 0xFF800000 else 0x7F800000
def one32 (neg : Bool) : Nat := if neg then 0xBF800000 else 0x3F800000
def pow32 (n : Int) : Nat := if -126 ≤ n then (n + 127).toNat * 2 ^ 23 else 2 ^ (n + 149).toNat

end Sys2Proof.Claim

/-- 04 R90: the results that the special functions have for NaN, zeros and infinities, and where they have none. -/
def Sys2Proof.Claim.specialAtTheEnds : Prop :=
  let nan := 0x7FC00000
  (∀ op b, special op .nan b = nan) ∧
  (∀ neg e b, special 0 (.fin neg 0 e) b = inf32 neg ∧ special 1 (.fin neg 0 e) b = inf32 neg ∧ special 2 (.fin neg 0 e) b = zero32 neg ∧
    special 3 (.fin neg 0 e) b = one32 false ∧ special 4 (.fin neg 0 e) b = inf32 true ∧ special 5 (.fin neg 0 e) b = zero32 neg ∧
    special 6 (.fin neg 0 e) b = one32 false ∧ special 7 (.fin neg 0 e) b = zero32 neg) ∧
  (∀ neg b, special 0 (.inf neg) b = zero32 neg ∧ special 1 (.inf neg) b = (if neg then nan else zero32 false) ∧
    special 2 (.inf neg) b = (if neg then nan else inf32 false) ∧ special 3 (.inf neg) b = (if neg then zero32 false else inf32 false) ∧
    special 4 (.inf neg) b = (if neg then nan else inf32 false) ∧ special 5 (.inf neg) b = nan ∧ special 6 (.inf neg) b = nan ∧
    special 7 (.inf neg) b = one32 neg) ∧
  (∀ m e b, m ≠ 0 → special 1 (.fin true m e) b = nan ∧ special 2 (.fin true m e) b = nan ∧ special 4 (.fin true m e) b = nan)

/-- 04 R90: the exact results for ±2^j × 2^e and for the sources m × 2^e of f32: reciprocals that are normal, roots of powers of 4, powers of
two with whole exponents, whole logarithms, quarter turns, and where VFEXP2 and VFTANH have reached their ends. -/
def Sys2Proof.Claim.specialExactly : Prop :=
  (∀ neg (j : Nat) (n : Int) b, -126 ≤ n → n ≤ 127 → special 0 (.fin neg (2 ^ j) (-n - j)) b = zero32 neg + pow32 n) ∧
  (∀ (j : Nat) (n : Int) b, -126 ≤ n → n ≤ 127 → special 1 (.fin false (2 ^ j) (-2 * n - j)) b = pow32 n) ∧
  (∀ (j : Nat) (n : Int) b, -126 ≤ n → n ≤ 127 → special 2 (.fin false (2 ^ j) (2 * n - j)) b = pow32 n) ∧
  (∀ (j : Nat) (n : Int) b, n ≠ 0 → -149 ≤ n → n ≤ 127 → j ≤ 149 →
    special 3 (.fin (decide (n < 0)) (n.natAbs * 2 ^ j) (-j)) b = pow32 n) ∧
  (∀ m (e : Int) b, -149 ≤ e → 128 * 2 ^ 149 ≤ m * 2 ^ (e + 149).toNat → special 3 (.fin false m e) b = inf32 false) ∧
  (∀ m (e : Int) b, -149 ≤ e → 150 * 2 ^ 149 < m * 2 ^ (e + 149).toNat → special 3 (.fin true m e) b = zero32 false) ∧
  (∀ (j : Nat) (n : Int) b, special 4 (.fin false (2 ^ j) (n - j)) b = fmtF32.round 0 0 false false (.fin (decide (n < 0)) n.natAbs 0)) ∧
  (∀ neg m (e : Int) q b, m ≠ 0 → -149 ≤ e → 4 * m * 2 ^ (e + 149).toNat = q * 2 ^ 149 →
    let r := if neg then (4 - q % 4) % 4 else q % 4
    special 5 (.fin neg m e) b = (if r = 1 then one32 false else if r = 3 then one32 true else zero32 false) ∧
    special 6 (.fin neg m e) b = (if r = 0 then one32 false else if r = 2 then one32 true else zero32 false)) ∧
  (∀ neg m (e : Int) b, -149 ≤ e → 91 * 2 ^ 149 ≤ 10 * m * 2 ^ (e + 149).toNat → special 7 (.fin neg m e) b = one32 neg)

/-- 04 R89, R90; 07 R161: each of the eight special functions writes its value for va after FTZ, its result flushed under FTZ, and produces the
NaNs of R90 alone; the values that R90 states are those, and elsewhere the value is one of the model's free values (log 7). -/
def Obligations.SpecialFunctions : Prop :=
  Sfu .vfrcp 0 ∧ Sfu .vfrsq 1 ∧ Sfu .vfsqrt 2 ∧ Sfu .vfexp2 3 ∧ Sfu .vflog2 4 ∧ Sfu .vfsin 5 ∧ Sfu .vfcos 6 ∧ Sfu .vftanh 7 ∧
  Claim.specialAtTheEnds ∧ Claim.specialExactly

/-- The codes of some f32 values converted in order, each with its own LFSR state. -/
def Sys2Proof.Claim.codes (o : Wide) (sl : Slice) (k : Nat) (nsat : Bool) (xs : List FVal) : List Nat :=
  xs.zipIdx.map fun x => (fmtOf o.t.toNat).round o.rm.toNat (drawn o sl k x.2) nsat sl.ftz x.1

/-- A lane's conversions produce a NaN: a code is one while no source of the lane is, or in e2m1, which has none, some source is one
(04 R76, R80). -/
def Sys2Proof.Claim.newNan (f : Fmt) (codes : List Nat) (xs : List FVal) : Bool :=
  if f = fmtE2m1 then xs.any FVal.isNan else codes.any (fun code => (f.decode code).isNan) && !xs.any FVal.isNan

/-- Codes of w bits packed from the low end. -/
def Sys2Proof.Claim.packed (w : Nat) (cs : List Nat) : Nat := (cs.zipIdx.map fun c => c.1 * 2 ^ (w * c.2)).sum

/-- The element of a packed register (04 R73). -/
def Sys2Proof.Claim.elem (t : Nat) (ftz : Bool) (x : Word32) (e : Nat) : FVal :=
  (fmtOf t).read ftz (x.toNat / 2 ^ ((fmtOf t).width * e) % 2 ^ (fmtOf t).width)

/-- 07 R164 to R167: VCVTF, VCVTFI and VCVTIF convert one element; VPACK2 and VPACK4 round their sources in element order, the LFSR stepping
once for each under SR; VUNPK widens every element exactly; VFDOT2 and VFDOT4 sum the exact products and vc and round once. -/
def Obligations.LaneConversionsPacksAndDots : Prop :=
  (let x := fun (o : Wide) (c : RCtx) (sl : Slice) (k : Nat) => elem (o.fn.toNat % 16) sl.ftz (sl.readV c o.va k).v (o.fn.toNat / 16 % 8)
   let code := fun (o : Wide) c sl k => (codes o sl k (o.fn.getLsbD 7) [x o c sl k]).headD 0
   LaneN .vcvtf (fun o c sl k => newNan (fmtOf o.t.toNat) [code o c sl k] [x o c sl k])
     (fun o c sl k => { single o.vd (BitVec.ofNat 32 (code o c sl k)) (sl.readV c o.va k).tag with draws := srSteps o 1 })) ∧
  Lane .vcvtfi (fun o c sl k =>
    let a := sl.readV c o.va k
    { typed o.t o.vd ⟨typeReg o.t.toNat (toIntSat o.rm.toNat (drawn o sl k 0) (typeLow o.t.toNat) (typeHigh o.t.toNat) (modified sl.ftz false false a.v)),
        a.tag⟩ with draws := srSteps o 1 }) ∧
  Lane .vcvtif (fun o c sl k =>
    let a := sl.readT c (BitVec.ofNat 4 o.fn.toNat) o.va k
    let x := typeInt (o.fn.toNat % 16) a.v
    { single o.vd (BitVec.ofNat 32 ((codes o sl k false [.fin (decide (x < 0)) x.natAbs 0]).headD 0)) a.tag with draws := srSteps o 1 }) ∧
  (let xs := fun (o : Wide) (c : RCtx) (sl : Slice) (k : Nat) => [o.va, o.vb].map fun v => modified sl.ftz false false (sl.readV c v k).v
   let cs := fun (o : Wide) c sl k => codes o sl k false (xs o c sl k)
   LaneN .vpack2 (fun o c sl k => newNan (fmtOf o.t.toNat) (cs o c sl k) (xs o c sl k))
     (fun o c sl k => { single o.vd (BitVec.ofNat 32 (packed 16 (cs o c sl k))) ((sl.readV c o.va k).tag || (sl.readV c o.vb k).tag) with
       draws := srSteps o 2 })) ∧
  (let rs := fun (o : Wide) (c : RCtx) (sl : Slice) (k : Nat) => [o.va, o.vb, o.vc, BitVec.ofNat 6 o.imm.toNat].map fun v => sl.readV c v k
   let xs := fun (o : Wide) (c : RCtx) (sl : Slice) (k : Nat) => (rs o c sl k).map fun x => modified sl.ftz false false x.v
   let cs := fun (o : Wide) c sl k => codes o sl k (o.fn.getLsbD 7) (xs o c sl k)
   let x := fun (o : Wide) c sl k => packed (fmtOf o.t.toNat).width (cs o c sl k)
   LaneN .vpack4 (fun o c sl k => newNan (fmtOf o.t.toNat) (cs o c sl k) (xs o c sl k))
     (fun o c sl k =>
       let tag := (rs o c sl k).any LVal.tag
       let d := sl.readV c o.vd k
       { (if o.t = 13 then
            single o.vd (BitVec.ofNat 32 (if o.fn.getLsbD 0 then d.v.toNat % 2 ^ 16 + x o c sl k * 2 ^ 16
              else d.v.toNat / 2 ^ 16 * 2 ^ 16 + x o c sl k)) (tag || d.tag)
          else single o.vd (BitVec.ofNat 32 (x o c sl k)) tag) with draws := srSteps o 4 })) ∧
  Lane .vunpk (fun o c sl k =>
    let a := sl.readV c o.va k
    { regs := (List.range (32 / (fmtOf o.t.toNat).width)).map fun e =>
        (o.vd + BitVec.ofNat 6 e, ⟨BitVec.ofNat 32 (fmtF32.round 0 0 false false (elem o.t.toNat sl.ftz a.v e)), a.tag⟩) }) ∧
  (let dot := fun (i : Wide → Instr) =>
    LaneFloat i
      (fun o c sl k =>
        let a := sl.readV c o.va k
        let b := sl.readV c o.vb k
        let d := sl.readV c o.vc k
        let es := List.range (32 / (fmtOf o.t.toNat).width)
        (es.map (elem o.t.toNat sl.ftz a.v) ++ es.map (elem o.t.toNat sl.ftz b.v) ++ [modified sl.ftz false false d.v], a.tag || b.tag || d.tag))
      (fun o ftz st xs =>
        let n := 32 / (fmtOf o.t.toNat).width
        let ps := ((xs.take n).zip ((xs.drop n).take n)).map fun p => p.1.mul p.2
        fmtF32.round o.rm.toNat st false ftz (sumTerms (o.rm == 2) (ps ++ xs.drop (2 * n))))
   dot .vfdot2 ∧ dot .vfdot4)

/-! ## Across the lanes, masks and lane branches (05 R96 to R98; 07 R168 to R171, R180 to R183) -/

namespace Sys2Proof.Claim

/-- A wide word's effect that is one scalar result, the same in every slice. -/
def SetsSs (d : SReg) (x : SVal) (sl sl' : Slice) : Prop :=
  (∀ k, Map.get {} sl'.scal k = if d ≠ 0 ∧ k = sl.scalKey d then x else Map.get {} sl.scal k) ∧ KeepsPending sl sl' ∧
    sl' = { sl with scal := sl'.scal, pending := sl'.pending, pc := sl.pc + 12, between := sl.between || endsRegion d
                    justRegion := false, unfin := none }

/-- The element that a cross-lane word reads as lane `j`: 0 with a clear tag from a lane that has exited or is not in the gang (07 R168). -/
def fromLane (g : Gang) (c : RCtx) (t : BitVec 4) (v : VReg) (j : Nat) : SVal :=
  match g.slices.find? fun sl => sl.pos == j / 4 with
  | some sl => if sl.exited.getLsbD (j % 4) then ⟨0, false⟩ else sl.readT c t v (j % 4)
  | none => ⟨0, false⟩

/-- A word that moves elements between lanes completes in every form. -/
def Moves (i : Wide → Instr) (f : Wide → Gang → RCtx → Slice → Nat → SVal) : Prop :=
  ∀ o s g, Runs (i o) s g → Completes (i o) s g fun sl sl' =>
    LanesDone g.lregs (sl.act (s.rctx g) o.pm) (fun k => typed o.t o.vd (f o g (s.rctx g) sl k)) sl sl'

/-- The active lanes of a gang in increasing lane index, each with its slice. -/
def lanesIn (g : Gang) (c : RCtx) (o : Wide) : List (Slice × Nat) :=
  g.slices.flatMap fun sl => ((List.range 4).filter fun k => (sl.act c o.pm).getLsbD k).map fun k => (sl, k)

/-- A word whose destination is SS: one value in every slice, nothing written when no lane is active (07 R149). -/
def ToSs (i : Wide → Instr) (f : Wide → Gang → RCtx → SVal) : Prop :=
  ∀ o s g, Runs (i o) s g → Completes (i o) s g fun sl sl' =>
    if lanesIn g (s.rctx g) o = [] then
      sl' = { sl with pc := sl.pc + 12, between := sl.between || endsRegion o.ss, justRegion := false, unfin := none }
    else SetsSs o.ss (f o g (s.rctx g)) sl sl'

end Sys2Proof.Claim

/-- 07 R160, R168, R169, R171: VPERM, VSHFL and VBCAST move elements between lanes; SMOV takes one lane to SS; VBALLOT gathers which active
lanes are nonzero and VVOTE whether any or every one is, with the OR of their tags. -/
def Sys2Proof.Claim.crossLaneMovesBallotsAndVotes : Prop :=
  Moves .vperm (fun o g c sl k =>
    let b := sl.readT c o.t o.vb k
    let x := fromLane g c o.t o.va (b.v.toNat % 32)
    ⟨x.v, x.tag || b.tag⟩) ∧
  Moves .vshfl (fun o g c sl k =>
    let l := 4 * sl.pos + k
    let n := o.imm.toNat % 32
    match o.fn.toNat with
    | 0 => fromLane g c o.t o.va (l ^^^ n)
    | 1 => if l < n then sl.readT c o.t o.va k else fromLane g c o.t o.va (l - n)
    | _ => if 31 < l + n then sl.readT c o.t o.va k else fromLane g c o.t o.va (l + n)) ∧
  Moves .vbcast (fun o g c sl _ =>
    let r := sl.readS c o.ss
    let x := fromLane g c o.t o.va (if o.fn = 0 then o.imm.toNat % 32 else r.v.toNat % 32)
    ⟨x.v, x.tag || (o.fn != 0 && r.tag)⟩) ∧
  ToSs .smov (fun o g c =>
    let x := fromLane g c o.t o.va (o.imm.toNat % 32)
    ⟨if o.t = 0 then BitVec.ofInt 64 (x.v.setWidth 32).toInt else x.v, x.tag⟩) ∧
  ToSs .vballot (fun o g c =>
    let ls := lanesIn g c o
    ⟨BitVec.ofNat 64 (ls.map fun p => if (p.1.readV c o.va p.2).v = 0 then 0 else 2 ^ (4 * p.1.pos + p.2)).sum,
      ls.any fun p => (p.1.readV c o.va p.2).tag⟩) ∧
  ToSs .vvote (fun o g c =>
    let ls := lanesIn g c o
    let nz := fun (p : Slice × Nat) => (p.1.readV c o.va p.2).v != 0
    ⟨if (if o.fn = 0 then ls.any nz else ls.all nz) then 1 else 0, ls.any fun p => (p.1.readV c o.va p.2).tag⟩)

namespace Sys2Proof.Claim

/-- The operation of a fold on two integers of 64 bits, cut to T afterwards. -/
def foldInt (o : Wide) (a b : Word64) : Word64 :=
  let t := o.t.toNat
  let f := fun (n : Nat) (x y : BitVec n) => show BitVec n from
    match o.fn.toNat % 128 with
    | 0 => BitVec.ofNat n (x.toNat + y.toNat)
    | 1 => if t % 2 = 0 then BitVec.ofInt n (min x.toInt y.toInt) else BitVec.ofNat n (min x.toNat y.toNat)
    | 2 => if t % 2 = 0 then BitVec.ofInt n (max x.toInt y.toInt) else BitVec.ofNat n (max x.toNat y.toNat)
    | 3 => x &&& y
    | 4 => x ||| y
    | _ => x ^^^ y
  if pairT o.t then f 64 a b else (f 32 (a.setWidth 32) (b.setWidth 32)).setWidth 64

/-- The identity of an integer fold (07 R170). -/
def unitInt (o : Wide) : Word64 :=
  match o.fn.toNat % 128 with
  | 1 => BitVec.ofInt 64 (typeHigh o.t.toNat)
  | 2 => BitVec.ofInt 64 (typeLow o.t.toNat)
  | 3 => BitVec.ofInt 64 (-1)
  | _ => 0

/-- The fold of some values from the first on; its tag is the OR of theirs. -/
def foldOf (o : Wide) (xs : List SVal) : Option SVal :=
  match xs with
  | [] => none
  | x :: ys => some (ys.foldl (fun a y => ⟨foldInt o a.v y.v, a.tag || y.tag⟩) x)

/-- How many lanes of a gang before its n-th slice are active in a word. -/
def before (g : Gang) (c : RCtx) (o : Wide) (n : Nat) : Nat := (lanesIn { g with slices := g.slices.take n } c o).length

/-- What an integer fold leaves in the i-th active lane: the whole fold, the fold up to the lane, or with EXCL the fold before it. -/
def folded (scan : Bool) (o : Wide) (xs : List SVal) (i : Nat) : SVal :=
  let m := if !scan then xs.length else if o.fn.getLsbD 7 then i else i + 1
  (foldOf o (xs.take m)).getD ⟨unitInt o, false⟩

/-- An integer fold completes: each active lane takes its value, and no LFSR steps. -/
def IntFold (i : Wide → Instr) (scan : Bool) : Prop :=
  ∀ o s g, Runs (i o) s g → o.t ≠ 8 → o.fn.toNat % 128 < 6 → ∃ g',
    exec (i o) s = .next { s with cur := some g', free := s.free + 1, performed := true } ∧ Each (fun _ _ => True) g g' ∧
      ∀ (n : Nat) (sl sl' : Slice), g.slices[n]? = some sl → g'.slices[n]? = some sl' →
        let c := s.rctx g
        let xs := (lanesIn g c o).map fun p => p.1.readT c o.t o.va p.2
        let i := fun (k : Nat) => before g c o n + ((List.range k).filter fun j => (sl.act c o.pm).getLsbD j).length
        LanesDone g.lregs (sl.act c o.pm) (fun k => typed o.t o.vd (folded scan o xs (i k))) sl sl'

/-- The value, the tag and the LFSR states of an f32 fold: each step after the first rounds with the LFSR of the lane that it adds. -/
def foldFloat (o : Wide) (xs : List (FVal × Bool × Bool × Nat)) : Option (FVal × Bool) :=
  match xs with
  | [] => none
  | x :: ys => some (ys.foldl (fun a y =>
      (match o.fn.toNat % 128 with
        | 8 => fmtF32.decode (fmtF32.round o.rm.toNat y.2.2.2 false y.2.2.1 (a.1.add (o.rm == 2) y.1))
        | 9 => a.1.min y.1
        | _ => a.1.max y.1, a.2 || y.2.1)) (x.1, x.2.1))

/-- What an f32 fold leaves in the i-th active lane. -/
def foldedFloat (scan : Bool) (o : Wide) (xs : List (FVal × Bool × Bool × Nat)) (i : Nat) : FVal × Bool :=
  let m := if !scan then xs.length else if o.fn.getLsbD 7 then i else i + 1
  (foldFloat o (xs.take m)).getD
    (match o.fn.toNat % 128 with
      | 8 => .fin false 0 0
      | 9 => .inf false
      | _ => .inf true, false)

/-- An f32 fold completes where no lane traps on a produced NaN: each active lane takes its value, and every active lane but the first steps
its LFSR once under SR. In a gang whose slices differ in FTZ a step takes that of the lane which it adds, by the model's choice (log 81). -/
def FloatFold (i : Wide → Instr) (scan : Bool) : Prop :=
  ∀ o s g, Runs (i o) s g → o.t = 8 → 8 ≤ o.fn.toNat % 128 → o.fn.toNat % 128 < 11 → (∀ sl ∈ g.slices, sl.nantrap = false) → ∃ g',
    exec (i o) s = .next { s with cur := some g', free := s.free + 1, performed := true } ∧ Each (fun _ _ => True) g g' ∧
      ∀ (n : Nat) (sl sl' : Slice), g.slices[n]? = some sl → g'.slices[n]? = some sl' →
        let c := s.rctx g
        let xs := (lanesIn g c o).map fun p =>
          let x := p.1.readV c o.va p.2
          (modified p.1.ftz false false x.v, x.tag, p.1.ftz, (p.1.lfsrOf p.2).toNat)
        let i := fun (k : Nat) => before g c o n + ((List.range k).filter fun j => (sl.act c o.pm).getLsbD j).length
        LanesDone g.lregs (sl.act c o.pm) (fun k =>
          let x := foldedFloat scan o xs (i k)
          { single o.vd (BitVec.ofNat 32 (fmtF32.round 0 0 false false x.1)) x.2 with draws := if i k = 0 then 0 else srSteps o 1 }) sl sl'

end Sys2Proof.Claim

/-- 07 R170: VREDUCE writes into every active lane ((x0 op x1) op x2) … over the active lanes in lane order, VSCAN the fold up to the lane, or
with EXCL up to the one before and the identity in the first; a tag is the OR of the tags folded; under SR the lane that a step adds
draws and steps once. -/
def Sys2Proof.Claim.crossLaneFolds : Prop :=
  IntFold .vreduce false ∧ IntFold .vscan true ∧ FloatFold .vreduce false ∧ FloatFold .vscan true

/-- 07: the words that move values between lanes and fold them. -/
def Obligations.CrossLaneWords : Prop := Claim.crossLaneMovesBallotsAndVotes ∧ Claim.crossLaneFolds

namespace Sys2Proof.Claim

/-- A mask register's whole segment takes a value; m0 discards it; no other mask register changes. -/
def SetsMask (m : Nat) (x : BitVec 4) (sl sl' : Slice) : Prop :=
  (∀ k, Map.get 0 sl'.masks k = if m ≠ 0 ∧ k = m then x else Map.get 0 sl.masks k) ∧ KeepsPending sl sl' ∧
    sl' = { sl with masks := sl'.masks, pending := sl'.pending, pc := sl.pc + 12, justRegion := false, unfin := none }

/-- The mask register in the low three bits of a register field, and the gang's 32 bits of it. -/
def inField (v : VReg) : Nat := v.toNat % 8
def gathered (g : Gang) (c : RCtx) (m : Nat) : Nat := (g.slices.map fun sl => (sl.readMask c m).toNat * 2 ^ (4 * sl.pos)).sum

end Sys2Proof.Claim

/-- 07 R182, R183: MSET takes imm32 or SS, whose tag stops it; MOP combines masks; MPOPC and MFFS count over the gang's 32 bits into SS; EMSET
sets EM from a mask without exited lanes, or cuts it to the mask. -/
def Sys2Proof.Claim.maskWords : Prop :=
  (∀ o s g, Runs (.mset o) s g →
    let x := fun (sl : Slice) => if o.fn = 0 then o.imm.toNat else (sl.readS (s.rctx g) o.ss).v.toNat % 2 ^ 32
    ((o.fn = 0 ∨ ∀ sl ∈ g.slices, (sl.readS (s.rctx g) o.ss).tag = false) → Completes (.mset o) s g fun sl sl' =>
      SetsMask (inField o.vd) (BitVec.ofNat 4 (x sl / 2 ^ (4 * sl.pos))) sl sl') ∧
    (o.fn ≠ 0 → (∃ sl ∈ g.slices, (sl.readS (s.rctx g) o.ss).tag = true) → exec (.mset o) s = .next (s.trapped g ⟨0x09, 32⟩))) ∧
  (∀ o s g, Runs (.mop o) s g → Completes (.mop o) s g fun sl sl' =>
    let a := sl.readMask (s.rctx g) (inField o.va)
    let b := sl.readMask (s.rctx g) (inField o.vb)
    SetsMask (inField o.vd) (match o.fn.toNat with
      | 0 => a &&& b
      | 1 => a ||| b
      | 2 => a ^^^ b
      | 3 => a &&& ~~~b
      | 4 => ~~~a
      | _ => a) sl sl') ∧
  (∀ o s g, Runs (.mpopc o) s g → Completes (.mpopc o) s g
    (SetsSs o.ss ⟨BitVec.ofNat 64 ((List.range 32).countP fun k => (gathered g (s.rctx g) (inField o.va)).testBit k), false⟩)) ∧
  (∀ o s g, Runs (.mffs o) s g → Completes (.mffs o) s g
    (SetsSs o.ss ⟨BitVec.ofNat 64 (((List.range 32).find? fun k => (gathered g (s.rctx g) (inField o.va)).testBit k).getD 32), false⟩)) ∧
  (∀ o s g, Runs (.emset o) s g → Completes (.emset o) s g fun sl sl' =>
    let m := sl.readMask (s.rctx g) (inField o.va)
    sl' = { sl with em := if o.fn = 0 then m &&& ~~~sl.exited else sl.em &&& m, pc := sl.pc + 12, justRegion := false, unfin := none })

/-- 05 R96, R98; 07 R180: with no lane taken VBR moves on; with every lane of EM taken it goes to the target; else each slice pushes the join
entry and the pending entry, EM becomes the taken lanes and the target is next. A stack without room for two entries raises
ENGINE_FAULT, a target or join that fails its checks MISALIGNED_FETCH, each checked where it is used alone, by the model's choice (log 36). -/
def Sys2Proof.Claim.divergenceAtVbr : Prop :=
  ∀ o s g, Runs (.vbr o) s g →
    let c := s.rctx g
    let tgt := fun (sl : Slice) => target sl.pc (o.imm.extractLsb' 16 16)
    let join := fun (sl : Slice) => target sl.pc (o.imm.extractLsb' 0 16)
    let bad := fun (sl : Slice) (a : Word64) => s.targetTrap g (!sl.priv) a
    let none_ := ∀ sl ∈ g.slices, sl.act c o.pm = 0
    let all := ∀ sl ∈ g.slices, sl.act c o.pm = sl.em
    (none_ → Completes (.vbr o) s g fun sl sl' => sl' = { sl with pc := sl.pc + 12, justRegion := false, unfin := none }) ∧
    (¬ none_ → all → (∀ sl ∈ g.slices, bad sl (tgt sl) = none) → Completes (.vbr o) s g (GoesTo false tgt)) ∧
    (¬ none_ → ¬ all → (∀ sl ∈ g.slices, sl.recon.length + 2 ≤ 64 ∧ bad sl (tgt sl) = none ∧ bad sl (join sl) = none) →
      Completes (.vbr o) s g fun sl sl' =>
        let t := sl.act c o.pm
        sl' = { sl with
          recon := { rpc := join sl, pc := sl.pc + 12, mask := sl.em &&& ~~~t } :: { rpc := join sl, pc := join sl, mask := sl.em } :: sl.recon
          em := t, pc := tgt sl, justRegion := false, unfin := none }) ∧
    (¬ none_ → ¬ all → ∀ front sl back, g.slices = front ++ sl :: back →
      (∀ x ∈ front, x.recon.length + 2 ≤ 64 ∧ bad x (tgt x) = none ∧ bad x (join x) = none) →
        (64 < sl.recon.length + 2 → exec (.vbr o) s = .next (s.trapped g ⟨0x0F, sl.pc⟩)) ∧
        (sl.recon.length + 2 ≤ 64 → bad sl (tgt sl) ≠ none → exec (.vbr o) s = .next (s.trapped g ⟨0x11, tgt sl⟩)) ∧
        (sl.recon.length + 2 ≤ 64 → bad sl (tgt sl) = none → bad sl (join sl) ≠ none →
          exec (.vbr o) s = .next (s.trapped g ⟨0x11, join sl⟩)))

/-- 07: the mask words, and divergence at VBR. That VBR's target is checked only when some lane takes it, and its join only when the word diverges,
follows R98 where R180 calls both checked targets, the model's choice (log 36, DEDUCED). -/
def Obligations.MaskWordsAndDivergence : Prop := Claim.maskWords ∧ Claim.divergenceAtVbr

/-! ## Lane memory (07 R172 to R179) -/

namespace Sys2Proof.Claim

/-- Bytes of a lane access by type (07 R172). -/
def bytesT (t : BitVec 4) : Nat := [4, 4, 2, 2, 1, 1, 8, 8, 4, 2, 2].getD t.toNat 1

/-- A lane memory word completes once every lane that it still has to do has untagged sources and passes its checks: the gang's deferred loads
that must come before it are performed, then the lanes in increasing lane index, slice by slice; a store or an atomic at home, now or
before a park on a fault, ends the region and makes a recoverable interval unrecoverable. -/
def DoesItsLanes (i : Wide → Instr) (kind : AccKind) (store : Bool) (ends : Bool) (tags : Wide → RCtx → Slice → Nat → List Bool)
    (addr : Wide → RCtx → Slice → Nat → Word64) (part : Wide → Gang → RCtx → State → Slice → Slice → Nat → Access → Slice × State)
    (ready : Wide → State → Gang → List Access → Prop := fun _ _ _ _ => True)
    (after : Wide → Gang → List Access → State × List Slice → State × List Slice := fun _ _ _ x => x) : Prop :=
  ∀ o s g, Runs (i o) s g →
    let c := s.rctx g
    (∀ sl ∈ g.slices, ∀ k ∈ sl.lanesDue c o.pm, ∀ b ∈ tags o c sl k, b = false) →
    ∀ cs s1, s.checkLanes g c o.pm (fun s' sl k => s'.resolve g sl kind (addr o c sl k) (bytesT o.t)) = (cs, s1) →
      (∀ q ∈ cs, ∃ a, q.check = .ok a) → Single s1 g →
      let as := cs.filterMap fun q => match q.check with
        | .ok a => some a
        | _ => none
      ready o s1 g as →
      let home := store && (g.slices.any Slice.homeDone || as.any fun a => match a.loc with
        | .home _ => true
        | _ => false)
      let q := (if home then s1.irrevocable g else s1).orderLoads g as (kind != .load)
      let r := q.2.performLanes g.slices q.1.slices cs home (part o g c)
      let t := after o g as (r.2, r.1)
      exec (i o) s = .next { t.1 with cur := some (past g 12 (ends || home) t.2), free := t.1.free + 1, performed := true }

/-- The addresses of 07 R172. -/
def gatherAt (o : Wide) (scale : Nat) (c : RCtx) (sl : Slice) (k : Nat) : Word64 :=
  BitVec.ofInt 64 ((sl.readS c o.ss).v.toInt + (sl.readV c o.va k).v.toInt * 2 ^ scale + o.imm.toInt)
def strideAt (o : Wide) (c : RCtx) (sl : Slice) (k : Nat) : Word64 :=
  BitVec.ofInt 64 ((sl.readS c o.ss).v.toInt + (4 * sl.pos + k) * o.imm.toInt)
def blockAt (o : Wide) (c : RCtx) (sl : Slice) (k : Nat) : Word64 :=
  BitVec.ofInt 64 ((sl.readS c o.ss).v.toInt + o.imm.toInt + (4 * sl.pos + k) * bytesT o.t)

/-- The low scale field of fn8. -/
def lowScale (o : Wide) : Nat := o.fn.toNat % 4

/-- The scratchpad granules of 16 bytes that accesses touch. -/
def granulesTouched (as : List Access) : List Nat :=
  as.flatMap fun a => match a.loc with
    | .scratch off => granulesOf off a.size
    | _ => []

end Sys2Proof.Claim

/-- 07 R172 to R175, R179: VLD and VLDB load each active lane, VST and VSTB store it, VATOM does the AMO of 06 R131 with VB and VC and writes the
old value, at the addresses of 07 R172 in increasing lane index; VPREF has no effect. -/
def Sys2Proof.Claim.laneLoadsStoresAndAtomics : Prop :=
  DoesItsLanes .vld .load false false (fun o c sl k => [(sl.readS c o.ss).tag, (sl.readV c o.va k).tag])
    (fun o => gatherAt o (lowScale o)) (fun o g c s' _ acc k a => s'.loadLane g c acc o k a s'.late) ∧
  DoesItsLanes .vldb .load false false (fun o c sl _ => [(sl.readS c o.ss).tag]) strideAt
    (fun o g c s' _ acc k a => s'.loadLane g c acc o k a s'.late) ∧
  DoesItsLanes .vst .store true false (fun o c sl k => [(sl.readS c o.ss).tag, (sl.readV c o.va k).tag, (sl.readT c o.t o.vd k).tag])
    (fun o => gatherAt o (lowScale o)) (fun o g c s' sl acc k a => s'.storePart g acc a (toBytes (sl.readT c o.t o.vd k).v a.size)) ∧
  DoesItsLanes .vstb .store true false (fun o c sl k => [(sl.readS c o.ss).tag, (sl.readT c o.t o.vd k).tag]) strideAt
    (fun o g c s' sl acc k a => s'.storePart g acc a (toBytes (sl.readT c o.t o.vd k).v a.size)) ∧
  DoesItsLanes .vatom .atomic true true
    (fun o c sl k => [(sl.readS c o.ss).tag, (sl.readV c o.va k).tag, (sl.readT c o.t o.vb k).tag,
      decide (o.fn.toNat % 16 = 9) && (sl.readT c o.t o.vc k).tag])
    (fun o => gatherAt o (o.fn.toNat / 16 % 4))
    (fun o g c s' sl acc k a =>
      let r := s'.atomicAt g acc a (o.fn.toNat % 16) (sl.readT c o.t o.vb k).v (sl.readT c o.t o.vc k).v
      (r.2.2.1.writeT c (.variable (s'.loadFigure g.core a.loc a.size)) o.t o.vd k ⟨extend true r.1, r.2.1⟩, r.2.2.2)) ∧
  (∀ o s g, Runs (.vpref o) s g → Completes (.vpref o) s g fun sl sl' =>
    sl' = { sl with pc := sl.pc + 12, justRegion := false, unfin := none })

/-- 07 R172: the part of a lane load that is not issued late reads its bytes where they lie, extends i8, i16 and i32 by sign and the rest by
zeros into VD, or into the pair, its tag set by a poisoned unit or a page that reads as poisoned; no other lane and no byte at home
changes. -/
def Sys2Proof.Claim.oneLaneOfALoad : Prop :=
  ∀ (s : State) (g : Gang) (c : RCtx) (sl : Slice) (o : Wide) (k : Nat) (a : Access), Quiet s g → k < 4 →
    let r := s.readAt g.core a.loc a.size
    let p := s.loadLane g c sl o k a false
    let n := natOfBytes r.1
    let v : Word64 := if o.t = 0 ∨ o.t = 2 ∨ o.t = 4 then (BitVec.ofNat (8 * r.1.length) n).signExtend 64 else BitVec.ofNat 64 n
    p.2 = r.2.2 ∧ p.2.mem = s.mem ∧ p.2.bad = s.bad ∧ p.2.gangs = s.gangs ∧ KeepsPending sl p.1 ∧
      p.1 = { sl with lane := p.1.lane, pending := p.1.pending } ∧
      ∀ x j, j < 4 → Map.get {} p.1.lane (4 * x + j) =
        if j = k then
          match (typed o.t o.vd ⟨v, r.2.1 || a.por⟩).regs.reverse.find? fun w => sl.laneRing c.lregs w.1 == x with
          | some w => w.2
          | none => Map.get {} sl.lane (4 * x + j)
        else Map.get {} sl.lane (4 * x + j)

/-- 07: the lane words that reach memory, and what one lane of a load does. -/
def Obligations.LaneMemoryWords : Prop := Claim.laneLoadsStoresAndAtomics ∧ Claim.oneLaneOfALoad

/-- 07 R176 to R178: VLDC parks the gang while a granule that it touches is empty; else its loads and, with take, the empty marks are one step,
and a hold-off begins. VSTF stores and sets its granules full. A park or another region apart, no other granule changes. -/
def Obligations.FullEmptyGranules : Prop :=
  DoesItsLanes .vldc .load false false (fun o c sl _ => [(sl.readS c o.ss).tag]) blockAt
    (fun o g c s' _ acc k a => s'.loadLane g c acc o k a false)
    (fun _ s1 g as => ∀ x ∈ granulesTouched as, x ∉ (s1.core g.core).empty)
    (fun o g as x =>
      let gs := (granulesTouched as).foldl NatSet.put []
      if o.fn.getLsbD 0 = true ∧ granulesTouched as ≠ [] then
        ((gs.foldl (fun t gr => t.logGranule g.crew g.core gr) x.1).setEmpty g.core gs, x.2.map fun sl => { sl with holdoff := true })
      else x) ∧
  DoesItsLanes .vstf .store true false (fun o c sl k => [(sl.readS c o.ss).tag, (sl.readT c o.t o.vd k).tag]) blockAt
    (fun o g c s' sl acc k a => s'.storePart g acc a (toBytes (sl.readT c o.t o.vd k).v a.size)) (fun _ _ _ _ => True)
    (fun _ g as x =>
      if granulesTouched as = [] then x
      else (x.1.setFull g.core ((granulesTouched as).foldl NatSet.put []), x.2.map fun sl => { sl with holdoff := true })) ∧
  (∀ o s g, Runs (.vldc o) s g →
    let c := s.rctx g
    (∀ sl ∈ g.slices, ∀ k ∈ sl.lanesDue c o.pm, (sl.readS c o.ss).tag = false) →
    ∀ cs s1, s.checkLanes g c o.pm (fun s' sl k => s'.resolve g sl .load (blockAt o c sl k) (bytesT o.t)) = (cs, s1) →
      (∀ q ∈ cs, ∃ a, q.check = .ok a) →
      let as := cs.filterMap fun q => match q.check with
        | .ok a => some a
        | _ => none
      (∃ x ∈ granulesTouched as, x ∈ (s1.core g.core).empty) →
      exec (.vldc o) s = .next { s1 with cur := some { g with park := .granules ((granulesTouched as).foldl NatSet.put []) } }) ∧
  (∀ (s : State) (core k : Nat) (gs : List Nat) (x : Nat),
    (x ∈ ((s.setEmpty core gs).core k).empty ↔ x ∈ (s.core k).empty ∨ (k = core ∧ x ∈ gs)) ∧
    (x ∈ ((s.setFull core gs).core k).empty ↔ x ∈ (s.core k).empty ∧ ¬ (k = core ∧ x ∈ gs)))

/-! ## Cells, spawning, barriers and the end of a strand (01 R13 to R28; 06 R135 to R146; 07 R181, R185) -/

namespace Sys2Proof.Claim

/-- The cells of a word's slices that have all passed their checks, by physical address, each with its slice. -/
def cellsOf (cs : List (Slice × Option Check)) : List (Slice × Nat) :=
  cs.filterMap fun p => match p.2 with
    | some (.ok a) => some (p.1, a.pa)
    | _ => none

/-- A cell among them lies on a page that reads as poisoned (11 R247). -/
def porOf (cs : List (Slice × Option Check)) (pa : Nat) : Bool :=
  cs.any fun p => match p.2 with
    | some (.ok a) => a.por && a.pa == pa
    | _ => false

/-- A word over cells whose sources are untagged and whose cells have passed their checks acts on the machine in which the gang's posted
stores have been performed and the core's own copies of the cells have gone home (01 R9, 09 R205). -/
def AtCells (i : Instr) (k : AccKind) (sa : SReg) (tags : List SReg)
    (body : State → Gang → State → List (Slice × Nat) → (Nat → Bool) → Prop) : Prop :=
  ∀ s g, Runs i s g → Untagged s g tags → ∀ cs s1,
    s.checkSlices g (fun s' sl => s'.resolveCell g sl k (sl.readS (s.rctx g) sa).v) = (cs, s1) → AllPass g cs →
      let t := (cellsOf cs).foldl (fun s' p => s'.flushCell g.core p.2) (s1.drain g.gid)
      Single t g → body s g t (cellsOf cs) (porOf cs)

/-- COUNT, STATUS and NARROW of a cell, and bytes at home (01 R13). -/
def countAt (s : State) (pa : Nat) : Int := (BitVec.ofNat 32 (natOfBytes (homeBytes s pa 4))).toInt
def statusAt (s : State) (pa : Nat) : Nat := (Map.get 0 s.mem (pa + 4)).toNat % 4
def narrowAt (s : State) (pa : Nat) : Bool := decide (128 ≤ (Map.get 0 s.mem (pa + 4)).toNat)

end Sys2Proof.Claim

/-- 01 R13 to R15, R23: a signal takes its amount from COUNT, saturated to 32 bits signed, keeps the larger status, and sets NARROW for a source
of span C or narrower. With COUNT zero or below every strand parked on the cell is released from it: a gang whose last cell it was is
ready, pinned by NARROW, and WAITER is 0 again; else every strand stays. No byte outside the cell changes. -/
def Obligations.SignalsCountAndRelease : Prop :=
  ∀ (s : State) (pa : Nat) (amount : Int) (code : Nat) (narrow : Bool) (src : Src), code < 4 →
    let t := s.signalCell pa amount code narrow src
    countAt t pa = max (-2147483648) (min 2147483647 (countAt s pa - amount)) ∧ statusAt t pa = max (statusAt s pa) code ∧
      narrowAt t pa = (narrow || narrowAt s pa) ∧
      (∀ b, b < pa ∨ pa + 16 ≤ b ∨ (pa + 5 ≤ b ∧ b < pa + 8) → Map.get 0 t.mem b = Map.get 0 s.mem b) ∧
      (0 < countAt t pa → t.gangs = s.gangs ∧ ∀ b, pa + 8 ≤ b → Map.get 0 t.mem b = Map.get 0 s.mem b) ∧
      (countAt t pa ≤ 0 →
        (pa ∈ s.waitedCells → ∀ b, pa + 8 ≤ b → b < pa + 16 → Map.get 0 t.mem b = 0) ∧
        t.gangs.length = s.gangs.length ∧ ∀ (n : Nat) (g g' : Gang), s.gangs[n]? = some g → t.gangs[n]? = some g' →
          match g.park with
          | .await cells lean =>
            if pa ∈ cells then
              let rest := NatSet.drop cells pa
              g' = { g with
                park := if rest = [] then .none else .await rest lean, ready := decide (rest = []), pinned := g.pinned || narrowAt t pa
                srcs := if lean then [] else g.srcs ++ Map.get [] s.cellSrc pa ++ [src] }
            else g' = g
          | _ => g' = g)

/-- 06 R136 to R139: SIGNAL, once the fabric counter allows its span, takes sext(SB, 32) from COUNT with status OK and ends the region; CELLINIT
parks the gang with its cells, and the reply of the home slices sets COUNT, clears STATUS, NARROW and WAITER and ends it; CELLRD gives
bits 39:0, tagged on a page that reads as poisoned too; AWAIT goes on when every cell's COUNT is zero or below, and else parks as a frame on the others, each with a WAITER. -/
def Obligations.CellWords : Prop :=
  (∀ o, AtCells (.signal o) .cellWrite o.sa [o.sa, o.sb] fun s g t cells _ =>
    let lean := o.fn.getLsbD 8
    (lean = true ∨ t.ackClear g.core 4 = true) →
      let r := cells.foldl (fun s' p => s'.signalCell p.2 ((p.1.readS (s.rctx g) o.sb).v.setWidth 32).toInt 0 false (.quad g.quadNo))
        ((if lean then t else t.reconcileSource g.core 4).irrevocable g)
      let h := r.cur.getD g
      exec (.signal o) s = .next { r with cur := some (past h 4 true h.slices), free := r.free + 1, performed := true }) ∧
  (∀ o, AtCells (.cellinit o) .cellWrite o.sa [o.sa, o.sb] fun s g t cells _ =>
    exec (.cellinit o) s = .next { t.irrevocable g with cur := some { g with
      park := .cellinit (cells.map fun p => (p.2, (p.1.readS (s.rctx g) o.sb).v.setWidth 32, (p.1.readS (s.rctx g) o.sa).v)) } }) ∧
  (∀ (s : State) (pa : Nat) (n : BitVec 32), let t := s.initCell pa n
    countAt t pa = n.toInt ∧ statusAt t pa = 0 ∧ narrowAt t pa = false ∧
      (∀ b, pa + 8 ≤ b → b < pa + 16 → Map.get 0 t.mem b = 0) ∧
      (∀ b, b < pa ∨ pa + 16 ≤ b ∨ (pa + 5 ≤ b ∧ b < pa + 8) → Map.get 0 t.mem b = Map.get 0 s.mem b) ∧ t.gangs = s.gangs) ∧
  (∀ o, AtCells (.cellrd o) .cellRead o.sa [o.sa] fun s g t cells por => ∃ g',
    exec (.cellrd o) s = .next { t with cur := some g', free := t.free + 1, performed := true } ∧
      g' = { g with slices := g'.slices } ∧ g'.slices.length = cells.length ∧
      ∀ (n : Nat) (p : Slice × Nat) (sl' : Slice), cells[n]? = some p → g'.slices[n]? = some sl' →
        SetsScalar o.sd ⟨BitVec.ofNat 64 (natOfBytes (homeBytes t p.2 5)), t.poisonedAt p.2 5 || por p.2⟩ p.1 sl') ∧
  (∀ o, AtCells (.await o) .cellRead o.sa [o.sa] fun s g t cells _ =>
    let lean := o.c.getLsbD 2
    let waits := (cells.map Prod.snd).filter fun pa => decide (0 < countAt t pa)
    let srcs := (cells.map Prod.snd).flatMap fun pa => if pa ∈ waits then [] else Map.get [] t.cellSrc pa
    (waits = [] →
      let r := if lean then t else t.reconcileDest g.core (spanOf srcs g.quadNo)
      exec (.await o) s = .next { r with cur := some (past g 4 true g.slices), free := r.free + 1, performed := true }) ∧
    (waits ≠ [] → (g.movable lean = false ∨ t.ackClear g.core g.tier = true) →
      let r := waits.foldl State.markWaiter (if g.movable lean then t.reconcileSource g.core g.tier else t)
      exec (.await o) s = .next { r with
        cur := some { past g 4 true g.slices with
          park := .await (waits.foldl NatSet.put []) lean, framed := true, pinned := !g.movable lean
          srcs := if lean then [] else srcs, buf := [] }
        free := r.free + 1, performed := true })) ∧
  (∀ (s : State) (pa : Nat), (∃ b, pa + 8 ≤ b ∧ b < pa + 16 ∧ Map.get 0 (s.markWaiter pa).mem b ≠ 0) ∧
    ∀ b, b < pa + 8 ∨ pa + 16 ≤ b → Map.get 0 (s.markWaiter pa).mem b = Map.get 0 s.mem b)

/-- 05 R107; 06 R135; 07 R185: SPAWN reads E, P, N and C from four registers, SPAWNV E, B and C from three. Every slice with N not 0 queues one brood of
N slices, and with N 0 in every slice there is no child and no edge; every slice with active lanes queues one for them, at tier C one for each lane, their g1 being B + zext(VA, 32). The checks of
each have passed, the entry headers give the lane registers, and the fork's source has reconciled at the tier's span. -/
def Obligations.SpawnsQueueTheirBroods : Prop :=
  (∀ o s g, Runs (.spawn o) s g → Untagged s g [o.sa, o.sa + 1, o.sa + 2, o.sa + 3] → Single s g →
    let r := fun (sl : Slice) (k : Nat) => (sl.readS (s.rctx g) (o.sa + BitVec.ofNat 5 k)).v
    ((∀ sl ∈ g.slices, r sl 2 = 0) ∨ s.ackClear g.core o.c.toNat = true) →
    ∀ lregs : Slice → Nat,
      (∀ sl ∈ g.slices, sl.scalarDue = true ∧ (r sl 2 ≠ 0 → (r sl 2).toNat ≤ tierCap o.c.toNat ∧
        s.spawnCheck g sl (r sl 0) (r sl 3) = .ok { loc := .scratch 0, size := lregs sl, por := false, gen := r sl 0 })) →
      let t := if g.slices.all fun sl => r sl 2 == 0 then s.irrevocable g
        else g.slices.foldl (fun s' sl =>
        if r sl 2 = 0 then s'
        else s'.queueSpawn g sl o.c.toNat o.x.toNat (lregs sl) (r sl 2).toNat (r sl 0) (r sl 1) (r sl 3) [])
        (((s.drain g.gid).reconcileSource g.core o.c.toNat).irrevocable g)
      exec (.spawn o) s = .next { t with cur := some (past g 4 true g.slices), free := t.free + 1, performed := true }) ∧
  (∀ o s g, Runs (.spawnv o) s g →
    let c := s.rctx g
    ((∀ sl ∈ g.slices, sl.act c o.pm = 0) ∨ (Single s g ∧ s.ackClear g.core (o.fn.toNat % 8) = true)) →
    (∀ sl ∈ g.slices, ∀ k, Active c o sl k → (sl.readV c o.va k).tag = false ∧
      ∀ d ∈ [o.ss, o.ss + 1, o.ss + 2], (sl.readS c d).tag = false) →
    ∀ lregs : Slice → Nat,
      let r := fun (sl : Slice) (k : Nat) => (sl.readS c (o.ss + BitVec.ofNat 5 k)).v
      let args := fun (sl : Slice) => ((List.range 4).filter fun k => (sl.act c o.pm).getLsbD k).map fun k =>
        BitVec.ofNat 64 ((r sl 1).toNat + (sl.readV c o.va k).v.toNat)
      let one := fun (s' : State) (sl : Slice) (n : Nat) (arg : Word64) (xs : List Word64) =>
        s'.queueSpawn g sl (o.fn.toNat % 8) (o.imm.toNat % 2 ^ 16) (lregs sl) n (r sl 0) arg (r sl 2) xs
      (∀ sl ∈ g.slices, sl.scalarDue = true ∧ (args sl ≠ [] →
        s.spawnCheck g sl (r sl 0) (r sl 2) = .ok { loc := .scratch 0, size := lregs sl, por := false, gen := r sl 0 })) →
      let t := if g.slices.all fun sl => (args sl).isEmpty then s
        else g.slices.foldl (fun s' sl =>
          if args sl = [] then s'
          else if o.fn.toNat % 8 = 1 then (args sl).foldl (fun s'' a => one s'' sl 1 a [a]) s'
          else one s' sl (args sl).length (r sl 1) (args sl)) (((s.drain g.gid).reconcileSource g.core (o.fn.toNat % 8)).irrevocable g)
      exec (.spawnv o) s = .next { t with cur := some (past g 12 true g.slices), free := t.free + 1, performed := true }) ∧
  (∀ (s : State) (g : Gang) (sl : Slice) (tier kib lregs count : Nat) (e arg cell : Word64) (args : List Word64),
    ∃ q, s.queueSpawn g sl tier kib lregs count e arg cell args = { s with nextId := s.nextId + 2, spawns := s.spawns ++ [q] } ∧
      q.pc = e ∧ q.arg = arg ∧ q.args = args ∧ q.cell = cell ∧ q.count = count ∧ q.next = 0 ∧ q.kib = kib ∧ q.lregs = lregs ∧
      q.tier = tier ∧ q.part = g.part ∧ q.ctx = g.ctx ∧ q.priv = sl.priv ∧ q.ftz = sl.ftz ∧ q.nantrap = sl.nantrap ∧ q.tvec = sl.tvec ∧
      q.glbb = sl.glbb ∧ q.glbl = sl.glbl ∧ q.srcs = [.quad g.quadNo])

/-- A barrier's fields after a completed phase: PHASE one more, ARRIVED 0, no marks (06 R141). -/
def Sys2Proof.Claim.nextPhase (b : Barrier) : Barrier := { b with phase := b.phase + 1, arrived := 0, marks := [] }

/-- Slices that remember an arrival at a barrier in a phase. -/
def Sys2Proof.Claim.arrivedAt (g : Gang) (id : Nat) (p : BitVec 32) : Gang :=
  { g with slices := g.slices.map fun sl => { sl with arrival := some (id, p) } }

/-- 06 R141, R143: in a gang of a crew that owns the barrier, ARRIVE adds its lanes in EM and remembers the phase, and with ARRIVED at EXPECT the
phase completes; WAIT goes on where every slice's last arrival was in an earlier phase, and else parks as a frame on the phase; SYNC
does both. INIT of a free barrier sets its owner and EXPECT. Any other gang raises ENGINE_FAULT with the barrier's number. -/
def Obligations.BarrierWords : Prop :=
  (∀ o s g last, Runs (.barInit o) s g → Untagged s g [o.cnt] → g.crew ≠ none → s.hasWaiters g.core o.id.toNat = false →
    ((s.barrier g.core o.id.toNat).owner = none ∨ (s.barrier g.core o.id.toNat).owner = g.crew) →
    (∀ sl ∈ g.slices, 1 ≤ (sl.readS (s.rctx g) o.cnt).v.toNat ∧ (sl.readS (s.rctx g) o.cnt).v.toNat ≤ 512) →
    g.slices.getLast? = some last → ∃ t, exec (.barInit o) s = .next t ∧ t.cur = some (past g 4 true g.slices) ∧ t.mem = s.mem ∧ t.gangs = s.gangs ∧
      ∀ c k, t.barrier c k = if c = g.core ∧ k = o.id.toNat then
        { s.barrier c k with owner := g.crew, expect := (last.readS (s.rctx g) o.cnt).v.toNat, arrived := 0 }
        else s.barrier c k) ∧
  (∀ o s g, Runs (.barArrive o) s g → g.crew ≠ none → (s.barrier g.core o.id.toNat).owner = g.crew →
    let id := o.id.toNat
    let g' := past (arrivedAt g id (s.barrier g.core id).phase) 4 true (arrivedAt g id (s.barrier g.core id).phase).slices
    let t := ((s.drain g.gid).reconcileSource g.core 1).arrive g id none
    exec (.barArrive o) s = .next { t with cur := some g', free := t.free + 1, performed := true }) ∧
  (∀ (s : State) (g : Gang) (id : Nat) (me : Option Gang),
    let b := s.barrier g.core id
    let n := (g.slices.map fun sl => (lanesOf sl.em).length).sum
    ((s.arrive g id me).barrier g.core id).expect = b.expect ∧ ((s.arrive g id me).barrier g.core id).owner = b.owner ∧
    (b.arrived + n < b.expect → ((s.arrive g id me).barrier g.core id).arrived = b.arrived + n ∧
      ((s.arrive g id me).barrier g.core id).phase = b.phase ∧ (s.arrive g id me).gangs = s.gangs) ∧
    (b.expect ≤ b.arrived + n → (s.arrive g id me).barrier g.core id = nextPhase b ∧
      ∀ h ∈ (s.arrive g id me).gangs, h.waitsOn g.core id = false)) ∧
  (∀ o s g, Runs (.barWait o) s g → g.crew ≠ none → (s.barrier g.core o.id.toNat).owner = g.crew → 0 < (s.barrier g.core o.id.toNat).expect →
    s.syncDue g = false →
    let id := o.id.toNat
    let b := s.barrier g.core id
    let t := s.drain g.gid
    let early := fun (sl : Slice) => ∃ p, sl.arrival = some (id, p) ∧ p ≠ b.phase
    ((∀ sl ∈ g.slices, early sl) →
      let u := t.reconcileDest g.core 1
      exec (.barWait o) s = .next { u with cur := some (past g 4 true g.slices), free := u.free + 1, performed := true }) ∧
    ((∃ sl ∈ g.slices, ¬ early sl) →
      exec (.barWait o) s = .next { t with
        cur := some { past g 4 true g.slices with park := .bar id b.phase, framed := true, pinned := true, srcs := [], buf := [] }
        free := t.free + 1, performed := true })) ∧
  (∀ o s g, Runs (.barSync o) s g → g.crew ≠ none → (s.barrier g.core o.id.toNat).owner = g.crew → s.rbCrew g = none →
    s.syncDue g = false → g.slices ≠ [] →
    let id := o.id.toNat
    let b := s.barrier g.core id
    let n := (g.slices.map fun sl => (lanesOf sl.em).length).sum
    (b.arrived + n < b.expect → ∃ t h, exec (.barSync o) s = .next t ∧ t.cur = some h ∧ h.park = .bar id b.phase ∧ h.framed = true ∧
      (t.barrier g.core id).arrived = b.arrived + n ∧ (t.barrier g.core id).phase = b.phase) ∧
    (b.expect ≤ b.arrived + n → 0 < b.expect → ∃ t h, exec (.barSync o) s = .next t ∧ t.cur = some h ∧ h.park = g.park ∧
      h.framed = g.framed ∧ t.barrier g.core id = nextPhase b)) ∧
  (∀ (id : BitVec 8) s g i, Runs i s g → (∃ o : FormBar, o.id = id ∧ (i = .barArrive o ∨ i = .barWait o ∨ i = .barSync o)) →
    ((s.barrier g.core id.toNat).owner = none ∨ (s.barrier g.core id.toNat).owner ≠ g.crew) →
      exec i s = .next (s.trapped g ⟨0x0F, BitVec.ofNat 64 id.toNat⟩))

/-- 06 R146, 01 R22: a word ends some slices of its gang once their cells have passed their checks: the gang's posted stores are performed and its
core reconciles at the tier's span; then slice by slice the strand counts as triggered where its node created it, its lanes leave the
barriers, its waiting commands are discarded, its cell is signalled by 1 with OK and its Attic goes back. -/
def Sys2Proof.Claim.Ends (i : Instr) (s : State) (g : Gang) (ending stay : List Slice) (last : State → State := id) : Prop :=
  ∀ cs s1, s.checkSlices { g with slices := ending } (fun s' sl => s'.exitCheck g sl) = (cs, s1) → AllPass { g with slices := ending } cs →
    Single s1 g → s1.ackClear g.core g.exitSpan = true →
      let t := cs.foldl (fun s' p => match p.2 with
        | some (.ok a) => if a.size = 0 then s' else s'.flushCell g.core a.pa
        | _ => s') s1
      exec i s = .next (last (t.exitSlices g cs stay))

/-- 06 R142, R146; 01 R22, R23; 03 R69: what the end of strands does. The ended slices are in no gang any more, and a gang without slices is no
more; the core has reconciled at the exit's span (the brood's tier, P for a member of a node); each cell of g3 is signalled by 1 with OK at
home, NARROW for a span below K; each Attic range goes back to its context's pool. One strand's end, in R146's order: it counts as triggered,
its lanes that had not exited leave the barriers of the crew, its waiting commands are discarded, its cell is signalled. A lane that leaves
takes 1 from EXPECT, and from ARRIVED where it had arrived (never below 0: log 82's choice), and completes a phase that then has all. -/
def Sys2Proof.Claim.strandsAreGone : Prop :=
  (∀ (s : State) (g : Gang) (cs : List (Slice × Option Check)) (stay : List Slice), s.isShadow g = false → g.park = .none →
    (∀ c ∈ s.cmds, c.op ≠ .mq ∧ ((∃ p ∈ cs, p.1.sid = c.sid) → c.waits = false)) →
      let t := s.exitSlices g cs stay
      let cells := cs.filterMap fun p => match p.2 with
        | some (.ok a) => if (p.1.scalNow 3).v = 0 then none else some a.pa
        | _ => none
      let narrow := decide ((if g.node.isSome || g.stage.isSome then 4 else g.tier) < 2)
      let u := { s.edgeSource g (if g.node.isSome || g.stage.isSome then 4 else g.tier) with
        cur := if stay = [] then none else some { g with slices := stay } }
      t.cur = u.cur ∧ t.gangs.map Gang.gid = s.gangs.map Gang.gid ∧ t.performed = true ∧
      t.mem = (cells.foldl (fun x pa => x.signalCell pa 1 0 narrow (.quad g.quadNo)) u).mem ∧
      (∀ c, Map.find? s.ctxs g.ctx = some c →
        Map.find? t.ctxs g.ctx = some { c with free := c.free ++ cs.map fun p => p.1.attic })) ∧
  (∀ (s : State) (g : Gang) (sl : Slice) (cell : Option Nat), s.isShadow g = false →
    let a := if g.node.isSome && !sl.triggered then s.noteTrigger g else s
    let b := a.deductLanes g.crew g.core (((List.range 4).filter fun k => !sl.exited.getLsbD k).map fun k => 4 * sl.sid + k)
    let c := b.discardWaiting sl.sid
    let d := match cell with
      | some pa => c.signalCell pa 1 0 (decide (g.exitSpan < 2)) (.quad g.quadNo)
      | none => c
    ∃ m, s.exitSlice g sl cell = { d with ctxs := m } ∧
      (∀ x, Map.find? d.ctxs g.ctx = some x → m = d.ctxs.put g.ctx { x with free := x.free ++ [sl.attic] }) ∧
      (Map.find? d.ctxs g.ctx = none → m = d.ctxs)) ∧
  (∀ (s : State) (sid : Nat), (∀ c ∈ s.cmds, c.op ≠ .mq) → (∀ c ∈ s.cmds, c.sid = sid → c.waits = true → c.op ≠ .mtile ∧ c.cell = 0) →
    (s.discardWaiting sid).cmds = s.cmds.filter (fun c => !s.cmds.any fun h => h.sid == sid && h.waits && h.id == c.id) ∧
    (s.discardWaiting sid).mem = s.mem) ∧
  (∀ (s : State) (k core lane id : Nat) (b : Barrier), (s.core core).bars = [(id, b)] → b.owner = some k →
    let b' := { b with
      expect := b.expect - 1, arrived := if b.marks.contains lane then b.arrived - 1 else b.arrived, marks := NatSet.drop b.marks lane }
    let t := s.deductLane k core lane
    (b'.arrived < b'.expect → t.barrier core id = b' ∧ t.gangs = s.gangs) ∧
    (b'.expect ≤ b'.arrived → 0 < b'.arrived → t.barrier core id = nextPhase b' ∧ ∀ h ∈ t.gangs, h.waitsOn core id = false))

/-- 03 R60; 06 R129, R146; 07 R181: EXIT ends every slice of the gang, RET every slice whose link stack is empty with nothing spilled, and VEXIT every
slice whose four lanes have then all exited; the others go on, a VEXIT's without the lanes that it ends, which leave the barriers after those of
the slices that end (log 82's choice). The ended slices are in no gang, a gang without slices is no more, each cell of g3 is signalled by 1 with OK,
and each Attic goes back to its pool. -/
def Obligations.StrandsEnd : Prop :=
  (∀ o s g, Runs (.exit o) s g → Ends (.exit o) s g g.slices []) ∧
  (∀ o s g, Runs (.ret o) s g → (∀ sl ∈ g.slices, sl.link = [] → sl.spilled = 0) → (∃ sl ∈ g.slices, sl.link = []) →
    g.outstanding s.cycle = false →
    let back := fun (sl : Slice) => match sl.link with
      | [] => sl
      | l :: ls => { sl with
        link := ls, wb := (sl.wb + 56 - 2 * l.kS) % 56, lb := (sl.lb + g.lregs - 4 * l.kV % g.lregs) % g.lregs, pc := l.ret
        between := true, justRegion := false, unfin := none }
    Ends (.ret o) s g (g.slices.filter fun sl => sl.link.isEmpty) ((g.slices.filter fun sl => !sl.link.isEmpty).map back)) ∧
  (∀ o s g, Runs (.vexit o) s g →
    let c := s.rctx g
    let out := fun (sl : Slice) => { sl with exited := sl.exited ||| sl.act c o.pm, em := sl.em &&& ~~~ sl.act c o.pm }
    (∀ sl ∈ g.slices, (out sl).exited ≠ 0xF ∨ sl.exited = 0xF) →
      let lanes := g.slices.flatMap fun sl => ((List.range 4).filter fun k => (sl.act c o.pm).getLsbD k).map fun k => 4 * sl.sid + k
      let t := s.deductLanes g.crew g.core lanes
      exec (.vexit o) s = .next { t with cur := some (past g 12 true (g.slices.map out)), free := t.free + 1, performed := true }) ∧
  (∀ o s g, Runs (.vexit o) s g → g.outstanding s.cycle = false →
    let c := s.rctx g
    let full := fun (sl : Slice) => (sl.exited ||| sl.act c o.pm) == 0xF && sl.exited != 0xF
    let out := fun (sl : Slice) => { sl with
      exited := sl.exited ||| sl.act c o.pm, em := sl.em &&& ~~~ sl.act c o.pm
      pc := sl.pc + 12, between := true, justRegion := false, unfin := none }
    let lanes := (g.slices.filter fun sl => !full sl).flatMap fun sl =>
      ((List.range 4).filter fun k => (sl.act c o.pm).getLsbD k).map fun k => 4 * sl.sid + k
    (∃ sl ∈ g.slices, full sl = true) →
      Ends (.vexit o) s g (g.slices.filter full) ((g.slices.filter fun sl => !full sl).map out) fun t => t.deductLanes g.crew g.core lanes) ∧
  Claim.strandsAreGone

/-- A launch in flight and a node of it. -/
def Sys2Proof.Claim.InLaunch (s : State) (l n : Nat) (x : Launch) (y : Node) : Prop :=
  s.launches.find? (fun z => z.id == l) = some x ∧ Map.find? x.nodes n = some y

/-- 03 R68, R69; 06 R144; 18 R393 to R395: TRIGGER counts every member that was not yet triggered, once the fabric counter is 0; RESOLVE makes the slot
TRUE or FALSE by its register and starts or discards the commands that wait on it; EMIT queues the slices' records in position order and
goes on when all are queued, parking while a ring is full. -/
def Sys2Proof.Claim.triggerResolveAndEmitWords : Prop :=
  (∀ o s g, Runs (.trigger o) s g → Single s g → s.ackClear g.core 4 = true →
    let t := (g.slices.filter fun sl => g.node.isSome && !sl.triggered).foldl (fun s' _ => s'.noteTrigger g)
      (((s.drain g.gid).reconcileSource g.core 4).irrevocable g)
    exec (.trigger o) s = .next { t with
      cur := some { g with slices := (past g 4 true g.slices).slices.map fun sl => { sl with triggered := sl.triggered || g.node.isSome } }
      free := t.free + 1, performed := true }) ∧
  (∀ o s g, Runs (.resolve o) s g →
    let k := o.imm.toNat % 16
    let r : SReg := BitVec.ofNat 5 (o.imm.toNat / 16)
    let yes := fun (sl : Slice) => decide ((sl.readS (s.rctx g) r).v ≠ 0)
    let span := ((g.slices.filter yes).flatMap fun sl => (s.waitingOn sl.sid k).map Cmd.forkSpan).foldl max 0
    Untagged s g [r] → s.ackClear g.core span = true →
      let t := g.slices.foldl (fun s' sl => s'.resolveGuard sl.sid k (yes sl)) ((s.drain g.gid).reconcileSource g.core span)
      let h := t.cur.getD g
      exec (.resolve o) s = .next { t with
        cur := some (past h 4 false (h.slices.map fun sl => sl.setGuard k (if yes sl then .true else .false)))
        free := t.free + 1, performed := true }) ∧
  (∀ o s g, Runs (.emit o) s g → Untagged s g [o.sa, o.sb] → ∀ cs s1,
    s.checkSlices g (fun s' sl => s'.emitCheck g sl (sl.readS (s.rctx g) o.sa).v (sl.readS (s.rctx g) o.sb).v) = (cs, s1) → AllPass g cs →
      Single s1 g →
      let t := ((s1.drain g.gid).reconcileSource g.core 3).irrevocable g
      let h := t.cur.getD g
      let r := t.emitAll g (fun sl => (sl.readS (s.rctx g) o.sb).v) cs
      (r.1 = .done → exec (.emit o) s = .next { r.2.2 with cur := some (past h 4 true r.2.1), free := r.2.2.free + 1, performed := true }) ∧
      (∀ l n, r.1 = .full l n → exec (.emit o) s = .next { r.2.2 with cur := some { h with slices := r.2.1, park := .emit l n } })) ∧
  (∀ (s : State) (g : Gang) (sl : Slice) (a : Access) (q : Word64) (x : Launch) (y : Stage), s.emitTrap g sl q = none → s.emitStage g q = some (x, y) →
    y.cap ≤ s.occupied x.id y → s.emitOne g sl a q = (.full x.id y.node, s))

/-- 18 R384; 03 R69; 18 R389, R393: what the parts of TRIGGER, RESOLVE and EMIT do. A triggered member is noted, and with the last one the node
releases its trigger successors. The commands that wait on a slot of the strand get a TRUE guard, or are gone where they have no cell to
signal. A record goes from SA into the free ring slot at home and stands last in the stage's queue, one deeper than its strand. -/
def Sys2Proof.Claim.triggersGuardsAndRecords : Prop :=
  (∀ (s : State) (g : Gang), g.node = none → s.noteTrigger g = s) ∧
  (∀ (s : State) (g : Gang) (l n : Nat) (x : Launch) (y : Node), g.node = some (l, n) → InLaunch s l n x y →
    let ms := Map.get [] s.trig (65536 * l + n) ++ [Src.quad g.quadNo]
    let t := s.noteTrigger g
    t.trig = s.trig.put (65536 * l + n) ms ∧ t.mem = s.mem ∧ t.gangs = s.gangs ∧ (fieldOf y.tcb 0x38 8 ≠ ms.length → t.launches = s.launches) ∧
    (fieldOf y.tcb 0x38 8 = ms.length → ∀ m z, y.succ = [(m, true)] → m ≠ n → Map.find? x.nodes m = some z → z.started = false → z.remaining ≠ 0 →
      ∃ x' y' z', InLaunch t l n x' y' ∧ y' = { y with released := true } ∧ Map.find? x'.nodes m = some z' ∧
        z' = { z with remaining := z.remaining - 1, preds := z.preds ++ [n], srcs := z.srcs ++ ms })) ∧
  (∀ (s : State) (sid k : Nat), (∀ c ∈ s.cmds, c.op ≠ .mq) →
    let hit := fun (c : Cmd) => c.sid == sid && c.guard == some k && c.gstate == .unresolved
    ((s.resolveGuard sid k true).cmds = s.cmds.map (fun c => if hit c then { c with gstate := .true } else c) ∧ (s.resolveGuard sid k true).mem = s.mem) ∧
    ((∀ c ∈ s.cmds, hit c = true → c.op ≠ .mtile ∧ c.cell = 0) → s.resolveGuard sid k false =
      { s with cmds := s.cmds.filter fun c => !s.cmds.any fun h => hit h && h.id == c.id })) ∧
  (∀ (s : State) (g : Gang) (sl : Slice) (a : Access) (q : Word64) (x : Launch) (y : Stage) (k pa : Nat) (f : Leaf) (s1 : State),
    s.emitTrap g sl q = none → s.emitStage g q = some (x, y) → s.occupied x.id y < y.cap → s.freeSlot x.id y = some k →
    s.xlate g.core g.part g.ctx (y.ring.toNat + 64 * k) { w := true, user := false } = (.ok pa f, s1) →
    let r := s1.readAt g.core a.loc 64
    ∃ t, s.emitOne g sl a q = (.done, t) ∧ t.mem = (r.2.2.writeHome pa r.1).mem ∧ t.gangs = r.2.2.gangs ∧
      (s.stage? x.id y.node = some y → t.stage? x.id y.node = some { y with
        next := (k + 1) % y.cap, queue := y.queue ++ [{ slot := k, depth := sl.depth + 1, quad := g.quadNo }] }))

/-- 03, 06, 18: TRIGGER, RESOLVE and EMIT, and what their parts do. -/
def Obligations.TriggerResolveAndEmit : Prop := Claim.triggerResolveAndEmitWords ∧ Claim.triggersGuardsAndRecords

/-! ## Words of the engines (12 R260 to R264; 13 R294 to R300; 15 R328 to R345; 16 R357 to R368; 19 R413 to R421) -/

namespace Sys2Proof.Claim

/-- The block of registers that a command word reads from SS on. -/
def block (c : RCtx) (sl : Slice) (r : SReg) (k : Nat) : List Word64 := (List.range k).map fun n => (sl.readS c (r + BitVec.ofNat 5 n)).v

/-- A command word whose block is untagged and whose checks of every slice find nothing queues one command of each slice in position order,
once its fork's source has reconciled at the span; it ends the region. With a cell in some slice, or `more`, it is irrevocable (21 R436). -/
def Queues (i : Wide → Instr) (op : CmdOp) (flag : Wide → Bool) (k : Nat) (span : Wide → Nat) (more : State → Cmd → Bool)
    (extra : Wide → Slice → List Word64) (check : State → Cmd → Option Trap) : Prop :=
  ∀ o s g, Runs (i o) s g → Untagged s g ((List.range k).map fun n => o.ss + BitVec.ofNat 5 n) →
    let regs := fun (sl : Slice) => block (s.rctx g) sl o.ss k ++ extra o sl
    let cmd := fun (sl : Slice) => g.command sl op (flag o) o (regs sl)
    (∀ sl ∈ g.slices, check s (cmd sl) = none) → Single s g → s.ackClear g.core (span o) = true →
      let s1 := if g.slices.any (fun sl => more s (cmd sl) || (cmd sl).cell != 0) then s.irrevocable g else s
      let t := g.slices.foldl (fun s' sl => s'.queueCmd g sl op (flag o) o (regs sl)) ((s1.drain g.gid).reconcileSource g.core (span o))
      let h := t.cur.getD g
      exec (i o) s = .next { t with cur := some (past h 12 true h.slices), free := t.free + 1, performed := true }

/-- A slice asks for a number or a state of a key: the register after SS is outstanding until the reply. The query goes to the sequencer at once,
or behind the commands of its strand for the fabric that wait on a slot (03 R69). -/
def Asks (i : Wide → Instr) (cancel : Bool) : Prop :=
  ∀ o s g, Runs (i o) s g → Single s g → (∀ q ∈ s.queries, q.word ≠ s.free ∧ q.cmd.id < s.nextId) → (∀ sl ∈ g.slices, sl.mail = []) →
    (∀ sl ∈ g.slices, (sl.readS (s.rctx g) o.ss).tag = false ∧
      ∃ e, s.commTrap g.part g.ctx (sl.readS (s.rctx g) o.ss).v = .ok e ∧ e.failed = false) →
    ∃ t, exec (i o) s = .next t ∧ t.mem = s.mem ∧ t.queries.length = s.queries.length + g.slices.length ∧
      (∀ q ∈ s.queries, q ∈ t.queries) ∧
      (∃ g', t.cur = some g' ∧ g' = { g with slices := g'.slices } ∧ g'.slices.length = g.slices.length ∧
        ∀ (n : Nat) (sl sl' : Slice), g.slices[n]? = some sl → g'.slices[n]? = some sl' →
          (∀ k, Map.get {} sl'.scal k = Map.get {} sl.scal k) ∧
          sl' = { sl with scal := sl'.scal, pending := sl'.pending, pc := sl.pc + 12, between := true, justRegion := false, unfin := none }) ∧
      ∀ (n : Nat) (sl : Slice), g.slices[n]? = some sl → ∃ q, t.queries[s.queries.length + n]? = some q ∧
        q.key = (sl.readS (s.rctx g) o.ss).v ∧ q.cancel = cancel ∧ q.word = s.free ∧ q.reg = sl.scalKey (o.ss + 1) ∧ q.since = s.cycle ∧
        q.cmd.sid = sl.sid ∧
        (q.sent = false ↔ ∃ x ∈ s.cmds, x.sid = sl.sid ∧ x.op.engine = .fabric ∧ x.id < q.cmd.id ∧ (x.waits = true ∨ x.gstate = .false))

end Sys2Proof.Claim

/-- 12 R260, R263; 13 R295 to R297; 19 R415, R420, R421; 03 R69: CPY, CPY2, CPYG, FESET, MWLD, MTILE, MQ, COLL, FPUT and FGET queue a command of
each slice with its block, its rights and its guard: it takes its slot's state at issue, by the model's choice (log 69), where R69's head
says when it reaches the head of the strand's commands. A command with a TRUE guard or none, or one on an unresolved slot, stands at the
end of its queue; every other queue entry and all of memory stays. An MQ that may start is registered at its record's home instead: its record
is ready when its PRED is 0. -/
def Obligations.CommandWordsQueueCommands : Prop :=
  let fe := fun (o : Wide) => o.fn.getLsbD 0
  let no := fun (_ : Wide) => false
  let never := fun (_ : State) (_ : Cmd) => false
  let always := fun (_ : State) (_ : Cmd) => true
  let record := fun (s : State) (c : Cmd) => match s.run (readE c 0 (c.regs.getD 0 0) 128) with
    | (.ok bs, _, _) => (Tile.of bs).cell != 0
    | _ => false
  Queues .cpy .cpy fe 4 (fun _ => 1) never (fun _ _ => []) (fun _ c => c.copyTrap) ∧
  Queues .cpy2 .cpy2 fe 6 (fun _ => 1) never (fun _ _ => []) (fun _ c => c.copyTrap) ∧
  Queues .cpyg .cpyg fe 6 (fun _ => 1) never (fun _ _ => []) (fun _ c => c.copyTrap) ∧
  Queues .feset .feset fe 3 (fun _ => 1) never (fun _ _ => []) (fun _ c => c.copyTrap) ∧
  Queues .mwld .mwld no 6 (fun _ => 1) never (fun o sl => [o.t.setWidth 64, BitVec.ofNat 64 sl.chain]) (fun _ c => c.mwldTrap) ∧
  Queues .mtile .mtile no 1 (fun _ => 1) record (fun _ sl => [BitVec.ofNat 64 sl.chain])
    (fun _ c => c.recordTrap.orElse fun _ => c.chainTrap (c.regs.getD 1 0)) ∧
  Queues .mq .mq no 1 (fun o => o.fn.toNat % 8) always (fun o _ => [BitVec.ofNat 64 (o.fn.toNat % 8)]) (fun _ c => c.recordTrap) ∧
  Queues .coll .coll no 6 (fun _ => 4) always (fun _ _ => []) (fun s c => s.collTrap c) ∧
  Queues .fput .fput no 6 (fun _ => 4) always (fun _ _ => []) (fun s c => s.moveTrap c (c.regs.getD 5 0)) ∧
  Queues .fget .fget no 5 (fun _ => 4) always (fun _ _ => []) (fun s c => s.moveTrap c 0) ∧
  (∀ (s : State) (g : Gang) (sl : Slice) (op : CmdOp) (flag : Bool) (o : Wide) (regs : List Word64), (∀ c ∈ s.cmds, c.op ≠ .mq) →
    let c := g.command sl op flag o regs
    let c' := { c with id := s.nextId }
    let t := s.queueCmd g sl op flag o regs
    let u := { s with nextId := s.nextId + 1, cmds := s.cmds ++ [c'] }
    c.op = op ∧ c.sid = sl.sid ∧ c.ctx = g.ctx ∧ c.segs = sl.segs ∧ c.regs = regs ∧
      c.guard = (if o.aux.getLsbD 5 then some (o.aux.toNat % 16) else none) ∧
      c.gstate = (if o.aux.getLsbD 5 then sl.guardState (o.aux.toNat % 16) else .true) ∧
      (c.gstate ≠ .false → op ≠ .mq ∨ c.gstate = .unresolved ∨ u.mayStart c' = false ∨ u.engineWaits c'.unit = true →
        t.cmds = u.cmds ∧ t.nextId = u.nextId ∧ t.mem = s.mem ∧ t.gangs = s.gangs) ∧
      (c.gstate = .true → op = .mq → u.mayStart c' = true → u.engineWaits c'.unit = false → t = u.registerMq c')) ∧
  (∀ (s : State) (c : Cmd), c.mqLen = none →
    let t := s.registerMq c
    t.mqs = s.mqs ∨ ∃ m pa n, t.mqs = s.mqs ++ [m] ∧ m.pa = some pa ∧ m.cmd = { c with regs := [c.regs.getD 0 0, m.cmd.regs.getD 1 0] } ∧
      m.ready = (if t.predAt pa = 0 then some n else none) ∧ ∀ x ∈ t.cmds, x.id ≠ c.id)

/-- 13 R299, R300; 19 R418, R419: MCHAIN sets the chain length, or raises ENGINE_FAULT with it where the chain does not fit; MRPR gives the RPR of
the quadrant's engine and MSTAT its status word; CCANCEL and CSEQ ask the primary about a key, their result outstanding until the reply. -/
def Obligations.MatrixRegistersAndKeyQueries : Prop :=
  (∀ o s g, Runs (.mchain o) s g →
    (g.quad + o.imm.toNat ≤ 4 → Completes (.mchain o) s g fun sl sl' =>
      sl' = { sl with chain := o.imm.toNat, pc := sl.pc + 12, between := true, justRegion := false, unfin := none }) ∧
    (4 < g.quad + o.imm.toNat → exec (.mchain o) s = .next (s.trapped g ⟨0x0F, BitVec.ofNat 64 o.imm.toNat⟩))) ∧
  (∀ o s g, Runs (.mrpr o) s g → Completes (.mrpr o) s g (SetsSs o.ss ⟨(s.engine g.quadNo).rpr, false⟩)) ∧
  (∀ o s g, Runs (.mstat o) s g → Completes (.mstat o) s g fun sl sl' =>
    let q := g.quadNo
    let x := s.engine q
    let depth := (s.cmds.filter fun c => (c.op == .mwld || c.op == .mtile) && c.quad == q && !s.ctxSaved c.ctx).length +
      (s.tiles.filter fun r => r.stage == .acquire && r.got == 0 && r.head == q).length
    let busy := s.tiles.any fun r => decide (r.head ≤ q) && decide (q < r.head + r.got) &&
      (r.stage == .run || (r.cmd.op == .mwld && r.stage == .start))
    let ok := decide (q % 4 + sl.chain ≤ 4) && (List.range sl.chain).all fun i => (s.engine (q + i)).owner == some (q, sl.chain)
    SetsSs o.ss ⟨BitVec.ofNat 64 (x.tiles.toNat * 2 ^ 32) |||
      BitVec.ofNat 64 (depth * 65536 + (if busy then 256 else 0) + (if ok then 128 else 0) + sl.chain * 16 + if x.owner.isNone then 15 else x.fmt),
      false⟩ sl sl') ∧
  Asks .ccancel true ∧ Asks .cseq false

namespace Sys2Proof.Claim

/-- Registers of a block. -/
def vregs (v : VReg) (n : Nat) : List VReg := (List.range n).map fun i => v + BitVec.ofNat 6 i

/-- A slice after a word whose results an engine writes later: the destinations of its active lanes are outstanding under the word's number,
every value stays, and the region has ended. -/
def Expects (word lregs : Nat) (a : BitVec 4) (vs : List VReg) (sl sl' : Slice) : Prop :=
  (∀ k, Map.get {} sl'.lane k = Map.get {} sl.lane k) ∧ KeepsPending sl sl' ∧
    (∀ k, k < 4 → a.getLsbD k → ∀ v ∈ vs, ∃ p ∈ sl'.pending, p.targ = .lane (sl.laneRing lregs v) k ∧ p.n = word ∧ p.engine = true ∧ p.due = none) ∧
    sl' = { sl with lane := sl'.lane, pending := sl'.pending, pc := sl.pc + 12, between := true, justRegion := false, unfin := none }

/-- No result outstanding bears the number of the word at hand, and no slice has mail of a twin. -/
def Fresh (s : State) (g : Gang) : Prop := ∀ sl ∈ g.slices, sl.mail = [] ∧ ∀ p ∈ sl.pending, p.n ≠ s.free

/-- The lanes that a word of the gang acts in. -/
def opsOf (s : State) (g : Gang) (o : Wide) : List (Slice × Nat) := lanesIn g (s.rctx g) o

/-- A slice has an active lane. -/
def Acts (s : State) (g : Gang) (o : Wide) (sl : Slice) : Prop := sl.act (s.rctx g) o.pm ≠ 0

/-- A Larder word of lanes, its checks having found nothing and its core's request entries having room: one operation for each active lane, in
lane order, with its kind and arguments. -/
def LarderLanes (i : Wide → Instr) (kind : Wide → LarderKind) (dests : Wide → List VReg) (args : Wide → RCtx → Slice → Nat → List Word64)
    (srcs : Wide → List VReg) (base : Bool) (addr : Option (Wide → RCtx → Slice → Nat → Word64)) : Prop :=
  ∀ o s g, Runs (i o) s g → Single s g → Fresh s g →
    let c := s.rctx g
    (∀ sl ∈ g.slices, Acts s g o sl → (base = true → (sl.readS c o.ss).tag = false) ∧
      ∀ k, Active c o sl k → (∀ v ∈ srcs o, (sl.readV c v k).tag = false) ∧ ∀ f, addr = some f → sl.segs.larderTrap (f o c sl k) = none) →
    s.larderBusy g.core + (opsOf s g o).length ≤ 64 →
    ∃ t g', exec (i o) s = .next t ∧ t.cur = some g' ∧ g' = { g with slices := g'.slices } ∧ g'.slices.length = g.slices.length ∧
      (∀ (n : Nat) (sl sl' : Slice), g.slices[n]? = some sl → g'.slices[n]? = some sl' → Expects s.free g.lregs (sl.act c o.pm) (dests o) sl sl') ∧
      t.larder.length = s.larder.length + (opsOf s g o).length ∧
      ∀ (n : Nat) (p : Slice × Nat), (opsOf s g o)[n]? = some p → ∃ x, t.larder[s.larder.length + n]? = some x ∧ x.kind = kind o ∧ x.k = p.2 ∧
        x.word = s.free ∧ x.rings = (dests o).map (p.1.laneRing g.lregs) ∧ x.cmd.regs = args o c p.1 p.2 ∧ x.cmd.sid = p.1.sid ∧ x.stage = 0

/-- A Larder word of slices: one operation for each slice, its status to SD. -/
def LarderSlices (i : Wide → Instr) (kind : Wide → LarderKind) (k : Nat) (ready : Wide → State → Gang → Slice → Prop) : Prop :=
  ∀ o s g, Runs (i o) s g → Single s g → Fresh s g → Untagged s g ((List.range k).map fun n => o.ss + BitVec.ofNat 5 n) →
    (∀ sl ∈ g.slices, ready o s g sl) → s.larderBusy g.core + g.slices.length ≤ 64 →
    let d : SReg := BitVec.ofNat 5 o.aux.toNat
    ∃ t g', exec (i o) s = .next t ∧ t.cur = some g' ∧ g' = { g with slices := g'.slices } ∧ g'.slices.length = g.slices.length ∧
      (∀ (n : Nat) (sl sl' : Slice), g.slices[n]? = some sl → g'.slices[n]? = some sl' →
        (∀ x, Map.get {} sl'.scal x = Map.get {} sl.scal x) ∧ KeepsPending sl sl' ∧
        (d ≠ 0 → ∃ p ∈ sl'.pending, p.targ = .scalar (sl.scalKey d) ∧ p.n = s.free ∧ p.engine = true) ∧
        sl' = { sl with scal := sl'.scal, pending := sl'.pending, pc := sl.pc + 12, between := true, justRegion := false, unfin := none }) ∧
      t.larder.length = s.larder.length + g.slices.length ∧
      ∀ (n : Nat) (sl : Slice), g.slices[n]? = some sl → ∃ x, t.larder[s.larder.length + n]? = some x ∧ x.kind = kind o ∧ x.word = s.free ∧
        x.cmd.regs = block (s.rctx g) sl o.ss k ∧ x.cmd.sid = sl.sid ∧ x.stage = 0

/-- A lane's element as an operand, and SS plus it. -/
def arg (v : VReg) (c : RCtx) (sl : Slice) (k : Nat) : Word64 := BitVec.ofNat 64 (sl.readV c v k).v.toNat
def ssPlus (o : Wide) (v : VReg) (c : RCtx) (sl : Slice) (k : Nat) : Word64 :=
  BitVec.ofNat 64 ((sl.readS c o.ss).v.toNat + (sl.readV c v k).v.toNat)

end Sys2Proof.Claim

/-- 16 R357 to R368: each Larder word puts its operations into the core's request entries: GAPP, GREAD with SS + offset, GMERGE with SS + 128 times
the lane, the lane words one for each active lane with its operands, GSEAL and GOPEN one for each slice with its block. -/
def Obligations.LarderWordsIssueOperations : Prop :=
  LarderLanes .gapp (fun _ => .append) (fun o => vregs o.vd 2) (fun o c sl k => [ssPlus o o.va c sl k]) (fun o => [o.va]) true
    (some fun o => ssPlus o o.va) ∧
  LarderLanes .gconn (fun o => .connect (o.fn.getLsbD 0)) (fun o => vregs o.vd 3)
    (fun o c sl k => ([o.va, o.vb] ++ vregs o.vc (if o.fn.getLsbD 0 then 2 else 6)).map fun v => arg v c sl k)
    (fun o => [o.va, o.vb] ++ vregs o.vc (if o.fn.getLsbD 0 then 2 else 6)) false none ∧
  (let at_ := fun (o : Wide) (c : RCtx) (sl : Slice) (k : Nat) => (BitVec.ofNat 64 ((sl.readS c o.ss).v.toNat + 128 * (4 * sl.pos + k)) : Word64)
   LarderLanes .gmerge (fun o => .merge (o.imm.toNat % 256)) (fun o => vregs o.vd 3)
    (fun o c sl k => [arg o.va c sl k, BitVec.ofNat 64 ((sl.readV c o.vb k).v.toNat + (sl.readV c (o.vb + 1) k).v.toNat * 2 ^ 32), arg o.vc c sl k,
      at_ o c sl k]) (fun o => [o.va, o.vb, o.vb + 1, o.vc]) true (some at_)) ∧
  LarderLanes .grw (fun _ => .reweight) (fun o => vregs o.vd 4) (fun o c sl k => [arg o.va c sl k, arg o.vb c sl k]) (fun o => [o.va, o.vb]) false none ∧
  LarderLanes .gret (fun o => .retire (o.fn.getLsbD 0)) (fun o => [o.vd]) (fun o c sl k => [arg o.va c sl k]) (fun o => [o.va]) false none ∧
  LarderLanes .gread (fun o => .read (o.fn.getLsbD 0)) (fun o => vregs o.vd 2) (fun o c sl k => [arg o.va c sl k, ssPlus o o.vb c sl k])
    (fun o => [o.va, o.vb]) true (some fun o => ssPlus o o.vb) ∧
  LarderLanes .ghold (fun _ => .hold) (fun o => vregs o.vd 2) (fun o c sl k => [arg o.va c sl k]) (fun o => [o.va]) false none ∧
  LarderLanes .gdrop (fun _ => .drop) (fun o => vregs o.vd 2) (fun o c sl k => [arg o.va c sl k]) (fun o => [o.va]) false none ∧
  LarderSlices .gseal (fun _ => .seal) 1 (fun _ _ _ _ => True) ∧
  LarderSlices .gopen (fun o => .opening (o.fn.getLsbD 0)) 4
    (fun o s g sl => s.fenced g.part 4 ((sl.readS (s.rctx g) o.ss).v.toNat / 256 % 16) = false)

/-- 15 R328 to R335, R342, R344: RTRACE starts one ray and RTEX one footprint for each active lane, their results outstanding; RMARCH queues one
command for each slice with an active lane; RCAND reads a candidate of the lane's pending ray with the batch's size, RVERD gives a verdict
on one, RHIT reads the best or the final hit. That RVERD takes its values whatever their tags, and that RHIT answers the best hit of a ray
that ended POISONED, are the model's choices (log 44, DEDUCED). -/
def Obligations.RayWordsStartAndAnswer : Prop :=
  (∀ o s g, Runs (.rtrace o) s g → Fresh s g →
    let c := s.rctx g
    (∀ sl ∈ g.slices, Acts s g o sl →
      sl.saveTrap c o.pm (sblock o.ss 2) (sl.readS c o.ss).v (sl.readS c (o.ss + 1)).v none = none) →
    s.raysInFlight g.core + (opsOf s g o).length ≤ 256 →
    ∃ t g', exec (.rtrace o) s = .next t ∧ t.cur = some g' ∧ g' = { g with slices := g'.slices } ∧ g'.slices.length = g.slices.length ∧
      (∀ (n : Nat) (sl sl' : Slice), g.slices[n]? = some sl → g'.slices[n]? = some sl' →
        Expects s.free g.lregs (sl.act c o.pm) (vregs o.vd 5) sl sl') ∧
      t.rays.length = s.rays.length + (opsOf s g o).length ∧
      ∀ (n : Nat) (p : Slice × Nat), (opsOf s g o)[n]? = some p → ∃ r, t.rays[s.rays.length + n]? = some r ∧ r.phase = .fresh ∧ r.k = p.2 ∧
        r.lix = 4 * p.1.pos + p.2 ∧ r.cmd.sid = p.1.sid ∧ r.cmd.regs = [(p.1.readS c o.ss).v, (p.1.readS c (o.ss + 1)).v] ∧
        r.o = (vregs o.va 3).map (fun v => (p.1.readV c v p.2).v) ∧ r.d = (vregs o.vb 3).map (fun v => (p.1.readV c v p.2).v) ∧
        r.tmin = (p.1.readV c o.vc p.2).v ∧ r.tmax = (p.1.readV c (o.vc + 1) p.2).v ∧ r.flags = o.imm ∧ r.best = none ∧ r.cands = [] ∧
        r.rings = (vregs o.vd 5).map (p.1.laneRing g.lregs) ∧ r.word = s.free) ∧
  (∀ o s g, Runs (.rtex o) s g → Fresh s g →
    let c := s.rctx g
    (∀ sl ∈ g.slices, Acts s g o sl → (sl.readS c o.ss).tag = false) →
    ∃ t g', exec (.rtex o) s = .next t ∧ t.cur = some g' ∧ g' = { g with slices := g'.slices } ∧ g'.slices.length = g.slices.length ∧
      (∀ (n : Nat) (sl sl' : Slice), g.slices[n]? = some sl → g'.slices[n]? = some sl' →
        Expects s.free g.lregs (sl.act c o.pm) (vregs o.vd 4) sl sl') ∧
      t.footprints.length = s.footprints.length + (opsOf s g o).length ∧
      ∀ (n : Nat) (p : Slice × Nat), (opsOf s g o)[n]? = some p → ∃ f, t.footprints[s.footprints.length + n]? = some f ∧ f.k = p.2 ∧
        f.cmd.regs = [(p.1.readS c o.ss).v] ∧ f.diff = o.fn.getLsbD 0 ∧ f.uv = (vregs o.va 2).map (fun v => (p.1.readV c v p.2).v) ∧
        f.xs = (vregs o.vb 2 ++ vregs o.vc 2).map (fun v => (p.1.readV c v p.2).v) ∧
        f.rings = (vregs o.vd 4).map (p.1.laneRing g.lregs) ∧ f.word = s.free) ∧
  (∀ o s g, Runs (.rmarch o) s g → Fresh s g → Single s g →
    let c := s.rctx g
    (∀ sl ∈ g.slices, Acts s g o sl → marchTrap g c o sl = none) → s.raysInFlight g.core + (opsOf s g o).length ≤ 256 →
      o.aux.getLsbD 5 = false → (∀ x ∈ s.cmds, x.op ≠ .mq) → ∃ t g', exec (.rmarch o) s = .next t ∧ t.cur = some g' ∧
        g' = { g with slices := g'.slices } ∧ g'.slices.length = g.slices.length ∧
        (∀ (n : Nat) (sl sl' : Slice), g.slices[n]? = some sl → g'.slices[n]? = some sl' →
          Expects s.free g.lregs (sl.act c o.pm) (vregs o.vd 2) sl sl') ∧
        ∃ cs, t.cmds = s.cmds ++ cs ∧ cs.length = (g.slices.filter fun sl => sl.act c o.pm != 0).length ∧
          ∀ x ∈ cs, x.op = .march ∧ x.guard = none ∧ ∃ sl ∈ g.slices, x.sid = sl.sid ∧ x.regs.take 5 = block c sl o.ss 5) ∧
  (let slots := fun (i : Wide → Instr) (regs : Nat) (vals : Wide → State → Gang → Slice → Nat → List Word32) =>
    ∀ o s g, Runs (i o) s g → (∀ sl ∈ g.slices, Acts s g o sl → (sl.readS (s.rctx g) o.ss).tag = false) →
      ∃ t g', exec (i o) s = .next t ∧ t.cur = some g' ∧ g' = { g with slices := g'.slices } ∧ g'.slices.length = g.slices.length ∧
        t.rays = s.rays ∧ ∀ (n : Nat) (sl sl' : Slice), g.slices[n]? = some sl → g'.slices[n]? = some sl' →
          LanesDone g.lregs (sl.act (s.rctx g) o.pm) (fun k =>
            { regs := (vregs o.vd regs).zip ((vals o s g sl k).map fun w => ⟨w, false⟩) }) sl
            { sl' with between := sl.between } ∧ sl'.between = true
   slots .rcand 5 (fun o s g sl k =>
     let cs := ((s.pendingRay g sl (sl.readS (s.rctx g) o.ss).v k).map Ray.cands).getD []
     candWords cs[o.imm.toNat]? cs.length) ∧
   slots .rhit 3 (fun o s g sl k =>
     let save := (sl.readS (s.rctx g) o.ss).v
     match s.pendingRay g sl save k, s.finalRay g sl save k with
     | some r, _ | none, some r =>
       match if r.code = 1 ∨ r.code = 3 then none else r.best with
       | some h => [h.geom, h.user, BitVec.ofNat 32 ((if h.second then 1 else 0) + (if h.front then 2 else 0) + (if h.proc then 4 else 0))]
       | none => [0xFFFFFFFF, 0xFFFFFFFF, 0]
     | none, none => [0xFFFFFFFF, 0xFFFFFFFF, 0])) ∧
  (∀ o s g, Runs (.rverd o) s g → (∀ sl ∈ g.slices, Acts s g o sl → (sl.readS (s.rctx g) o.ss).tag = false) →
    let c := s.rctx g
    let t := (opsOf s g o).foldl (fun s' p =>
        let v := (p.1.readV c o.va p.2).v.toNat
        match s'.pendingRay g p.1 (p.1.readS c o.ss).v p.2 with
        | some r =>
          if v < 4 ∧ o.imm.toNat < r.cands.length then
            s'.setRay { r with verdicts := r.verdicts.put o.imm.toNat (v, (p.1.readV c o.vb p.2).v, (p.1.readV c o.vc p.2).v) }
          else s'
        | none => s') (if opsOf s g o = [] then s else ((s.drain g.gid).reconcileSource g.core 1).reconcileDest g.core 1)
    let h := t.cur.getD g
    exec (.rverd o) s = .next { t with cur := some (past h 12 true h.slices), free := t.free + 1, performed := true })

/-! ## Steps of the strand engine (05, 06, 08, 10, 11) -/

/-- A step answers this next state. -/
def Sys2Proof.Claim.Goes (e : Instr) (s t : State) : Prop := exec e s = .next t

/-- A gang among the machine's gangs, by its number. -/
def Sys2Proof.Claim.Has (s : State) (gid : Nat) (g : Gang) : Prop := s.gangs.find? (fun h => h.gid == gid) = some g

/-- A result of word `n` that returns after a variable time, from no engine. -/
def Sys2Proof.Claim.returns (n : Nat) (p : Pending) : Bool := p.n == n && p.due.isNone && !p.engine

/-- A gang that leaves its park, which a settle marker it carries may still hold. -/
def Sys2Proof.Claim.unparked (s : State) (g : Gang) : Gang := { g with park := if g.sbit && g.outstanding s.cycle then .settle else .none }

/-- 08 R188, R191, R193 to R195; 06 R134; 11 R249: what a word still owes returns together and is outstanding no more, registers alone
changing; a gang wakes when what it waits for has come about: its outstanding results, its granules, room in a stage's queue; its
branch bubble ends with its cycle; the oldest gang that has been ready for 256 cycles is issued next; a range walk, and the confirmation
of every unit, end their parks. -/
def Sys2Proof.Claim.resultsReturnAndGangsWake : Prop :=
  ∀ (s : State) (gid : Nat) (g : Gang), Has s gid g →
    (∀ n, (g.slices.any fun sl => sl.pending.any (returns n)) → (∀ sl ∈ g.slices, ∀ p ∈ sl.pending, returns n p → p.load = none) →
      Goes (.resultReturn gid n) s (s.putGang (g.mapSlices fun sl => { sl with pending := sl.pending.filter fun p => !returns n p }))) ∧
    (∀ n, (g.slices.any fun sl => sl.pending.any (returns n)) → ∃ t g', Goes (.resultReturn gid n) s t ∧
      t.gangs = (s.putGang g').gangs ∧ t.mem = s.mem ∧
      Each (fun sl sl' => (∀ p ∈ sl'.pending, returns n p = false) ∧ sl'.masks = sl.masks ∧ sl'.pc = sl.pc) g g') ∧
    (g.framed = false →
      (g.park = .settle ∧ g.outstanding s.cycle = false) ∨ (∃ gs, g.park = .granules gs ∧ ∀ x ∈ gs, x ∉ (s.core g.core).empty) ∨
        (∃ l n, g.park = .emit l n ∧ s.hasRoom l n = true) → Goes (.gangReady gid) s (s.putGang { g with park := .none })) ∧
    (0 < g.bubble → g.bubble ≤ s.cycle → Goes (.branchBubbleEnd gid) s (s.putGang { g with bubble := 0 })) ∧
    (∀ q, g ∈ s.readyGangs q → 256 ≤ g.wait → ∃ h ∈ s.readyGangs q, 256 ≤ h.wait ∧
      (∀ x ∈ s.readyGangs q, 256 ≤ x.wait → h.age ≤ x.age) ∧
      Goes (.fairnessStarvation q) s (s.setQuad q { s.quad q with due := some h.gid })) ∧
    (g.park = .walk → Goes (.rangeWalkDone gid) s (s.putGang (unparked s g))) ∧
    (g.park = .tlbi → Goes (.tlbiConfirm gid) s (s.putGang (unparked s g)))

/-- A gang out of the others for its word, and back: a word that has been performed leaves its buffer, and a gang that goes on elsewhere than behind
its word takes the branch bubble. -/
def Sys2Proof.Claim.out (s : State) (g : Gang) : State :=
  { s with gangs := s.gangs.filter (fun h => h.gid != g.gid), cur := some g, performed := false, late := false }
def Sys2Proof.Claim.back (s : State) (g : Gang) : State :=
  let n := ((bufferedWord g.buf g.pc).map List.length).getD 1
  (s.dropWord g.pc).checkin (if s.performed || s.curPc != g.pc then some (g.pc + BitVec.ofNat 64 (4 * n)) else none)

/-- 06 R138, 10 R222: the reply of a CELLINIT's home slices: on a cell that a strand waits on it is refused whole, with PROTECTION and the
cell's address; else every cell is set and the word is done. WAITER is read as the strands that the machine knows to be parked on the cell at
the reply, by the model's choice (log 27, DEDUCED). A trap is taken, or is a double
trap, when the last result of its gang has returned. -/
def Sys2Proof.Claim.repliesAndTrapEntries : Prop :=
  ∀ (s : State) (gid : Nat) (g : Gang), Has s gid g →
    (∀ front back pa n a, g.park = .cellinit (front ++ (pa, n, a) :: back) → (∀ x ∈ front, x.1 ∉ s.waitedCells) → pa ∈ s.waitedCells →
      Goes (.cellinitReply gid) s (Claim.back ((out s g).trapped { g with park := .none, waiting := false } ⟨0x07, a⟩) g)) ∧
    (∀ cells, g.park = .cellinit cells → (∀ x ∈ cells, x.1 ∉ s.waitedCells) →
      let s1 := cells.foldl (fun s x => s.initCell x.1 x.2.1) s
      ∃ g', Each (EndsAt 4) g g' ∧
        Goes (.cellinitReply gid) s (Claim.back ((out s1 g).wordDone { g' with park := .none, waiting := false }) g)) ∧
    (∀ cause val, g.park = .trap cause val → g.outstanding s.cycle = false → (∀ sl ∈ g.slices, CanTrap sl) → ∃ g',
      Goes (.trapEntry gid) s (Claim.back { out s g with cur := some { g' with park := .none, buf := [], waiting := false } } g) ∧
        Each (fun sl sl' => sl' = { sl with
          tsave := some { wordAt := sl.pc, regionpc := sl.regionpc, lives := sl.lives, livev := sl.livev, snap := sl.snap, replay := sl.unfin, noteMark := sl.noteMark }
          tcause := cause.setWidth 64, tval := val, tepc := sl.pc, ppriv := sl.priv, priv := true, pc := sl.tvec
          between := true, justRegion := false, unfin := none }) g g') ∧
    (∀ cause val front sl back, g.park = .trap cause val → g.outstanding s.cycle = false → g.slices = front ++ sl :: back →
      (∀ x ∈ front, CanTrap x) → ¬ CanTrap sl →
      Goes (.trapEntry gid) s (Claim.back { out s g with
        cur := some { g with park := .dead, waiting := false }
        ctxFaults := s.ctxFaults ++
          [{ part := g.part, ctx := g.ctx, cause := cause, tepc := sl.pc, tval := val, core := g.core, op8 := opcodeAt g }] } g))

/-- 05, 06, 08, 10, 11: the steps of the strand engine that return results, wake gangs, answer CELLINIT and enter traps. -/
def Obligations.ResultsReturnGangsWakeAndTrapsEnter : Prop := Claim.resultsReturnAndGangsWake ∧ Claim.repliesAndTrapEntries

/-- The sids of an original gang's slices, and whether its gangs wait at different places. -/
def Sys2Proof.Claim.sidsOf (s : State) (og : Nat) : List Nat := (s.gangs.filter fun g => g.og == og).flatMap Gang.sids

/-- A slice of a frame that a pre-emption writes: at its region's entry with the entry's masks and reconvergence stack, its exited lanes
gone, between regions, nothing outstanding; it holds the live-in masks of the region at which it resumes. -/
def Sys2Proof.Claim.AtEntry (sl sl' : Slice) : Prop :=
  sl'.pc = sl.regionpc ∧ sl'.em = sl.snap.em &&& ~~~sl.exited ∧ sl'.masks = sl.snap.masks ∧ sl'.recon = sl.snap.recon ∧
    sl'.between = true ∧ sl'.justRegion = false ∧ sl'.pending = [] ∧ sl'.unfin = none ∧ sl'.sid = sl.sid ∧ sl'.link = sl.link ∧
    sl'.guards = sl.guards ∧ sl'.tsave = sl.tsave ∧ sl'.keep = some (sl.lives, sl.livev) ∧
    (∀ k < 8, Map.get {} sl'.scal k = Map.get {} sl.scal k) ∧
    ∀ k < 24, sl.lives.getLsbD k → Map.get {} sl'.scal (8 + (sl.wb + k) % 56) = Map.get {} sl.scal (8 + (sl.wb + k) % 56)

/-- A slice of a frame as it is restored: where it stood, with g1 to g7, in a slot of the quadrant, nothing outstanding; with the masks of its
region its live-ins are what they were and every other register of s0 to s23 that is no hidden group's reads 0. -/
def Sys2Proof.Claim.Restored (lregs : Nat) (slots : List Nat) (sl sl' : Slice) : Prop :=
  sl'.pc = sl.pc ∧ sl'.em = sl.em ∧ sl'.link = sl.link ∧ sl'.slot ∈ slots ∧ sl'.pending = [] ∧ sl'.keep = none ∧
    (∀ k < 8, Map.get {} sl'.scal k = Map.get {} sl.scal k) ∧
    (sl.keep = none → sl'.scal = sl.scal ∧ sl'.lane = sl.lane) ∧
    ∀ lives livev, sl.keep = some (lives, livev) → ∀ k < 24,
      (lives.getLsbD k → Map.get {} sl'.scal (8 + (sl.wb + k) % 56) = Map.get {} sl.scal (8 + (sl.wb + k) % 56)) ∧
      (lives.getLsbD k = false → 8 + (sl.wb + k) % 56 ∉ sl.hiddenScal lregs → Map.get {} sl'.scal (8 + (sl.wb + k) % 56) = {})

/-- 10 R228, R229; 01 R25, R26; 18 R388: a pre-emption that is due discards the region's work and leaves the gang a frame at its region's entry, its
live-ins kept; one that cannot be taken yet is noted; one that is not due changes nothing; a step of the debugger whose word has issued ends
with it (10 R233). A gang that waits at REGANG gives up its slots only here, as it stands, by the model's choice (log 30), where R228 calls it
held as a frame already; which gang gives way is as log 68 reads R388, and a save as log 48 reads R230. -/
def Sys2Proof.Claim.preemptionLeavesFrames : Prop :=
  ∀ (s : State) (gid : Nat) (g : Gang), Has s gid g → g.framed = false →
    (s.preemptDue g = true → s.mayPreempt g = true → s.canPreempt g = true → g.movable false = false → ∃ t g', Goes (.preempt gid) s t ∧
      t.gangs = (s.putGang g').gangs ∧ Each AtEntry { g with
        park := .none, waiting := false, framed := true, ready := true, pinned := true, srcs := [], buf := [], queued := some s.nextId
        preempt := false, cleared := false, bubble := 0, passStop := false
        stopped := g.stopped || (g.stepOne && g.issuedWord), stepOne := g.stepOne && !g.issuedWord } g') ∧
    (s.preemptDue g = true → (∀ id, g.park ≠ .regang id) → s.mayPreempt g = false → Goes (.preempt gid) s (s.putGang { g with preempt := true })) ∧
    (∀ id, s.preemptDue g = true → g.park = .regang id →
      Goes (.preempt gid) s (s.putGang { g with framed := true, ready := true, pinned := !g.movable false })) ∧
    (s.preemptDue g = false → Goes (.preempt gid) s s)

/-- 01 R26, R28; 05 R95; 10 R218; 18 R386: a released frame whose turn it is resumes on a quadrant, the youngest there, with a new floor for its
fetches; the gangs of an original gang go on from REGANG once all of them wait, with REGANGFAIL in every slice when they wait at different
places. -/
def Sys2Proof.Claim.framesResumeAndRegang : Prop :=
  (∀ (s : State) (gid q : Nat) (g : Gang), Has s gid g → g.framed = true → g.ready = true → g.park = .none → g.frameBad = false →
    s.halted g = false → s.mayServe (.frame g) q = true → ∃ t g',
      Goes (.strandResume gid q) s t ∧ t.gangs = (s.putGang g').gangs ∧ t.mem = s.mem ∧
        Each (Restored g.lregs (s.freeSlots q)) { g with
          core := q / 4, quad := q % 4, framed := false, ready := false, queued := none, srcs := [], buf := [], age := s.nextId, wait := 0
          floor := s.nextId + 1, icinvs := [], floors := [] } g') ∧
  (∀ (s : State) (og : Nat), (∃ g ∈ s.gangs, g.og = og) → (∀ g ∈ s.gangs, g.og = og → ∃ id, g.park = .regang id) → ∃ t,
    Goes (.regangRelease og) s t ∧ (∀ g, g.og ≠ og → (g ∈ t.gangs ↔ g ∈ s.gangs)) ∧
      (∀ g ∈ t.gangs, g.og = og → g.park = .none) ∧ (∀ k, k ∈ sidsOf t og ↔ k ∈ sidsOf s og) ∧
      ((∃ g ∈ s.gangs, ∃ h ∈ s.gangs, g.og = og ∧ h.og = og ∧ (g.park, g.pc) ≠ (h.park, h.pc)) →
        ∀ g ∈ t.gangs, g.og = og → ∀ sl ∈ g.slices, sl.regangfail = true))

/-- 10 R225, R230; 18 R397: a context fault discards all the work of its context at once and of no other; a save holds every gang of the
context as a frame once its engines stand at their preservation points; a restore lets the frames resume, each from the core that it
was saved on. What a fault and a save leave of the engines' work is as log 48 reads it, by the model's choice. -/
def Sys2Proof.Claim.contextsFaultSaveAndRestore : Prop :=
  (∀ (s : State) (f : CtxFault), s.ctxFaults.find? (fun x => x.part == f.part && x.ctx == f.ctx && x.cause == f.cause) = some f → ∃ t,
    Goes (.contextFault f.part f.ctx f.cause) s t ∧ t.gangs = s.gangs.filter (fun g => g.ctx != f.ctx) ∧
      t.cur = s.cur.filter (fun g => g.ctx != f.ctx) ∧ t.cmds = s.cmds.filter (fun c => c.ctx != f.ctx) ∧
      t.spawns = s.spawns.filter (fun e => e.ctx != f.ctx) ∧ t.launches = s.launches.filter (fun x => x.ctx != f.ctx) ∧
      t.tiles = s.tiles.filter (fun r => r.cmd.ctx != f.ctx) ∧ t.copies = s.copies.filter (fun r => r.cmd.ctx != f.ctx) ∧
      t.faults = s.faults.filter (fun x => x.ctx != f.ctx) ∧ ∀ x ∈ t.ctxFaults, x.ctx ≠ f.ctx) ∧
  (∀ (s : State) (part ctx : Nat) (c : Ctx), Map.find? s.ctxs ctx = some c → ctx / 4096 = part → c.saved = false → ∃ t c',
    Goes (.contextSave part ctx) s t ∧ Map.find? t.ctxs ctx = some c' ∧ (c'.saving = true ∨ c'.saved = true) ∧
      (c'.saved = true → ∀ g ∈ t.gangs, g.ctx = ctx → g.framed = true)) ∧
  (∀ (s : State) (part ctx : Nat) (c : Ctx), Map.find? s.ctxs ctx = some c → ctx / 4096 = part → c.saved = true → ∃ t,
    Goes (.contextRestore part ctx) s t ∧
      (t = s ∨ ∃ c', Map.find? t.ctxs ctx = some c' ∧ c'.saving = false ∧ c'.saved = false) ∧
      ((∀ e ∈ s.crews, e.2.ctx ≠ ctx) → (∀ g ∈ s.gangs, g.ctx = ctx → g.crew = none) →
        t.gangs = s.gangs.map fun g => if g.ctx = ctx then { g with srcs := g.srcs ++ [.core g.core] } else g))

/-- 01, 05, 10: pre-emption, resumption and joins, and the faults, saves and restores of contexts, with the model's choices of logs 30, 48 and 68. -/
def Obligations.FramesAndContexts : Prop :=
  Claim.preemptionLeavesFrames ∧ Claim.framesResumeAndRegang ∧ Claim.contextsFaultSaveAndRestore

/-! ## The service of translation faults (11 R251 to R257) -/

/-- A translation fault in service. -/
def Sys2Proof.Claim.InService (s : State) (tok : Nat) (f : FaultRec) : Prop := s.faults.find? (fun x => x.token == tok) = some f

/-- 11 R252: an entry with POOL = 1 takes a frame of its size from the partition's pool: the frame is zeroed, the entry gets V = 1, POOL = 0
and the frame, in every entry of its group that held the same, and the waiting accesses are made again; with an empty pool the host is
asked, with WHY 2. R252 writes the entry: that the group's other entries that held the same are written too, and that an entry that has changed
meanwhile is tried again, are the model's choices (log 49, DEDUCED). -/
def Sys2Proof.Claim.poolsServeFaults : Prop :=
  ∀ (s : State) (tok : Nat) (f : FaultRec), InService s tok f → f.pool = true → f.stage = .new →
    let e := s.wordAt f.entryAt 8
    let n := 4096 * 2 ^ leafT e
    let es := entryGroup f.entryAt f.level (leafT e)
    (e % 2 = 1 ∨ e / 2 ^ 9 % 2 = 0 → Goes (.poolAllocation tok) s (s.resolveFault f)) ∧
    (e % 2 = 0 → e / 2 ^ 9 % 2 = 1 → takeFrame (leafT e) (s.part f.part).pools = none → Goes (.poolAllocation tok) s (s.setFault tok fun x => { x with why := 2, pool := false })) ∧
    (∀ base pools, e % 2 = 0 → e / 2 ^ 9 % 2 = 1 → takeFrame (leafT e) (s.part f.part).pools = some (base, pools) → ∃ t : State,
      Goes (.poolAllocation tok) s (t.replayEntries (s.sameEntries f.entryAt f.level (leafT e))) ∧ t.gangs = s.gangs ∧ t.parts = (s.setPart f.part { s.part f.part with pools := pools }).parts ∧
        t.wordAt f.entryAt 8 % 2 = 1 ∧ t.wordAt f.entryAt 8 / 2 ^ 9 % 2 = 0 ∧
        t.wordAt f.entryAt 8 / 2 ^ 12 % 2 ^ 41 = (base / (4096 * 2 ^ leafT e) * 2 ^ (leafT e + 1) + (2 ^ leafT e - 1)) % 2 ^ 41 ∧
        (∀ x ∈ es, s.wordAt x 8 = e → t.wordAt x 8 = t.wordAt f.entryAt 8) ∧
        ∀ a, (∀ x ∈ es, s.wordAt x 8 = e → a < x ∨ x + 8 ≤ a) → t.byteAt a = if base ≤ a ∧ a < base + n then 0 else s.byteAt a)

/-- FLOGSIZE, FLOGTAIL, FLOGHEAD and FLOGTMO of the fault's partition. -/
def Sys2Proof.Claim.logReg (s : State) (f : FaultRec) (off : Nat) : Nat := (s.reg f.part off).toNat

/-- A gang parked on a fault, whose record's service it alone waits on. -/
def Sys2Proof.Claim.ParkedOn (s : State) (f : FaultRec) (g : Gang) (va : Nat) : Prop :=
  f.units = [.strand g.gid] ∧ g.park = .fault f.token va none ∧ Has s g.gid g

/-- 11 R251, R253, R254; 10 R226, R227: a fault that firmware does not serve is written to the fault log at FLOGTAIL, which moves on, and
FLOGVEC is raised (pending where its MSI-X entry is masked, log 78); with no log it is unresolvable, with a full one it waits; FRESP with RETRY drops the cached translations of the page
and makes the accesses again; FRESP with FAIL, and FLOGTMO without an answer, fail them: a parked strand takes PAGE_FAULT with the address
of its lowest unfinished part. -/
def Sys2Proof.Claim.faultLogAnswersAndTimeouts : Prop :=
  (∀ (s : State) (tok : Nat) (f : FaultRec), InService s tok f → f.stage ≠ .logged → s.firmwareServes f = false →
    let size := logReg s f 0x40008
    let tail := logReg s f 0x40018
    (size = 0 → Goes (.faultLogWrite tok) s (s.failFault f)) ∧
    (size ≠ 0 → (tail + 1) % size = logReg s f 0x40010 → f.stage = .new →
      Goes (.faultLogWrite tok) s (s.setFault tok fun x => { x with stage := .waiting, since := s.cycle })) ∧
    (size ≠ 0 → (tail + 1) % size = logReg s f 0x40010 → f.stage ≠ .new → Goes (.faultLogWrite tok) s s) ∧
    (size ≠ 0 → (tail + 1) % size ≠ logReg s f 0x40010 → ∃ t, Goes (.faultLogWrite tok) s t ∧
      t.host = Map.setMany 0 s.host (logReg s f 0x40000 + 32 * tail) f.bytes ∧ logReg t f 0x40018 = ((tail + 1) % size) % 2 ^ 64 ∧
      t.mem = s.mem ∧ t.gangs = s.gangs ∧
      (let v := logReg s f 0x40030
       t.msix = s.msix ++ (if 1 ≤ v ∧ v < 64 ∧ v ∈ (s.part f.part).unmasked then [(f.part, v)] else []) ∧
         (1 ≤ v → v < 64 → v ∉ (s.part f.part).unmasked → v ∈ (t.part f.part).pending)) ∧
      ∀ x ∈ t.faults, x.token = tok → x.stage = .logged ∨ x ∈ s.faults)) ∧
  (∀ (s : State) (tok : Nat) (f : FaultRec), InService s tok f → f.stage ≠ .new → f.since + 3000000 * logReg s f 0x40020 ≤ s.cycle →
    Goes (.faultTimeout tok) s (s.failFault f)) ∧
  (∀ (s : State) (part : Nat) (token : BitVec 32) (f : FaultRec), s.tokenFault part token = some f →
    Goes (.frespRetry part token) s ((s.tlbRemove f.ctx (some f.va)).resolveFault f) ∧ Goes (.frespFail part token) s (s.failFault f)) ∧
  (∀ (s : State) (part : Nat) (token : BitVec 32) (f : FaultRec) (g : Gang) (va : Nat), s.tokenFault part token = some f → ParkedOn s f g va →
    (s.cmds = [] → Goes (.frespRetry part token) s { s.tlbRemove f.ctx (some f.va) with
      faults := s.faults.filter fun x => x.token != f.token
      gangs := s.gangs.map fun h => if h.gid = g.gid then (match h.park with
        | .fault t _ _ => if t = f.token then { h with park := .none } else h
        | _ => h) else h }) ∧
    (g.outstanding s.cycle = false → (∀ sl ∈ g.slices, CanTrap sl) → ∃ g',
      Goes (.frespFail part token) s (Claim.back { out s g with faults := s.faults.filter (fun x => x.token != f.token)
                                                                cur := some { g' with park := .none, buf := [], waiting := false } } g) ∧
      Each (fun sl sl' => sl'.pc = sl.tvec ∧ sl'.tcause = 6 ∧ sl'.tval = BitVec.ofNat 64 va ∧ sl'.tepc = sl.pc ∧ sl'.priv = true ∧ sl'.scal = sl.scal) g g'))

/-- 11: translation faults served from pools, written to the log, answered or timed out. -/
def Obligations.TranslationFaultsAreServed : Prop := Claim.poolsServeFaults ∧ Claim.faultLogAnswersAndTimeouts

/-- 11 R255 to R257: a CELLAR page that a cell operation waits for moves into a frame of HBM, its bytes as they stand at home, its leaf
naming the frame; a copy that meets an error passes the waiting accesses to the host with WHY 3; a page makes room, or goes back after
CELLIDLE milliseconds without an access, to its Cellar frame, every entry of the leaf's group written, and the victim the one of the model's
own counts of accesses, by the model's choice (log 49, DEDUCED); an inbound migration that has waited FLOGTMO goes to the host with WHY 2. -/
def Obligations.CellarPagesMigrate : Prop :=
  (∀ (s : State) (part ctx va : Nat) (l : Leaf) (frame : Nat) (pools : List Pool), va < 2 ^ 64 → s.walk part ctx va = .leaf l →
    s.inboundDue part ctx l = true → s.inboundFits part l = true →
    takeFrame (leafT (s.wordAt l.entryAt 8)) (s.part part).pools = some (frame, pools) →
    let s0 := (s.settleRange l.base l.size).dropCopies l.base l.size
    let s1 := s.movePage ctx l.vbase l.entryAt l.level (leafT (s.wordAt l.entryAt 8)) l.base frame
    let m : Migrated := { ctx := ctx, va := l.vbase, t := leafT (s.wordAt l.entryAt 8), entryAt := l.entryAt, level := l.level, home := l.base, frame := frame }
    (s0.rangeBad l.base l.size = false →
      Goes (.cellarMigration part ctx (BitVec.ofNat 64 va) true true) s
        ((s1.setPart part { s1.part part with pools := pools, migrated := (s1.part part).migrated ++ [m] }).replayEntries (entryGroup l.entryAt l.level m.t))) ∧
    (∀ ok, s0.rangeBad l.base l.size = true ∨ ok = false → ∃ t, Goes (.cellarMigration part ctx (BitVec.ofNat 64 va) true ok) s t ∧
      t.mem = s0.mem ∧ t.parts = s0.parts ∧ t.gangs = s0.gangs)) ∧
  (∀ (s : State) (ctx va entryAt level t old new : Nat), Memory.wf s.mem = true → (new + 4096 * 2 ^ t ≤ old ∨ old + 4096 * 2 ^ t ≤ new) →
    (∀ x ∈ entryGroup entryAt level t, x + 8 ≤ new ∨ new + 4096 * 2 ^ t ≤ x) → ∀ k < 4096 * 2 ^ t, (s.movePage ctx va entryAt level t old new).byteAt (new + k) =
      (((s.tlbRemove ctx (some va)).settleRange old (4096 * 2 ^ t)).dropCopies old (4096 * 2 ^ t)).byteAt (old + k)) ∧
  (∀ (s : State) (part : Nat) (m : Migrated), s.victim part = some m → m.va < 2 ^ 64 → s.inboundShort part = true →
    Goes (.cellarMigration part m.ctx (BitVec.ofNat 64 m.va) false true) s (s.pageBack part m)) ∧
  (∀ (s : State) (part page : Nat) (m : Migrated), (s.part part).migrated[page]? = some m → (s.reg part 0x30).toNat ≠ 0 → s.movable m = true →
    ((s.useOf m.ctx m.va).map PageUse.last).getD 0 + 3000000 * (s.reg part 0x30).toNat ≤ s.cycle →
    Goes (.cellarIdleReturn part page) s (s.pageBack part m)) ∧
  (∀ (s : State) (tok : Nat) (f : FaultRec), InService s tok f → s.wantsMigration f = true → s.fits f = false → f.since + 3000000 * logReg s f 0x40020 ≤ s.cycle →
    Goes (.inboundMigrationTimeout tok) s (s.setFault tok fun x => { x with why := 2, stage := .waiting, since := s.cycle }))

/-! ## Debug and the lifecycle (10 R231 to R233; 22 R456, R457) -/

/-- Every gang of a context stopped, and its placements held. -/
def Sys2Proof.Claim.stopAll (s : State) (ctx : Nat) : State :=
  { s with gangs := s.gangs.map fun g => if g.ctx = ctx then { g with stopped := true } else g
           cur := s.cur.map fun g => if g.ctx = ctx then { g with stopped := true } else g
           ctxs := s.ctxs.map fun e => if e.1 = ctx then (e.1, { e.2 with stopAll := true }) else e }

/-- 10 R231 to R233; 22 R456: an armed comparator that equals a gang's pc stops the gang before the word, in stop-all mode its whole
context; stop-all selects that mode; a resumed gang goes on, a stepped one for one word; closing debug ends it; the debugger writes the
registers of a stopped gang. That RESUME and STEP clear the stop-all mode and pass the breakpoint at the gang's word, and that closing leaves
stopped gangs stopped, are the model's choices (log 37), and so is what a debugger's write does (log 72). -/
def Sys2Proof.Claim.debuggerStopsAndSteps : Prop :=
  (∀ (s : State) (gid i : Nat) (g : Gang), Has s gid g → g.stopped = false → g.passStop = false → s.debugged g.part = true → i < 8 →
    (s.reg g.part (0x30000 + 8 * i)).getLsbD 63 = true → (s.reg g.part (0x30000 + 8 * i)).toNat % 2 ^ 56 = g.pc.toNat →
    ((s.reg g.part 0x30040).getLsbD 0 = false → Goes (.breakpointStop gid) s (s.putGang { g with stopped := true })) ∧
    ((s.reg g.part 0x30040).getLsbD 0 = true → Goes (.breakpointStop gid) s (Claim.stopAll (s.putGang { g with stopped := true }) g.ctx))) ∧
  (∀ (s : State) (part ctx : Nat), s.debugged part = true → ctx / 4096 = part → (Map.find? s.ctxs ctx).isSome → ∃ t,
    Goes (.dbgctlStopAll part ctx) s (Claim.stopAll t ctx) ∧ t = s.setReg part 0x30040 1) ∧
  (∀ (s : State) (part gid : Nat) (g : Gang), Has s gid g → g.stopped = true → g.part = part → s.debugged part = true →
    Goes (.dbgctlStep part gid) s ((s.setReg part 0x30040 0).putGang { g with stopped := false, stepOne := true, passStop := true }) ∧
    ∃ t, Goes (.dbgctlResume part gid) s t ∧ t.gangs = (s.putGang { g with stopped := false, stepOne := false, passStop := true }).gangs ∧
      t.reg part 0x30040 = 0 ∧ t.mem = s.mem ∧
      ∀ c, (Map.find? t.ctxs g.ctx = some c → (∀ h ∈ t.gangs, h.ctx = g.ctx → h.stopped = false) → c.stopAll = false)) ∧
  (∀ (s : State) (part : Nat), s.debugged part = true → ∃ t, Goes (.dbgctlClose part) s t ∧ (t.part part).debug = 0 ∧ t.reg part 0x30040 = 0 ∧
    (∀ off, off ≠ 0x30040 → t.reg part off = s.reg part off) ∧ (∀ p, p ≠ part → t.part p = s.part p) ∧ t.gangs = s.gangs ∧ t.mem = s.mem) ∧
  (∀ (s : State) (gid sid : Nat) (r : DebugReg) (x : SVal) (g : Gang), Has s gid g →
    (g.stopped = false ∨ s.debugged g.part = false → s.debugWrite gid sid r x = s) ∧
    (g.stopped = true → s.debugged g.part = true → r ≠ .csr 4 → s.debugWrite gid sid r x =
      s.putGang { g with slices := g.slices.map fun sl => if sl.sid = sid then sl.debugWrite g.lregs r x else sl })) ∧
  (∀ (sl : Slice) (lregs : Nat) (x : SVal) (k : SReg), k ≠ 0 →
    (sl.debugWrite lregs (.scalar k) x).scalNow k = x ∧ sl.debugWrite lregs (.scalar k) x =
      { sl with scal := (sl.debugWrite lregs (.scalar k) x).scal })

/-- The nonce registers and the token's fields. -/
def Sys2Proof.Claim.tokenField (s : State) (part off n : Nat) : Nat := natOfBytes (((s.token part).drop off).take n)

/-- 22 R456, R457, R454: a submitted token is checked: its format, IDENT, the nonce, the state, the signature, in this order; the first check
that fails gives REFUSED with its reason; a token that passes opens the state that it names and extends MEAS7; the nonce is cleared
either way. A signed lifecycle token makes PRODUCTION RETURNED: every HBM byte reads 0 and the identity key is gone. -/
def Sys2Proof.Claim.tokensOpenDebugAndReturnTheDevice : Prop :=
  (∀ (s : State) (part : Nat) (p : Part), Map.find? s.parts part = some p → p.power < 2 → (s.reg part 0x30050).toNat % 4 ≠ 1 →
    Goes (.dbgauthSubmit part) s (s.setReg part 0x30050 1)) ∧
  (∀ (s : State) (part : Nat) (p : Part), Map.find? s.parts part = some p → p.power < 2 → (s.reg part 0x30050).toNat % 4 = 1 → ∃ t,
    Goes (.dbgTokenChecked part) s t ∧
    (∀ k < 4, t.reg part (0x80000 + 8 * k) = 0) ∧ t.mem = s.mem ∧ t.gangs = s.gangs ∧
    let f := tokenField s part
    let nonce := ((s.token part).drop 0x10).take 32
    let form := f 0 4 = 1 ∧ (f 4 4 = 1 ∨ f 4 4 = 2) ∧ ∀ b ∈ (s.token part).drop 0xB34, b = 0
    let ident := f 8 8 = (s.ident part).toNat
    let fresh := nonce = s.nonce part ∧ ∃ b ∈ nonce, b ≠ 0
    let may := f 4 4 = 2 → s.device.lifecycle = 0
    let signed := Config.debugSigned ((s.token part).take 0x30) (((s.token part).drop 0x30).take 2820)
    let refused := fun (why : Nat) => t.reg part 0x30050 = BitVec.ofNat 64 (3 + 16 * why) ∧ (t.part part).debug = (s.part part).debug ∧
      t.device = s.device
    (¬ form → refused 1) ∧ (form → ¬ ident → refused 2) ∧ (form → ident → ¬ fresh → refused 3) ∧
    (form → ident → fresh → ¬ may → refused 4) ∧ (form → ident → fresh → may → signed = false → refused 5) ∧
    (form → ident → fresh → may → signed = true →
      t.reg part 0x30050 = 2 ∧ (t.part part).debug = f 4 4 ∧ t.device = s.device.extend 7 (shake32 (s.token part)))) ∧
  (∀ (s : State) (token : List Byte), s.device.lifecycle = 1 → Config.lifecycleSigned token = true → ∃ t,
    Goes (.lifecycleReturned token) s t ∧ t.device = { s.device with lifecycle := 2, key := false } ∧
      (∀ a, t.byteAt a = if inCellar a then s.byteAt a else 0) ∧ t = { s with device := t.device, mem := t.mem, bad := t.bad, bad8 := t.bad8 })

/-- 10, 22: the steps of the debugger, and the tokens that open debug or return the device, with the model's choices of logs 37 and 72. -/
def Obligations.DebuggerAndTokens : Prop := Claim.debuggerStopsAndSteps ∧ Claim.tokensOpenDebugAndReturnTheDevice

/-! ## Steps of the copy and matrix engines (12, 13, 14) -/

/-- 12 R259, R261, R265, R270 to R278: the command at the head of a quadrant's queue leaves it while fewer than eight are active, its fork
reconciling at span C; a command that a save has stopped goes on where the restore has reconciled; FESET sets or clears its granules then; each granule is read and written as one unit, in any order, poison
noted; once all are done the cell is signalled by 1, OK, or FAULTED after poison or a stopped access, and the command is gone. -/
def Obligations.CopiesActivateMoveAndComplete : Prop :=
  (∀ (s : State) (c : Cmd), s.cmds.find? (fun x => x.id == c.id && x.op.engine == .copy) = some c → s.fenced c.part 3 c.core = false →
    s.mayStart c = true → s.headOfQueue c = true → s.activeCopies c.core < 8 → ∃ t, Goes (.copyActivate c.id) s t ∧
      t.cmds = s.cmds.filter (fun x => x.id != c.id) ∧ t.gangs = s.gangs ∧ t.mem = s.mem ∧
      t.copies = s.copies ++ [{ cmd := c, active := true, done := [], rowIx := [], poison := false, ended := none, deadCell := false }] ∧
      (t.core c.core).cgen = (s.core c.core).cgen + 1 ∧
      (c.op ≠ .feset → (t.core c.core).empty = (s.core c.core).empty) ∧
      (c.op = .feset → ∀ n, n ∈ (t.core c.core).empty ↔
        if n ∈ c.dstGranules then c.flag = false else n ∈ (s.core c.core).empty)) ∧
  (∀ (s : State) (run : CopyRun), s.copies.find? (fun r => r.cmd.id == run.cmd.id) = some run → run.active = false → s.ctxSaved run.cmd.ctx = false →
    (∀ c ∈ s.cmds, c.id ≠ run.cmd.id) → s.fenced run.cmd.part 3 run.cmd.core = false → s.activeCopies run.cmd.core < 8 → ∃ t,
      Goes (.copyActivate run.cmd.id) s t ∧ (∃ r ∈ t.copies, r = { run with active := true }) ∧ t.gangs = s.gangs ∧ t.mem = s.mem ∧
      t.cores = s.cores) ∧
  (∀ (s : State) (run : CopyRun) (n : Nat) (x : Piece), s.copies.find? (fun r => r.cmd.id == run.cmd.id) = some run → s.ctxSaved run.cmd.ctx = false →
    run.active = true → s.engineWaits (.copy run.cmd.id) = false → run.ended = none → n ∉ run.done → run.cmd.piece n = some x →
    ∀ src s0 ap p bs bad s1 w por s2, s.pieceSource run x = (.inl src, s0) →
      s0.engineRead run.cmd run.cmd.core src x.len = (.ok bs bad, s1) →
      apertureOf x.dst = some ap → run.cmd.segs.limit ap x.dst x.len = .ok p → s1.engineReach run.cmd true run.cmd.core p x.len = (.ok w por, s2) →
      ∃ t, Goes (.copyGranule run.cmd.id n) s t ∧ t.gangs = s2.gangs ∧
        (∀ r, t.copies.find? (fun y => y.cmd.id == run.cmd.id) = some r → n ∈ r.done ∧ (bad = true → r.poison = true)) ∧
        (∀ pa ro, w = .l1 pa ro → t.cores = (s2.writeL1 run.cmd.core pa bs false).cores ∧ t.mem = (s2.writeL1 run.cmd.core pa bs false).mem) ∧
        (∀ pa, w = .home pa → t.mem = Map.setMany unlisted s2.mem pa bs) ∧
        (∀ off, w = .scratch off → (t.core run.cmd.core).scratch = Map.setMany 0 (s2.core run.cmd.core).scratch off bs ∧
          ∀ k, k ∈ (t.core run.cmd.core).empty ↔
            k ∈ (s2.core run.cmd.core).empty ∧ ¬ (run.cmd.fills run.done n x = true ∧ k ∈ granulesOf off x.len))) ∧
  (∀ (s : State) (run : CopyRun), s.copies.find? (fun r => r.cmd.id == run.cmd.id) = some run → s.ctxSaved run.cmd.ctx = false →
    run.active = true → s.engineWaits (.copy run.cmd.id) = false → run.complete = true → run.deadCell = false → run.cmd.op.engine = .copy →
    let ends := fun (t : State) => Goes (.copyComplete run.cmd.id) s (match run.cmd.crew with
      | some k => t.endCrew k
      | none => t)
    (run.cmd.cell = 0 → run.ended = none → ends { s with copies := s.copies.filter fun r => r.cmd.id != run.cmd.id }) ∧
    (run.cmd.cell ≠ 0 → s.ackClear run.cmd.core 4 = true → ∀ pa s1,
      (s.reconcileSource run.cmd.core 4).reachCell run.cmd.core run.cmd.part run.cmd.ctx run.cmd.segs run.cmd.cell = (.at pa, s1) → ∃ t, ends t ∧
        t.copies = s.copies.filter (fun r => r.cmd.id != run.cmd.id) ∧
        t.gangs = (s1.signalCell pa 1 (if run.poison || run.ended.isSome then 3 else 0) false (.core run.cmd.core)).gangs ∧
        t.mem = (s1.signalCell pa 1 (if run.poison || run.ended.isSome then 3 else 0) false (.core run.cmd.core)).mem))

/-- A run among the matrix engines' runs. -/
def Sys2Proof.Claim.Running (s : State) (r : TileRun) : Prop := s.tiles.find? (fun x => x.cmd.id == r.cmd.id) = some r

/-- A running tile stands at a phase: 0 LATCH, 1 COMPUTE, 2 WRITE. -/
def Sys2Proof.Claim.AtPhase (s : State) (r : TileRun) (phase : Nat) : Prop :=
  Running s r ∧ r.stage = .run ∧ s.engineWaits (.matrix r.cmd.id) = false ∧ ((s.engine r.head).rpr.toNat / 2 ^ 62) = phase

/-- What follows a step that commits: the head's RPR names the next step, and after the last one RPRS is to take 0. -/
def Sys2Proof.Claim.Commits (r : TileRun) (p : Pos) (s t : State) : Prop :=
  (t.engine r.head).rpr = (r.tile.after r.len p).word ∧ t.gangs = s.gangs ∧
    (r.tile.after r.len p = .done → ∀ x, Running t x → x.cmd.id = r.cmd.id → x.stage = .finish ∧ x.rprs = some 0)

/-- 13 R289 to R292; 14 R308 to R311: a tile's steps in order. LATCH reads the block of every member of the chain into its active bank;
COMPUTE makes its entries final, or aborts on a NaN that is new; WRITE stores its rows, every page reached before the first byte; each
then commits. -/
def Sys2Proof.Claim.tileStepsLatchComputeWrite : Prop :=
  (∀ (s : State) (r : TileRun) (banks : List Bank) (band : BitVec 16) (s1 : State), AtPhase s r 0 →
    s.work r (r.readLatch (s.posOf r)) = (.ok (banks, band), s1) → banks.length = r.len → 1 ≤ r.len → ∃ t,
      Goes (.matrixLatchStep r.cmd.id) s t ∧ Commits r (s.posOf r) s1 t ∧ t.mem = s1.mem ∧
      ∀ k, ∀ h : k < banks.length, (t.engine (r.head + k)).active = banks[k] ∧ (t.engine (r.head + k)).shadow = (s1.engine (r.head + k)).active ∧
        (t.engine (r.head + k)).band = band ∧ (t.engine (r.head + k)).acc = (s1.engine (r.head + k)).acc) ∧
  (∀ (s : State) (r : TileRun) (xs : List Computed) (s1 : State), AtPhase s r 1 → s.work r (r.compute (s.posOf r)) = (.ok xs, s1) →
    (∀ x ∈ xs, r.tile.nantrap = true → intFmt r.tile.afmt = false → nanF32 x.new = true → nanF32 x.old = true) →
    xs.Pairwise (fun x y => (x.i, 64 * (x.row - 1024 * (s.posOf r).mb) + x.q) ≠ (y.i, 64 * (y.row - 1024 * (s.posOf r).mb) + y.q)) → ∃ t,
      Goes (.matrixComputeStep r.cmd.id) s t ∧ Commits r (s.posOf r) s1 t ∧ t.mem = s1.mem ∧
      ∀ x ∈ xs, Map.get 0 (t.engine (r.head + x.i)).acc (64 * (x.row - 1024 * (s.posOf r).mb) + x.q) = x.new ∧
        64 * (x.row - 1024 * (s.posOf r).mb) + x.q ∉ (t.engine (r.head + x.i)).accBad) ∧
  (∀ (s : State) (r : TileRun) (ws : List (List (Nat × Where × Nat) × Nat × Word64 × List Byte)) (s1 : State), AtPhase s r 2 →
    s.work r (do
      noting (s.writesBad r (s.posOf r))
      (if r.tile.k = 0 ∧ r.tile.acc = true then [] else s.writeRows r (s.posOf r)).mapM fun x => do
        let ps ← reachE r.cmd true (r.head + x.1) x.2.1 x.2.2.length
        pure (ps, x)) = (.ok ws, s1) → ∃ t,
      Goes (.matrixWriteStep r.cmd.id) s t ∧ Commits r (s.posOf r) s1 t ∧
      t.mem = (ws.foldl (fun s w => s.storeAll r.cmd false w.1 w.2.2.2) s1).mem)

/-- The run of a command takes an engine that no other run holds or waits for from earlier, and that no command in its queue has reached. -/
def Sys2Proof.Claim.EngineFree (s : State) (id e : Nat) : Prop :=
  (∀ x ∈ s.tiles, x.holds e = false ∧ (x.stage = .acquire → x.head + x.got ≠ e)) ∧
    ∀ y ∈ s.cmds, y.id ≠ id → y.op.engine = .matrix → y.op ≠ .mq → y.quad ≠ e

/-- 13 R301, R302: a command that may leave its quadrant's queue becomes a run there; it holds the engines of its chain from the head on, in
increasing number, each of which no run held, and takes the next as soon as that is free; with its whole chain it is to start. -/
def Sys2Proof.Claim.chainsAreTaken : Prop :=
  (∀ (s : State) (id len : Nat) (op : CmdOp) (c : Cmd), s.cmds.find? (fun x => x.id == id && x.op == op) = some c → s.mayLeave c = true →
    s.tile? id = none →
    let t := s.acquire id len op
    t.cmds = s.cmds.filter (fun x => x.id != id) ∧ t.gangs = s.gangs ∧ t.mem = s.mem ∧ t.matrix = s.matrix ∧
    ∃ r, t.tiles = s.tiles ++ [r] ∧ r.cmd = c ∧ r.head = c.quad ∧ r.len = len ∧ r.got ≤ len ∧ r.stage = (if r.got = len then .start else .acquire) ∧
      (∀ i < r.got, ∀ x ∈ s.tiles, x.holds (c.quad + i) = false) ∧ (len ≤ 4 → (∀ i < len, EngineFree s id (c.quad + i)) → r.got = len)) ∧
  (∀ (s : State) (len : Nat) (op : CmdOp) (r : TileRun), Running s r → (∀ c ∈ s.cmds, c.id ≠ r.cmd.id) → r.stage = .acquire → r.got < r.len →
    let t := s.acquire r.cmd.id len op
    t.cmds = s.cmds ∧ t.gangs = s.gangs ∧ t.mem = s.mem ∧ t.matrix = s.matrix ∧
    ∃ r', Running t r' ∧ r' = { r with got := r'.got, reach := r'.reach, stage := if r'.got = r.len then .start else .acquire } ∧
      r.got ≤ r'.got ∧ r'.got ≤ r.len ∧ (∀ i < r'.got, r.got ≤ i → ∀ x ∈ s.tiles, x.holds (r.head + i) = false) ∧
      ((∃ x ∈ s.tiles, x.holds (r.head + r.got) = true) → r' = r))

/-- 13 R295: an MWLD with its chain checks B, LDB and BSP for alignment and apertures: what fails ends FAULTED with the latches as they were. Else
member i's bank takes columns 64i to 64i + 63 of the block, as far as it has them, KB codes of T each and, for e2m1, their scales,
every other weight +0; what was active is the shadow; LFMT, KB, NB, the band and the owner are the command's. Poison gives FAULTED. -/
def Sys2Proof.Claim.weightsLatch : Prop :=
  (∀ (s : State) (r : TileRun), Running s r →
    let g := fun k => r.cmd.regs.getD k 0
    let kb := (g 3).toNat % 2 ^ 32
    let nb := (g 3).toNat / 2 ^ 32
    let t := (g 6).toNat
    let bad := (g 0).toNat % 16 ≠ 0 ∨ (g 1).toNat % 16 ≠ 0 ∨ r.cmd.rangeBad (g 0, (nb - 1) * (g 1).toNat + kb * elemBits t / 8) = true ∨
      (t = 13 ∧ r.cmd.rangeBad (g 2, planeBytes nb kb) = true)
    let faulted := fun (s' : State) (x : TileRun) => (s.mwldLatch r).tile? r.cmd.id = some { x with stage := .finish, status := 3, rprs := none } ∧
      (s.mwldLatch r).matrix = s'.matrix ∧ (s.mwldLatch r).mem = s'.mem ∧ (s.mwldLatch r).gangs = s'.gangs
    (bad ∨ s.chainFenced r = true → faulted s r) ∧
    (¬ bad → s.chainFenced r = false → ∀ a s1 x, s.work r (r.cmd.mwldRead r.head r.len) = (.error (.stop a), s1) → Running s1 x → x.cmd = r.cmd →
      faulted s1 x) ∧
    (¬ bad → s.chainFenced r = false → ∀ banks s1 x, s.work r (r.cmd.mwldRead r.head r.len) = (.ok banks, s1) → Running s1 x → x.cmd = r.cmd →
      (s.mwldLatch r).tile? r.cmd.id = some { x with stage := .finish, status := if x.poison then 3 else 0 } ∧
      (s.mwldLatch r).mem = s1.mem ∧ (s.mwldLatch r).gangs = s1.gangs ∧
      ∀ k, ∀ h : k < banks.length, (s.mwldLatch r).engine (r.head + k) = { s1.engine (r.head + k) with
        shadow := (s1.engine (r.head + k)).active, active := banks[k], fmt := t, kb := kb, nb := nb
        band := if t = 13 then (g 4).setWidth 16 else 0x3F80, owner := some (r.head, r.len) })) ∧
  (∀ (c : Cmd) (head len : Nat),
    let g := fun k => c.regs.getD k 0
    let kb := (g 3).toNat % 2 ^ 32
    let nb := (g 3).toNat / 2 ^ 32
    let t := (g 6).toNat
    c.mwldRead head len = (List.range len).mapM fun i => do
      let cols ← (List.range (min 64 (nb - 64 * i))).mapM fun q => do
        let bs ← readE c (head + i) (g 0 + BitVec.ofNat 64 ((64 * i + q) * (g 1).toNat) + BitVec.ofNat 64 (0 * elemBits t / 8)) (kb * elemBits t / 8)
        let scales ← if t = 13 then readScales c (head + i) (g 2) ((64 * i + q) * (kb / 8)) (kb / 8) else pure []
        pure (codesOf bs (elemBits t) kb, scales)
      pure (bankOf cols)) ∧
  (∀ (cols : List (List Nat × List Nat)), (∀ p ∈ cols, p.1.length ≤ 64 ∧ p.2.length ≤ 8) → (bankOf cols).bad = [] ∧ ∀ q m,
    (m < 64 → Map.get 0 (bankOf cols).w (64 * q + m) = ((cols.getD q ([], [])).1.getD m 0)) ∧
    (m < 8 → Map.get 0 (bankOf cols).sc (8 * q + m) = ((cols.getD q ([], [])).2.getD m 0)))

/-- 13 R293: what a tile's record fails by; `far` is a tile queued at tier K or D or by a TILE node, `es` the engines of its chain. -/
def Sys2Proof.Claim.RecordFails (t : Tile) (c : Cmd) (head len : Nat) (far : Bool) (es : List Matrix) : Prop :=
  (1 < t.kind ∨ 16 ≤ t.afmt ∨ 16 ≤ t.bfmt ∨ 32 ≤ t.flags ∨ 8 ≤ t.tier ∨ 8 ≤ t.chain ∨ t.pad ≠ 0 ∨ 2 ^ 20 < t.m ∨ 65536 < t.n ∨ 2 ^ 20 < t.k ∨
    t.k % 8 ≠ 0) ∨
  ¬ ((∀ x ∈ [t.afmt, t.bfmt], x ∈ [11, 12, 13]) ∨ (∀ x ∈ [t.afmt, t.bfmt], x ∈ [4, 5]) ∨ ∀ x ∈ [t.afmt, t.bfmt], x ∈ [9, 10]) ∨
  (∃ x ∈ [t.a, t.b, t.c, t.lda, t.ldb, t.ldc, t.cell], x.toNat % 16 ≠ 0) ∨ t.band.toNat % 2 ≠ 0 ∨ t.more.toNat % 4 ≠ 0 ∨ t.ldc.toNat < 4 * t.n ∨
  ¬ (t.asp ≠ 0 ↔ t.afmt = 13) ∨ ¬ (t.bsp ≠ 0 ↔ t.bfmt = 13) ∨ ¬ (t.band ≠ 0 ↔ t.afmt = 13 ∨ t.bfmt = 13) ∨
  (∃ x ∈ t.ranges, c.rangeBad x = true) ∨ (far = true ∧ ∃ x ∈ t.ranges, 0 < x.2 ∧ apertureOf x.1 = some .scratch) ∨
  (t.afe = true ∧ apertureOf t.a ≠ some .scratch) ∨ (t.atake = true ∧ (t.afe = false ∨ 1 < (t.n + 64 * len - 1) / (64 * len))) ∨
  (t.femark = true ∧ (apertureOf t.c ≠ some .scratch ∨ t.n % 4 ≠ 0)) ∨
  (t.kind = 1 ∧ ∃ e ∈ es, e.owner ≠ some (head, len) ∨ t.bfmt ≠ e.fmt ∨ t.k ≠ e.kb ∨ e.nb < t.n)

/-- 13 R289, R293, R301; 14 R308: a tile with its chain reads its record: one that cannot be read is given up, with nothing signalled; one that
fails R293's checks, is poisoned, or whose chain has a fenced engine ends FAULTED before any step, the engines as they were; any other
stands at its first step, over at once for an M or N of 0, and a KIND 0 tile makes the latches of its chain nobody's. -/
def Sys2Proof.Claim.recordsAreCheckedAtStart : Prop :=
  ∀ (s : State) (r : TileRun), Running s r →
    (∀ a s1, s.work r (readE r.cmd r.head r.at_ 128) = (.error (.stop a), s1) →
      (s.startTile r).tiles = s1.tiles.filter (fun x => x.cmd.id != r.cmd.id) ∧ (s.startTile r).matrix = s1.matrix ∧
      (s.startTile r).mem = s1.mem ∧ (s.startTile r).gangs = s1.gangs) ∧
    (∀ bs s1 x, s.work r (readE r.cmd r.head r.at_ 128) = (.ok bs, s1) → Running s1 x → x.cmd = r.cmd → (Tile.of bs).rprs = 0 →
      (∀ y ∈ s1.savedTiles, y.key ≠ r.cmd.recordKey r.at_) →
      let t := Tile.of bs
      let far := r.cmd.op == .mq && (r.node.isSome || decide (2 ≤ (r.cmd.regs.getD 1 0).toNat))
      let fails := x.poison = true ∨ s1.chainFenced r = true ∨
        RecordFails t r.cmd r.head r.len far ((List.range r.len).map fun i => s1.engine (r.head + i))
      (s.startTile r).mem = s1.mem ∧ (s.startTile r).gangs = s1.gangs ∧
      (fails → (s.startTile r).tile? r.cmd.id = some { x with record := bs, stage := .finish, status := 3, rprs := none } ∧
        (s.startTile r).matrix = s1.matrix) ∧
      (¬ fails → (s.startTile r).tile? r.cmd.id =
          some (if t.m = 0 ∨ t.n = 0 then { x with record := bs, stage := .finish, rprs := some 0 } else { x with record := bs, stage := .run }) ∧
        ∀ i < r.len, (s.startTile r).engine (r.head + i) = { s1.engine (r.head + i) with
          rpr := if i = 0 then t.first.word else (s1.engine (r.head + i)).rpr
          owner := if t.kind = 0 then none else (s1.engine (r.head + i)).owner }))

/-- 13 R297, R298; 14 R308: a run's cell is signalled by 1 with its status after the source's reconciliation; a successor that can be reached has
its PRED at home lowered by 1, and a registered record whose PRED is then 0 is ready; which records may start where, and which came first. -/
def Sys2Proof.Claim.tilesSignalAndRelease : Prop :=
  (∀ (s s2 : State) (r : TileRun) (cell : Word64) (pa : Nat), cell ≠ 0 → s.ackClear r.cmd.core 4 = true →
    (s.reconcileSource r.cmd.core 4).reachCell r.cmd.core r.cmd.part r.cmd.ctx r.cmd.segs cell = (.at pa, s2) →
    s.signalTile r cell = (true, (s2.signalCell pa 1 r.status false (.quad r.head)).setTile r.cmd.id fun x => { x with cellAt := some pa })) ∧
  (∀ (s s1 : State) (r : TileRun) (a : Word64) (ps : List (Nat × Where × Nat)) (w : Where) (pa n len : Nat),
    s.run (reachE r.cmd true r.head a 128) = (.ok ((n, w, len) :: ps), s1, false) → ((∃ ro, w = .l1 pa ro) ∨ w = .home pa) →
    s1.poisonedAt (pa + 6) 2 = false → s.retireOne r a = (true, s1.lowerPred pa r.head)) ∧
  (∀ (s : State) (pa head : Nat), 0 < s.predAt pa →
    let t := s.lowerPred pa head
    t.predAt pa = s.predAt pa - 1 ∧ (∀ b, b ≠ pa + 6 → b ≠ pa + 7 → t.byteAt b = s.byteAt b) ∧ t.tiles = s.tiles ∧ t.gangs = s.gangs ∧
    (s.predAt pa ≠ 1 → t.mqs = s.mqs) ∧
    (s.predAt pa = 1 → ∃ k, t.mqs = s.mqs.map fun m => if m.pa = some pa ∧ m.ready = none then { m with ready := some k } else m)) ∧
  (∀ (s : State) (m : MqRec) (e : Nat), s.mqMay m e = true ↔ s.ctxSaved m.cmd.ctx = false ∧ e % 4 + s.mqLen m ≤ 4 ∧
    (∀ i < s.mqLen m, s.queuedBefore (e + i) s.nextId = false ∧ ∀ x ∈ s.tiles, x.holds (e + i) = false ∧ (x.stage = .acquire → x.head + x.got ≠ e + i)) ∧
    match (m.cmd.regs.getD 1 0).toNat with
    | 0 => e = m.cmd.quad
    | 1 => e / 4 = m.cmd.quad / 4
    | 2 => e / 48 = m.cmd.quad / 48
    | _ => e < 768 ∧ e / 192 ∈ (s.part m.cmd.part).dies) ∧
  (∀ (s : State) (k e len : Nat), s.mqEarlier k e len = true ↔ ∃ x ∈ s.mqs, ∃ k' h, x.ready = some k' ∧ k' < k ∧ s.mqNever x = false ∧
    h / 4 = e / 4 ∧ h < e + len ∧ e < h + s.mqLen x ∧ s.mqMay x h = true)

/-- 13 R293, R295 to R298, R301; 14 R308: an MWLD with its chain latches and signals; a tile with its chain starts or ends with ENGINE_FAULT; a tile that has ended writes RPRS, signals, lowers its successors' PRED and frees its engines; a ready
record starts on a free chain of its tier, earlier ones first, and one that no chain fits ends FAULTED. -/
def Sys2Proof.Claim.weightsTilesAndQueuesStartAndRetire : Prop :=
  (∀ (s : State) (id : Nat), s.engineWaits (.matrix id) = false →
    (∀ r, (s.acquire id (s.queuedLen id 7) .mwld).tile? id = some r → r.stage = .acquire → Goes (.mwldExecute id) s (s.acquire id (s.queuedLen id 7) .mwld)) ∧
    (∀ r, (s.acquire id (s.queuedLen id 7) .mwld).tile? id = some r → r.stage = .start → r.cmd.op = .mwld → r.cmd.regs.getD 5 0 = 0 → ∀ s1,
      s1 = (s.acquire id (s.queuedLen id 7) .mwld).mwldLatch r → (s1.tile? id).map TileRun.stage = some .finish →
      (∀ x, s1.tile? id = some x → x.cmd = r.cmd) → Goes (.mwldExecute id) s (s1.releaseTile id)) ∧
    (∀ r, (s.acquire id (s.queuedLen id 7) .mwld).tile? id = some r → r.stage = .start → r.cmd.op = .mwld → ∀ s1 x s2,
      s1 = (s.acquire id (s.queuedLen id 7) .mwld).mwldLatch r → s1.tile? id = some x → x.stage = .finish → x.cmd = r.cmd →
      s1.signalTile x (r.cmd.regs.getD 5 0) = (true, s2) → Goes (.mwldExecute id) s (s2.releaseTile id)) ∧
    (∀ r, (s.acquire id (s.queuedLen id 1) .mtile).tile? id = some r → r.stage = .acquire → Goes (.tileStart id) s (s.acquire id (s.queuedLen id 1) .mtile)) ∧
    (∀ r, (s.acquire id (s.queuedLen id 1) .mtile).tile? id = some r → r.stage = .start → r.cmd.op ≠ .mwld →
      Goes (.tileStart id) s ((s.acquire id (s.queuedLen id 1) .mtile).startTile r))) ∧
  (∀ (s : State) (r : TileRun), Running s r → s.engineWaits (.matrix r.cmd.id) = false → r.cmd.op ≠ .mwld → r.stage = .retire →
    Goes (.tileRetire r.cmd.id) s (s.retireTile r) ∧
    (r.tile.succ = 0 → r.tile.more = 0 → r.next < 2 ^ 40 → r.node = none → (s.retireTile r).tiles = s.tiles.filter (fun x => x.cmd.id != r.cmd.id) ∧
      ((s.retireTile r).engine r.head).tiles = (s.engine r.head).tiles + (if 0 < r.got then 1 else 0) ∧ (s.retireTile r).mem = s.mem ∧ (s.retireTile r).gangs = s.gangs)) ∧
  (∀ (s : State) (r : TileRun), Running s r → s.engineWaits (.matrix r.cmd.id) = false → r.cmd.op ≠ .mwld → r.stage = .finish → r.tile.cell = 0 →
    s.ackClear r.cmd.core 4 = true →
    let ends := fun (s : State) (r : TileRun) =>
      ((s.reconcileSource r.cmd.core 4).setTile r.cmd.id fun x => { x with stage := .retire }).retireTile { r with stage := .retire }
    (r.rprs = none → Goes (.tileRetire r.cmd.id) s (ends s r)) ∧
    (∀ w s1, r.rprs = some w → s.work r (writeSeenE r.cmd r.head (r.at_ + 0x68) (toBytes w 8)) = (.ok (), s1) → Running s1 r →
      s1.ackClear r.cmd.core 4 = true →
      Goes (.tileRetire r.cmd.id) s (ends (s1.setTile r.cmd.id fun x => { x with rprs := none }) { r with rprs := none }))) ∧
  (∀ (s s1 : State) (r x : TileRun), Running s r → s.engineWaits (.matrix r.cmd.id) = false → r.cmd.op ≠ .mwld → r.stage = .finish → r.rprs = none →
    s.ackClear r.cmd.core 4 = true → (s.reconcileSource r.cmd.core 4).signalTile r r.tile.cell = (true, s1) → s1.tile? r.cmd.id = some x →
    x.cmd = r.cmd → Goes (.tileRetire r.cmd.id) s ((s1.setTile r.cmd.id fun y => { y with stage := .retire }).retireTile { x with stage := .retire })) ∧
  (∀ (s : State) (m : MqRec) (e k : Nat), s.mqs.find? (fun x => x.cmd.id == m.cmd.id) = some m → m.ready = some k →
    (s.mqNever m = true → Goes (.mqDispatch m.cmd.id e) s (s.mqFail m)) ∧
    (s.mqNever m = false → s.mqMay m e = true → s.mqEarlier k e (s.mqLen m) = false → ∃ (t : State) (r : TileRun), Goes (.mqDispatch m.cmd.id e) s (t.startTile r) ∧
      t.tiles = s.tiles ++ [r] ∧ r.head = e ∧ r.len = s.mqLen m ∧ r.got = r.len ∧ r.stage = .start ∧ r.cmd = { m.cmd with core := e / 4, quad := e } ∧
      t.mqs = s.mqs.filter (fun x => x.cmd.id != m.cmd.id) ∧ t.mem = s.mem ∧ t.gangs = s.gangs))

/-- 13: weight loads, tiles and MQ records, step by step: chains taken, weights latched, records checked, steps, signals, releases. Which tiles
TILES counts, and the records that name no address or engine, are the model's choices (log 43, DEDUCED). -/
def Obligations.MatrixTilesRun : Prop :=
  Claim.chainsAreTaken ∧ Claim.weightsLatch ∧ Claim.recordsAreCheckedAtStart ∧ Claim.tileStepsLatchComputeWrite ∧ Claim.tilesSignalAndRelease ∧
    Claim.weightsTilesAndQueuesStartAndRetire

/-! ## Steps of the ray engines and the Larder units (15, 16) -/

/-- The lane registers of a strand take values of a word, each tag as given; what was outstanding of the word there is so no more. -/
def Sys2Proof.Claim.Delivers (c : Cmd) (word k : Nat) (rings : List Nat) (vals : List LVal) (s t : State) : Prop :=
  t.gangs = (s.deliverLanes c word k rings vals).gangs ∧ t.cur = (s.deliverLanes c word k rings vals).cur

/-- 05 R114, R115: an engine's result of a word goes to the register of the strand that waits for it, with its tag, unless a later word has
written the register since; it is outstanding no more. Every other register stays, and every slice of another strand. Values of a lane go
register by register. -/
def Sys2Proof.Claim.resultsReachRegisters : Prop :=
  (∀ (sl : Slice) (word : Nat) (t : Target) (x : SVal),
    let hit := fun (p : Pending) => p.n == word && p.targ == t && p.engine
    (sl.pending.find? hit = none → sl.engineWrite word t x = sl) ∧
    (∀ p, sl.pending.find? hit = some p →
      let sl' := sl.engineWrite word t x
      sl' = { sl with pending := sl.pending.erase p, scal := sl'.scal, lane := sl'.lane } ∧
      (p.passed = true → sl'.scal = sl.scal ∧ sl'.lane = sl.lane) ∧
      (p.passed = false → (∀ k, t = .scalar k → sl'.lane = sl.lane ∧ ∀ j, Map.get {} sl'.scal j = if j = k then x else Map.get {} sl.scal j) ∧
        ∀ r k, t = .lane r k → sl'.scal = sl.scal ∧
          ∀ j, Map.get {} sl'.lane j = if j = 4 * r + k then ⟨x.v.setWidth 32, x.tag⟩ else Map.get {} sl.lane j))) ∧
  (∀ (s : State) (c : Cmd) (word : Nat) (t : Target) (x : SVal), c.crew = none →
    let h := fun (g : Gang) => { g with slices := g.slices.map fun sl => if sl.sid = c.sid then sl.engineWrite word t x else sl }
    s.deliverResult c word t x = { s with gangs := s.gangs.map h, cur := s.cur.map h }) ∧
  (∀ (s : State) (c : Cmd) (word k r : Nat) (v : LVal) (rings : List Nat) (vals : List LVal),
    s.deliverLanes c word k [] vals = s ∧ s.deliverLanes c word k rings [] = s ∧
    s.deliverLanes c word k (r :: rings) (v :: vals) =
      (s.deliverResult c word (.lane r k) ⟨v.v.setWidth 64, v.tag⟩).deliverLanes c word k rings vals)

/-- 15 R316, R330, R331, R336, R339, R342, R345: a ray's record goes into its lane's registers, a join of span C; after a final status its slot
is IDLE and the ray is kept for RHIT alone, after ANYHIT_PENDING it waits for verdicts; a slot that cannot be written is served or ends the
ray POISONED; the oldest waiting ray of a core can go to its save slot, whole; a march that has ended leaves its slots IDLE, writes its
registers, signals its cell and is gone. What the slot's other bytes hold is open (log 65's choice). -/
def Sys2Proof.Claim.raysAndMarchesReport : Prop :=
  (∀ (s : State) (r : Ray), s.ray? r.id = some r → r.spilled = false → s.ctxSaved r.cmd.ctx = false → s.engineWaits (.ray r.id) = false → r.phase = .due →
    (r.code = 2 → ∃ t, Goes (.rayTraceResult r.id) s t ∧ (∃ x ∈ t.rays, x = { r with phase := .pending }) ∧ t.mem = s.mem ∧
      Delivers r.cmd r.word r.k r.rings r.record s t ∧ (t.core r.cmd.core).cgen = (s.core r.cmd.core).cgen + 1) ∧
    (r.code ≠ 2 → ∀ s1, s.writeSlot r.cmd r.slot 0 128 = (.ok (), s1) → s1.ray? r.id = some r → ∃ t, Goes (.rayTraceResult r.id) s t ∧
      (∃ x ∈ t.rays, x = { r with phase := .final }) ∧ t.mem = s1.mem ∧ Delivers r.cmd r.word r.k r.rings r.record s1 t ∧
      (t.core r.cmd.core).cgen = (s1.core r.cmd.core).cgen + 1) ∧
    (r.code ≠ 2 → ∀ h s1, s.writeSlot r.cmd r.slot 0 128 = (.error h, s1) → Goes (.rayTraceResult r.id) s (s1.slotHalt r h))) ∧
  (∀ (s : State) (r : Ray), s.ray? r.id = some r → r.spilled = false → s.ctxSaved r.cmd.ctx = false → s.engineWaits (.ray r.id) = false →
    r.phase = .refused →
    ∃ t, Goes (.rayTraceResult r.id) s t ∧ (∀ x ∈ t.rays, x.id ≠ r.id) ∧ t.mem = s.mem ∧ Delivers r.cmd r.word r.k r.rings r.record s t) ∧
  (∀ r : Ray, r.record.length = 5 ∧ (∀ x ∈ r.record, x.tag = (r.code == 4)) ∧
    (r.code = 1 ∨ r.code = 3 → (r.record.take 4).map LVal.v = [0x7F800000, 0xFFFFFFFF, 0xFFFFFFFF, 0])) ∧
  (∀ (s s1 : State) (core : Nat) (r : Ray),
    s.rays.find? (fun x => x.cmd.core == core && x.phase == .pending && !x.spilled && x.code != 4 && !s.engineWaits (.ray x.id)) = some r →
    s.writeSlot r.cmd r.slot 2 1024 = (.ok (), s1) → s1.rays = s.rays →
    ∃ t, Goes (.raySpill core) s t ∧ t.mem = s1.mem ∧ t.gangs = s1.gangs ∧ (∃ x ∈ t.rays, x = { r with spilled := true }) ∧ t.rays.length = s.rays.length) ∧
  (∀ (s s0 : State) (m m' : March), s.marches.find? (fun x => x.cmd.id == m.cmd.id) = some m → m.spilled = false → s.ctxSaved m.cmd.ctx = false →
    m.busyLane = none → s.engineWaits (.ray m.cmd.id) = false → m.wrote = false → (m.cmd.cell ≠ 0 → s.ackClear m.cmd.core 4 = true) →
    s.marchSlots m (fun _ => 0) 128 m.lanes = (true, s0) → s0.marches.find? (fun x => x.cmd.id == m.cmd.id) = some m' → m'.cmd = m.cmd → m'.wrote = false →
    let s1 := if m'.rings = [] then s0 else m'.lanes.foldl (fun s l => s.deliverLanes m.cmd m'.word l.k m'.rings l.result) (s0.reconcileDest m.cmd.core 1)
    (m.cmd.cell = 0 → Goes (.rayMarchComplete m.cmd.id) s { s1 with marches := s1.marches.filter fun x => x.cmd.id != m.cmd.id }) ∧
    (m.cmd.cell ≠ 0 → ∀ pa s2, (s1.reconcileSource m.cmd.core 4).reachCell m.cmd.core m.cmd.part m.cmd.ctx m.cmd.segs m.cmd.cell = (.at pa, s2) →
      let s3 := s2.signalCell pa 1 (if m'.poison then 3 else 0) false m.cmd.src
      Goes (.rayMarchComplete m.cmd.id) s { s3 with marches := s3.marches.filter fun x => x.cmd.id != m.cmd.id }))

/-- The descriptor's STATE of a pass, at home. -/
def Sys2Proof.Claim.passByte (s : State) (part p : Nat) : Option Byte := ((s.part part).larderAddr (128 * p)).map s.byteAt

/-- 16 R361, R366, R371: once no append to the pass is under way, a seal builds its grid in the home unit's share, and the pass becomes SEALED
and retires what was marked; a share that cannot hold the grid leaves it OPEN with FULL, and a poisoned descriptor or record leaves everything
with POISONED; every GSEAL that waited reports: its status, OK, POISONED or FULL, goes to its register, its tag clear, and the operation is over.
That a poisoned PARENT found while retiring also answers POISONED is the model's choice (log 25, DEDUCED). -/
def Sys2Proof.Claim.sealsComplete : Prop :=
  (∀ (s : State) (part p status : Nat), status < 2 ^ 32 →
    let waits := s.larder.filter fun o => o.cmd.part == part && o.kind == .seal && o.stage == 1 && o.argN 0 == p
    let t := s.sealDone part p status
    let u := waits.foldl (fun x o => x.deliverResult o.cmd o.word (.scalar (o.key.getD 0)) ⟨BitVec.ofNat 64 status, false⟩) s
    t.larder = s.larder.filter (fun x => !waits.any fun o => o.cmd.id == x.cmd.id) ∧ t.mem = s.mem ∧
    ((∀ o ∈ waits, o.key.isSome) → t.gangs = u.gangs ∧ t.cur = u.cur)) ∧
  (larderOk = 0 ∧ larderPoisoned = 8 ∧ larderFull = 5) ∧
  ∀ (s : State) (part p : Nat), s.sealing part p = true → (∀ v ∈ s.verticesOf part p, (s.slotOf part v).state ≠ .appending) →
    let ready := (s.verticesOf part p).filter fun v => (s.slotOf part v).state == .ready
    let len := gridSize (ready.filter fun v => recKind (s.recordAt part v).1 == 1).length
    ((s.passAt part p).2 = true ∨ (∃ v ∈ ready, (s.recordAt part v).2 = true) → Goes (.gsealComplete part p) s (s.sealDone part p larderPoisoned)) ∧
    ((s.passAt part p).2 = false → (∀ v ∈ ready, (s.recordAt part v).2 = false) →
      ((s.part part).findArea s.nextId (passHome (s.passAt part p).1) len = none → Goes (.gsealComplete part p) s (s.sealDone part p larderFull)) ∧
      (∀ off, (s.part part).findArea s.nextId (passHome (s.passAt part p).1) len = some off → ∃ t',
        Goes (.gsealComplete part p) s (if (t'.retirePass part p).1 then s.sealDone part p larderPoisoned else (t'.retirePass part p).2.sealDone part p larderOk) ∧
        ((s.part part).larderAddr (128 * p) = none ∨ passByte t' part p = some 2 ∧
          (t'.part part).shares = (s.part part).shares ++ [{ pass := p, group := passHome (s.passAt part p).1, off := off, len := len }])))

/-- 15, 16: the steps in which rays, marches and seals report, with the model's choices of logs 25 and 65. -/
def Obligations.RaysMarchesAndSealsReport : Prop := Claim.resultsReachRegisters ∧ Claim.raysAndMarchesReport ∧ Claim.sealsComplete

/-! ## Steps of the task engine (18) -/

/-- 22 R453: with room in the partition's ring a record stands at FRECTAIL, which moves on: its kind, cause, context, INFO and WHERE, DROPPED in bit
63, and 0 elsewhere. -/
def Sys2Proof.Claim.Recorded (s t : State) (part kind cause ctx : Nat) (info : BitVec 64) (graph node : Nat) : Prop :=
  let size := (s.reg part 0x10008).toNat
  let tail := (s.reg part 0x10018).toNat
  size ≠ 0 → (tail + 1) % size ≠ (s.reg part 0x10010).toNat →
    t.host = Map.setMany 0 s.host ((s.reg part 0x10000).toNat + 64 * tail)
      ([BitVec.ofNat 8 kind, BitVec.ofNat 8 cause] ++ toBytes (BitVec.ofNat 16 (ctx % 4096)) 2 ++ List.replicate 20 0 ++ toBytes info 8 ++
        toBytes (BitVec.ofNat 64 (graph % 1024 + 65536 * (node % 65536) + if (s.part part).dropped then 2 ^ 63 else 0)) 8 ++ List.replicate 24 0) ∧
    (t.reg part 0x10018).toNat = (tail + 1) % size

/-- 18 R382: the reason for which a launch is refused, by the checks in the order of their codes, but the context before the list that is read in
it (log 47's choice). -/
def Sys2Proof.Claim.launchReasons : Prop :=
  ∀ (s : State) (w : Waiting) (d : Directory), w.dead = 0 →
    let reserved := w.word0.toNat / 2 ^ 16 % 2 ^ 16 ≠ 0
    let many := w.ind = true ∧ 6 < w.npatch
    let ctx := Map.find? s.ctxs d.ctx ≠ none
    let inline := (List.range w.npatch).map fun i => w.words.getD (i + 1) 0
    let list := w.words.getD 7 0
    let task := { taskCmd w.id w.part d.ctx with segs := rootSegs }
    (d.valid = false → s.checkLaunch w d = (.refuse 1, s)) ∧
    (d.valid = true → reserved → s.checkLaunch w d = (.refuse 2, s)) ∧
    (d.valid = true → ¬ reserved → many → s.checkLaunch w d = (.refuse 3, s)) ∧
    (d.valid = true → ¬ reserved → ¬ many → ¬ ctx → s.checkLaunch w d = (.refuse (if d.ranges then 7 else 6), s)) ∧
    (d.valid = true → ¬ reserved → ¬ many → ctx → s.taskWaits w.id = false →
      (w.ind = false → s.checkLaunch w d = (if d.ranges then .ready inline else .refuse 6, s)) ∧
      (w.ind = true → list.toNat % 8 ≠ 0 → s.checkLaunch w d = (.refuse 4, s)) ∧
      (w.ind = true → list.toNat % 8 = 0 → ∀ h s1 b, s.run (readHomeE task 0 list 8) = (.ok h, s1, b) → 256 < natOfBytes h →
        s.checkLaunch w d = (.refuse (if b then 4 else 5), s1)))

/-- 18 R381, R382, R377: a launch write of 64 bytes to a partition that runs and has fewer than 64 waiting is queued, any other is dropped and
counted; launches are taken by priority, then in order; the first refused one is refused with its reason; one that passes its checks
takes the lowest free instance of its graph and a slot, which it keeps while a fault at its instance's pages is served; then every node of it
is unstarted with its count at PRED. -/
def Sys2Proof.Claim.launchesAreQueuedAndAccepted : Prop :=
  (∀ (s : State) (part : Nat) (words : List (BitVec 64)) (p : Part), Map.find? s.parts part = some p →
    (words.length = 8 ∧ (s.waitingIn part).length < 64 ∧ p.power < 2 ∧ s.reg part 0x68200 = 0 → ∃ t, Goes (.launch part words) s t ∧
      t = { s with parts := t.parts, nextId := s.nextId + 1
                   waiting := s.waiting ++ [{ id := s.nextId, part := part, words := words, checked := none, inst := none, dead := 0 }] } ∧
      ∀ q, t.part q = if q = part then { p with power := 0 } else s.part q) ∧
    (¬ (words.length = 8 ∧ (s.waitingIn part).length < 64 ∧ p.power < 2 ∧ s.reg part 0x68200 = 0) →
      Goes (.launch part words) s (s.setReg part 0x20048 (BitVec.ofNat 64 (((s.reg part 0x20048).toNat + 1) % 2 ^ 32))))) ∧
  (∀ (s : State) (part : Nat) (w : Waiting) (ws : List Waiting), s.launchOrder part = w :: ws →
    w ∈ s.waiting ∧ w.part = part ∧ w.inst = none ∧ (∀ x ∈ s.waiting, x.part = part → x.inst = none → w.prio ≤ x.prio)) ∧
  (∀ (s : State) (part : Nat), s.takenIn part = [] → s.launchOrder part = [] → Goes (.launchAccept part) s s) ∧
  (∀ (s : State) (part : Nat) (w : Waiting) (ws : List Waiting) (r : Nat) (s1 : State), s.takenIn part = [] → s.launchOrder part = w :: ws →
    w.checked = none → s.checkLaunch w (s.directory part w.graph) = (.refuse r, s1) → ∃ t, Goes (.launchAccept part) s t ∧
      t.waiting = s1.waiting.filter (fun x => x.id != w.id) ∧ t.launches = s1.launches ∧ t.gangs = s1.gangs ∧ t.mem = s1.mem ∧
      let d := s.directory part w.graph
      Recorded s1 t part 3 r (if d.valid then d.ctx else 0) (w.tag.setWidth 64) w.graph 0xFFFF) ∧
  Claim.launchReasons ∧
  (∀ (s : State) (part : Nat) (w : Waiting) (ws : List Waiting) (i : Nat), s.takenIn part = [] → s.launchOrder part = w :: ws → w.checked = none → w.dead = 0 →
    let d := s.directory part w.graph
    d.valid = true → w.word0.extractLsb' 16 16 = 0 → w.ind = false → (Map.find? s.ctxs d.ctx).isSome → s.taskWaits w.id = false → d.ranges = true →
    s.freeInstance part w.graph d.ninst = some i → s.slotsUsed part < 256 →
    let checked := s.setWaiting w.id fun x => { x with checked := some (d, (List.range w.npatch).map fun k => w.words.getD (k + 1) 0) }
    let placed := checked.setWaiting w.id fun x => { x with inst := some i }
    let reach := placed.run (reachE (taskCmd w.id w.part d.ctx) true 0 (BitVec.ofNat 64 (d.inst + i * instanceSize d.count)) (instanceSize d.count))
    (∀ f s1 b, reach = (.error (.fault f), s1, b) → Goes (.launchAccept part) s (s1.addFault f (.task w.id)).2) ∧
    (∀ ps s1 b, reach = (.ok ps, s1, b) →
      ∃ t x, Goes (.launchAccept part) s t ∧ t.launches = s.launches ++ [x] ∧ t.waiting = s.waiting.filter (fun y => y.id != w.id) ∧
        x.graph = w.graph ∧ x.prio = w.prio ∧ x.tag = w.tag ∧ x.inst = i ∧ x.ctx = d.ctx ∧ x.part = part ∧ x.count = d.count ∧ x.nodes.length = d.count ∧
        (∀ e ∈ x.nodes, e.2.started = false ∧ e.2.done = false ∧ e.2.retired = false ∧
          e.2.remaining = fieldOf (t.tcbRaw part d.nodeOff e.1).1 4 2) ∧
        (∀ k < i, ∃ y ∈ s.launches, y.part = part ∧ y.graph = w.graph ∧ y.inst = k) ∧ ∀ y ∈ s.launches, y.part = part → y.graph = w.graph → y.inst ≠ i))

/-- 18 R378, R380: what a TCB fails by, its slots put in. -/
def Sys2Proof.Claim.TcbFails (s : State) (x : Launch) (n : Nat) (t : List Byte) : Prop :=
  let kind := fieldOf t 0 1
  let tier := fieldOf t 1 1
  let p := fun k => (tcbParam t k).toNat
  let st := fun o w => p 2 / 2 ^ o % 2 ^ w
  5 < kind ∨ tier ∉ (match kind with
    | 0 => [0, 1, 2, 3]
    | 1 => [1, 2, 3]
    | 2 => [0, 1]
    | 3 => [1]
    | _ => [3]) ∨ fieldOf t 6 2 ≠ 0 ∨ fieldOf t 0x1C 4 ≠ 0 ∨ (∃ b ∈ t.drop 0x68, b ≠ 0) ∨
  (∃ k < 8, (match kind with
    | 0 | 1 => 4
    | 2 => 2
    | 3 | 4 => 5
    | _ => 3) ≤ k ∧ p k ≠ 0) ∨
  match kind with
  | 0 => tierCap tier < p 2 ∨ p 0 % 4 ≠ 0 ∨ if tier = 1 then 1024 < p 3 ∨ p 3 % 4 ≠ 0 else p 3 ≠ 0
  | 1 => p 0 % 4 ≠ 0 ∨ p 1 % 64 ≠ 0 ∨ st 16 16 = 0 ∨ st 32 8 = 0 ∨ st 40 8 = 0 ∨ st 56 8 < st 40 8 ∨ st 48 8 < st 56 8 ∨
    (s.unitCores x.part tier (fieldOf t 2 2)).length < st 48 8 ∨ ∃ y ∈ x.stages, y.node ≠ n ∧ y.qid = st 0 16
  | 2 => p 0 % 128 ≠ 0 ∨ p 1 = 0 ∨ 65536 < p 1
  | 5 => p 0 % 8 ≠ 0 ∨ 2 ^ 30 ≤ p 1 ∨ 2 ^ 11 ≤ p 2
  | _ => False

/-- 18 R383: a node that fails at its start has its cell at COUNT 0 with FAULTED, a record of kind 4 with the reason, and retires at once: each
of its successors that has not started is lowered once for each entry that names it. A TCB or list that cannot be read fails every
node that has not started, with reason 3, releasing nothing. -/
def Sys2Proof.Claim.nodesFail : Prop :=
  (∀ (s : State) (l n reason : Nat) (succ : List (Nat × Bool)) (x : Launch) (y : Node), InLaunch s l n x y → y.released = false →
    let t := s.failNode l n reason succ
    Recorded s t x.part 4 reason x.ctx (x.tag.setWidth 64) x.graph n ∧ t.gangs.map Gang.gid = s.gangs.map Gang.gid ∧
    (∀ pa s1, s.nodeCell x n = (.at pa, s1) → countAt t pa = 0 ∧ statusAt t pa = 3) ∧
    ∀ m z, m ≠ n → Map.find? x.nodes m = some z → z.retired = false → ∃ x' y' z', InLaunch t l n x' y' ∧ y'.started = true ∧ y'.done = true ∧
      y'.retired = true ∧ y'.status = 3 ∧ Map.find? x'.nodes m = some z' ∧ (z.started = true → z' = z) ∧
      (z.started = false → z'.started = false ∧ z'.remaining = z.remaining - (succ.filter fun e => e.1 == m).length)) ∧
  (∀ (s : State) (l n : Nat) (x : Launch), s.launches.find? (fun z => z.id == l) = some x →
    s.failUnread l n = (n :: (x.nodes.filter fun e => e.1 != n && !e.2.started).map Prod.fst).foldl (fun s' m => s'.failNode l m 3 []) s)

/-- 18 R378, R383, R385, R387, R389: a node's start. Its slots are put in; the checks come in order, each with its reason; a node that passes has
its cell at 1, or at P2 for a KERNEL node, with nothing else in it, and begins: a KERNEL node's P2 strands are queued, a STAGE node
holds the lowest cores of its unit, a TILE node's P1 records go as MQ's do, a COPY or COLL node's command has the node cell, and a HOST node
waits for its predecessors. What a cell that cannot be reached, or is waited on, gives is log 47's choice. -/
def Sys2Proof.Claim.nodesBegin : Prop :=
  (∀ raw slots : List Byte, raw.length = 128 → slots.length = 2048 →
    let t := substitute raw slots
    t.length = 128 ∧ (∀ b, b < 0x28 ∨ 0x68 ≤ b → t.getD b 0 = raw.getD b 0) ∧ ∀ k < 8, fieldOf t (0x28 + 8 * k) 8 =
      if fieldOf raw (0x20 + k) 1 = 0xFF then fieldOf raw (0x28 + 8 * k) 8 else fieldOf slots (8 * fieldOf raw (0x20 + k) 1) 8) ∧
  (∀ (s : State) (x : Launch) (n : Nat) (t : List Byte), s.tcbBad x n t = true ↔ TcbFails s x n t) ∧
  (∀ (s : State) (x : Launch) (key : Nat) (e : Word64),
    (2 ^ 56 ≤ e.toNat ∨ e.toNat < 8 → s.rootHeader x key e = (.bad, s)) ∧
    (8 ≤ e.toNat → e.toNat < 2 ^ 56 → ∀ pa f s1 pa' f' s2,
      s.xlate (taskUnit x.part) x.part x.ctx (e.toNat - 8) { x := true, user := true } = (.ok pa f, s1) →
      s1.xlate (taskUnit x.part) x.part x.ctx (e.toNat - 4) { x := true, user := true } = (.ok pa' f', s2) →
      let p := s1.wordAt pa 4
      s.rootHeader x key e = (if f.por = true ∨ s1.poisonedAt pa 4 = true ∨ f'.por = true ∨ s2.poisonedAt pa' 4 = true ∨ p / 2 ^ 24 ≠ 0x2B ∨
        p % 65536 ≠ 0 ∨ s2.wordAt pa' 4 ≠ 0 ∨ p / 65536 % 256 < 16 ∨ 64 < p / 65536 % 256 then .bad else .ok (4 * (p / 65536 % 256)), s2))) ∧
  (∀ (s : State) (x : Launch) (n : Nat) (y : Node) (raw slots : List Byte),
    let t := substitute raw slots
    let e := s.entries x.part raw
    let es := e.1 ++ e.2.1.getD []
    let succ := entrySuccs x.count es
    let kind := fieldOf t 0 1
    let wrong := e.2.1 = none ∨ (∃ w ∈ es, entryBad x.count w = true) ∨ s.tcbBad x n t = true
    let inside := s.unitInside x.part (fieldOf t 1 1) (fieldOf t 2 2) = true
    let header := fun (h : Header) (s1 : State) =>
      (kind < 2 → s.rootHeader x (nodeKey x.id n) (tcbParam t 0) = (h, s1)) ∧ (2 ≤ kind → h = .ok 0 ∧ s1 = s)
    (e.2.2 = true → s.startNode x n y raw slots = s.failUnread x.id n) ∧
    (e.2.2 = false → y.dead ≠ 0 → s.startNode x n y raw slots = s.failNode x.id n y.dead succ) ∧
    (e.2.2 = false → y.dead = 0 → wrong → s.startNode x n y raw slots = s.failNode x.id n 1 succ) ∧
    (e.2.2 = false → y.dead = 0 → ¬ wrong → ¬ inside → s.startNode x n y raw slots = s.failNode x.id n 2 succ) ∧
    (e.2.2 = false → y.dead = 0 → ¬ wrong → inside →
      (∀ s1, header .bad s1 → s.startNode x n y raw slots = s1.failNode x.id n 4 succ) ∧
      (∀ f s1, header (.fault f) s1 → s.startNode x n y raw slots = (s1.addFault f (.task (nodeKey x.id n))).2) ∧
      (∀ lregs s1, header (.ok lregs) s1 →
        (∀ r, s1.nodeTrap x n t = some r → s.startNode x n y raw slots = s1.failNode x.id n r succ) ∧
        (s1.nodeTrap x n t = none → ∀ s2, s1.nodeCell x n = (.cannot, s2) → s.startNode x n y raw slots = s2.failNode x.id n 1 succ) ∧
        (s1.nodeTrap x n t = none → ∀ pa s2, s1.nodeCell x n = (.at pa, s2) →
          (pa ∈ s2.waitedCells → s.startNode x n y raw slots = s2.failNode x.id n 1 succ) ∧
          (pa ∉ s2.waitedCells → ∃ u : State, s.startNode x n y raw slots = u.beginNode x n t lregs y.srcs ∧
            countAt u pa = (if kind = 0 then ((tcbParam t 2).setWidth 32).toInt else 1) ∧ statusAt u pa = 0 ∧ u.gangs = s2.gangs ∧
            u.spawns = s2.spawns ∧ u.cmds = s2.cmds ∧ ∀ x' y', InLaunch s2 x.id n x' y' → ∃ x'', InLaunch u x.id n x''
              { y' with started := true, tcb := t, succ := succ, left := if kind = 2 then (tcbParam t 1).toNat else 0 }))))) ∧
  (∀ (s : State) (x : Launch) (n : Nat) (t : List Byte) (lregs : Nat) (srcs : List Src),
    let p := tcbParam t
    let q := if fieldOf t 1 1 = 0 then fieldOf t 2 2 else 4 * fieldOf t 2 2
    let u := s.beginNode x n t lregs srcs
    (fieldOf t 0 1 = 0 → u.mem = s.mem ∧ ((p 2).toNat = 0 → u.spawns = s.spawns) ∧ ((p 2).toNat ≠ 0 → ∃ e, u.spawns = s.spawns ++ [e] ∧
      e.pc = p 0 ∧ e.arg = p 1 ∧ e.count = (p 2).toNat ∧ e.kib = (p 3).toNat ∧ e.next = 0 ∧ e.cell = x.cellVa n ∧ e.tier = fieldOf t 1 1 ∧
      e.lregs = lregs ∧ e.node = some (x.id, n) ∧ e.launch = some x.id ∧ e.prio = x.prio ∧ e.priv = false ∧ e.tvec = x.tvec ∧ e.args = [] ∧
      e.attic = x.attic ∧ e.glbb = 0 ∧ e.glbl.toNat = 2 ^ 56 ∧ e.depth = 0 ∧ e.srcs = srcs)) ∧
    (fieldOf t 0 1 = 1 → ∀ l, s.launches.find? (fun z => z.id == x.id) = some l → ∃ l' y, u.launches.find? (fun z => z.id == x.id) = some l' ∧
      y ∈ l'.stages ∧ y.node = n ∧ y.started = true ∧ y.lregs = lregs ∧ y.pc = p 0 ∧ y.ring = p 1 ∧
      ∀ c, c ∈ y.shares ↔ c ∈ (s.unitCores x.part (fieldOf t 1 1 % 8) (fieldOf t 2 2)).take ((p 2).toNat / 2 ^ 56)) ∧
    (fieldOf t 0 1 = 2 → x.id < 2 ^ 63 → n < 2 ^ 63 → ∃ (v : State) (cs : List Cmd), u = v.registerAll ∧ v.cmds = s.cmds ++ cs ∧ v.mem = s.mem ∧ cs.length = (p 1).toNat ∧
      ∀ k c, cs[k]? = some c → c.op = .mq ∧ c.quad = q ∧ c.part = x.part ∧ c.ctx = x.ctx ∧ c.regs.take 2 = [p 0 + BitVec.ofNat 64 (128 * k), 0] ∧
        c.mqNode = some (x.id, n)) ∧
    (fieldOf t 0 1 = 3 → u.mem = s.mem ∧ ∃ c, u.cmds = s.cmds ++ [c] ∧ c.op = .cpy2 ∧ c.quad = 4 * fieldOf t 2 2 ∧ c.part = x.part ∧ c.ctx = x.ctx ∧
      c.regs = [p 0, p 1, p 2, p 3, p 4, x.cellVa n]) ∧
    (fieldOf t 0 1 = 4 → ∃ c : Cmd, u = { s with nextId := s.nextId + 1 }.beginColl c ∧ c.op = .coll ∧ c.part = x.part ∧ c.ctx = x.ctx ∧
      c.regs = [p 0, p 1, p 2, p 3, p 4, x.cellVa n]) ∧
    (fieldOf t 0 1 = 5 → u = s))

/-- 18 R379, R383 to R385, R396, R397: a node whose count is 0 starts, from its TCB with the slots put in; an unreadable TCB fails every node
that has not started; a node whose cell has come to 0 retires with the cell's status, FAULTED while a consumption bit is set, and lowers
the count of each successor that has not started, down to 0; a HOST node writes its tag, the largest status of its predecessors and its value, raises
its vector, and signals its cell. -/
def Sys2Proof.Claim.nodesStartRetireAndReachTheHost : Prop :=
  (∀ (s : State) (l n : Nat) (x : Launch) (y : Node), InLaunch s l n x y → y.started = false → y.remaining = 0 → s.taskWaits (nodeKey l n) = false →
    let raw := s.tcbRaw x.part x.nodeOff n
    (raw.2 = true → Goes (.nodeStart l n) s (s.failUnread l n)) ∧
    (raw.2 = false → ∀ slots s1 b, s.run (readHomeE (taskCmd (nodeKey l n) x.part x.ctx) 0 (BitVec.ofNat 64 x.base) 2048) = (.ok slots, s1, b) →
      Goes (.nodeStart l n) s (s1.startNode x n y raw.1 slots)) ∧
    (raw.2 = false → y.dead = 0 → ∀ f s1 b, s.run (readHomeE (taskCmd (nodeKey l n) x.part x.ctx) 0 (BitVec.ofNat 64 x.base) 2048) =
      (.error (.fault f), s1, b) → Goes (.nodeStart l n) s (s1.addFault f (.task (nodeKey l n))).2)) ∧
  (∀ (s : State) (l n : Nat) (x : Launch) (y : Node) (pa : Nat) (s1 : State), InLaunch s l n x y → y.started = true → y.retired = false →
    s.taskWaits (nodeKey l n) = false → s.nodeCell x n = (.at pa, s1) →
    (0 < s1.cellCount pa → Goes (.nodeRetire l n) s s1) ∧
    (s1.cellCount pa ≤ 0 → ∃ t, Goes (.nodeRetire l n) s t ∧ t.mem = s1.mem ∧ t.gangs = s1.gangs ∧
      ∀ m z, y.released = true → y.succ = [(m, false)] → m ≠ n → Map.find? x.nodes m = some z → z.started = false → z.retired = false → ∃ x' y' z',
        InLaunch t l n x' y' ∧ Map.find? x'.nodes m = some z' ∧
        (z.remaining ≠ 0 → z'.remaining = z.remaining - 1 ∧ z'.preds = z.preds ++ [n]) ∧ (z.remaining = 0 → z' = z) ∧
        y'.retired = true ∧ y'.status = if (s1.chkiv x.ctx).toNat % 32 = 0 then s1.cellStatus pa else 3)) ∧
  (∀ (s : State) (l n : Nat) (x : Launch) (y : Node), InLaunch s l n x y → y.started = true → y.done = false → fieldOf y.tcb 0 1 = 5 →
    (∀ m ∈ y.preds, ∀ z, Map.find? x.nodes m = some z → z.retired = true) →
    ∃ t st, Goes (.hostNodeWrite l n) s (t.signalNode l n 0) ∧ t.mem = s.mem ∧ t.gangs = s.gangs ∧
      (∀ m ∈ y.preds, ∀ z, Map.find? x.nodes m = some z → z.status ≤ st) ∧
      (st = 0 ∨ ∃ m ∈ y.preds, ∃ z, Map.find? x.nodes m = some z ∧ z.status = st) ∧
      t.host = Map.setMany 0 s.host (tcbParam y.tcb 0).toNat
        (toBytes (BitVec.ofNat 64 (x.tag.toNat * 2 ^ 32 + st * 2 ^ 30 + (tcbParam y.tcb 1).toNat % 2 ^ 30)) 8) ∧
      (let v := (tcbParam y.tcb 2).toNat
       Map.find? s.parts x.part ≠ none → t.msix = s.msix ++ if 1 ≤ v ∧ v < 64 ∧ v ∈ (s.part x.part).unmasked then [(x.part, v)] else []) ∧
      ∃ x' y', InLaunch t l n x' y' ∧ y' = { y with done := true })

/-- 18: launches and the nodes of their graphs, with the model's choices of log 23 (the mode in which the task engine reaches cells and instances)
and log 47 (the order of the checks, and what a launch that waits keeps), both DEDUCED. -/
def Obligations.LaunchesAndNodes : Prop :=
  Claim.launchesAreQueuedAndAccepted ∧ Claim.nodesFail ∧ Claim.nodesBegin ∧ Claim.nodesStartRetireAndReachTheHost

/-- A strand as its brood starts it (05 R108, 18 R387). -/
def Sys2Proof.Claim.Starts (e : Spawn) (ix : Nat) (sl : Slice) : Prop :=
  sl.index = ix ∧ sl.pos = ix % 8 ∧ sl.pc = e.pc ∧ sl.em = 0xF ∧ sl.exited = 0 ∧ sl.between = true ∧ sl.priv = e.priv ∧ sl.tvec = e.tvec ∧
    sl.lane = [] ∧ sl.masks = [] ∧ sl.pending = [] ∧ sl.stkl = BitVec.ofNat 64 e.attic ∧
    ∀ k, Map.get {} sl.scal k = match k with
      | 1 => { v := e.args.getD ix e.arg }
      | 2 => { v := 0xFD00000000000000 + BitVec.ofNat 64 e.attic }
      | 3 => { v := e.cell }
      | _ => {}

/-- 18 R386, R388, R389: an entry may be placed on a quadrant when it is the head of its queue, its context goes on and has Attic, the batch fits there,
the core is the least loaded of its unit on which it fits (the lower number of two), no stage ring of higher priority could use the slots,
and nothing else that would be placed there goes before it, by priority and then by waiting longer. What counts as load, and that a
pre-empted frame stands in front of its queue, are the model's choices (logs 46 and 68). -/
def Sys2Proof.Claim.whoIsPlaced : Prop :=
  (∀ (s : State) (e : Spawn) (q : Nat), s.mayPlace e q = true ↔
    (∀ x ∈ s.works, x.ahead (.entry e) = false) ∧ s.ctxHeld e.ctx = false ∧ s.hasAttic e = true ∧ s.fitsAt e q = true ∧
    s.bestCore e = some (q / 4) ∧ s.ringBefore e.part e.prio q = false ∧
    ∀ w ∈ s.works, w.part = e.part → w.before (.entry e) = true → s.wants w q = false) ∧
  (∀ (s : State) (e : Spawn) (q : Nat), s.spawns.find? (fun x => x.id == e.id) = some e → s.mayPlace e q = false → Goes (.placeStrand e.id q) s s) ∧
  (∀ (s : State) (e : Spawn), (∀ c, s.bestCore e = some c → c ∈ s.coresOf e.part e.tier e.quad ∧ s.fitsOn e c = true ∧
      ∀ d ∈ s.coresOf e.part e.tier e.quad, s.fitsOn e d = true → s.coreLoad c < s.coreLoad d ∨ (s.coreLoad c = s.coreLoad d ∧ c ≤ d)) ∧
    (s.bestCore e = none → ∀ d ∈ s.coresOf e.part e.tier e.quad, s.fitsOn e d = false) ∧
    (∀ c, s.fitsOn e c = true ↔ ∃ k < 4, s.fitsAt e (4 * c + k) = true) ∧
    (∀ c, s.coreLoad c = ((List.range 4).map fun k => 32 - (s.freeSlots (4 * c + k)).length).sum) ∧
    (e.tier ≠ 1 → ∀ q, s.fitsAt e q = true ↔ s.fenced e.part 0 q = false ∧ s.inTier e.part e.tier e.quad q = true ∧
      min 8 (e.count - e.next) ≤ (s.freeSlots q).length)) ∧
  (∀ a b : Work, a.before b = true ↔ a.prio < b.prio ∨ (a.prio = b.prio ∧ ∃ x y, a.since = some x ∧ b.since = some y ∧ x < y)) ∧
  (∀ e f : Spawn, (Work.entry f).ahead (.entry e) = true ↔ (Work.entry f).queue = (Work.entry e).queue ∧ f.id < e.id) ∧
  (∀ (s : State) (part prio q : Nat), s.ringBefore part prio q = true ↔ s.freeSlots q ≠ [] ∧ s.fenced part 0 q = false ∧ ∃ x ∈ s.launches,
    x.part = part ∧ x.prio < prio ∧ s.ctxHeld x.ctx = false ∧ s.takeAttic x.ctx x.attic 1 ≠ none ∧
    ∃ y ∈ x.stages, y.started = true ∧ y.ended = false ∧ y.queue ≠ [] ∧ q / 4 ∈ y.shares)

/-- 18 R386, 11 R235, 21 R435: a crew's gangs on its core, up to 8 strands each, all of its brood in starting state, with its scratchpad of its size
cleared, every byte 0 and every granule full, and a new interval, recoverable. -/
def Sys2Proof.Claim.CrewPlaced (t : State) (e : Spawn) (core crew : Nat) (twin : Bool) (partner : Option Nat) (shadow : Bool) (gs : List Gang) :
    Prop :=
  gs.length = (e.count + 7) / 8 ∧
  (∀ i g, gs[i]? = some g → g.core = core ∧ g.crew = some crew ∧ g.part = e.part ∧ g.ctx = e.ctx ∧ g.brood = e.brood ∧ g.park = .none ∧
    g.framed = false ∧ g.slices.length = min 8 (e.count - 8 * i) ∧ ∀ j sl, g.slices[j]? = some sl → Starts e (8 * i + j) sl) ∧
  ∃ c, Map.find? t.crews crew = some c ∧ c.core = core ∧ c.ctx = e.ctx ∧ c.bytes = 1024 * e.kib ∧ c.base % 4096 = 0 ∧
    c.twin = twin ∧ c.partner = partner ∧ c.shadow = shadow ∧ c.recoverable = true ∧ c.log = [] ∧
    (∀ a, c.base ≤ a → a < c.base + c.bytes → Map.get 0 (t.core core).scratch a = 0) ∧
    ∀ k, c.base ≤ 16 * k → 16 * k < c.base + c.bytes → k ∉ (t.core core).empty

/-- 18 R386, R387, R389 to R392; 05 R92, R108: the head of a spawn queue is placed on the least loaded core with room, when nothing of higher priority could
use the slots, up to 8 children as one gang, a crew whole, under TWIN with its shadow in another stack group, each strand in its starting
state; records from the head of a stage's ring are placed as one gang on a core that the
stage holds; stages end together, when nothing is queued or running and their feeders are over; at the start of a period a share may
move within a launch. The orders that R386 leaves open are the model's choices (logs 46 and 68). -/
def Obligations.PlacementStagesAndShares : Prop :=
  Claim.whoIsPlaced ∧
  (∀ (s : State) (e : Spawn) (q : Nat), s.spawns.find? (fun x => x.id == e.id) = some e → q < 768 → s.mayPlace e q = true →
    (e.tier = 1 → e.next = 0 → (s.modes e.part e.ctx).2 = false → ∃ t gs, Goes (.placeStrand e.id q) s t ∧ t.gangs = s.gangs ++ gs ∧
      CrewPlaced t e (q / 4) s.nextId false none false gs ∧ t.spawns = s.spawns.filter fun x => x.id != e.id) ∧
    (e.tier = 1 → e.next = 0 → (s.modes e.part e.ctx).2 = true → (∀ g ∈ s.gangs, g.crew ≠ some (s.nextId + 1)) → ∃ t gs gs' c,
      Goes (.placeStrand e.id q) s t ∧ t.gangs = s.gangs ++ gs ++ gs' ∧ groupOf c ≠ groupOf (q / 4) ∧
      CrewPlaced t e (q / 4) s.nextId true (some (s.nextId + 1)) false gs ∧ CrewPlaced t e c (s.nextId + 1) true (some s.nextId) true gs' ∧
      t.spawns = s.spawns.filter fun x => x.id != e.id) ∧
    (e.tier ≠ 1 → ∃ t g, Goes (.placeStrand e.id q) s t ∧ t.gangs = s.gangs ++ [g] ∧ t.mem = s.mem ∧ g.slices.length = min 8 (e.count - e.next) ∧
      g.core = q / 4 ∧ g.quad = q % 4 ∧ g.part = e.part ∧ g.ctx = e.ctx ∧ g.brood = e.brood ∧ g.park = .none ∧ g.framed = false ∧
      (∀ i sl, g.slices[i]? = some sl → Starts e (e.next + i) sl) ∧
      (e.count ≤ e.next + 8 → t.spawns = s.spawns.filter fun x => x.id != e.id) ∧
      (e.next + 8 < e.count → t.spawns = s.spawns.map fun x => if x.id = e.id then { x with next := x.next + 8 } else x))) ∧
  (∀ (s : State) (l n core q : Nat) (x : Launch) (y : Stage), s.launch? l = some x → s.stage? l n = some y → y.started = true → y.ended = false →
    core ∈ y.shares → q / 4 = core → s.fenced x.part 0 q = false → s.ctxHeld x.ctx = false → 0 < s.takeable x y q →
    s.ringBefore x.part x.prio q = false → (∀ w ∈ s.works, w.part = x.part → w.prio < x.prio → s.wants w q = false) → ∃ t g,
      Goes (.stageTakeRecords l n core q) s t ∧ t.gangs = s.gangs ++ [g] ∧ t.mem = s.mem ∧ g.core = core ∧ g.launch = some x.id ∧ g.stage = some y.node ∧
      g.slices.length = s.takeable x y q ∧ (∀ (i : Nat) (sl : Slice) (en : Entry), g.slices[i]? = some sl → y.queue[i]? = some en →
        sl.depth = en.depth ∧ sl.ring = some en.slot ∧ (Map.get {} sl.scal 1).v = y.ring + BitVec.ofNat 64 (64 * en.slot)) ∧
      ∃ y', t.stage? l n = some y' ∧ y'.queue = y.queue.drop (s.takeable x y q)) ∧
  (∀ (s : State) (l n : Nat) (x : Launch), s.launch? l = some x → (∃ y ∈ s.endingStages x, y.node = n) → ∃ t y', Goes (.stageEnd l n) s t ∧
    t.stage? l n = some y' ∧ y'.ended = true ∧ y'.shares = []) ∧
  (∀ (s : State) (x : Launch), ∀ y ∈ s.endingStages x, y ∈ x.stages ∧ y.started = true ∧ y.ended = false ∧ s.occupied x.id y = 0 ∧
    x.feedersRetired (s.succsOf x) y.node = true ∧
    ∀ z ∈ x.stageFeeders (s.succsOf x) y, z.ended = true ∨ ∃ w ∈ s.endingStages x, w.node = z.node) ∧
  (∀ (s : State) (part : Nat) (p : Part), Map.find? s.parts part = some p → s.cycle % 4096 = 0 → s.cycle / 4096 ≠ p.period → ∃ t,
    Goes (.rebalancePeriod part) s t ∧ (t.part part).period = s.cycle / 4096 ∧ t.gangs = s.gangs ∧ t.mem = s.mem ∧ t.spawns = s.spawns ∧
      t.launches.map Launch.id = s.launches.map Launch.id)

/-! ## Steps of the fabric (19) -/

/-- A communicator's entry and a packet's rights: valid, an address of the global window, no fault of it in service. -/
def Sys2Proof.Claim.Arrives (s : State) (part : Nat) (p : Packet) (e : CommEntry) : Prop :=
  s.portsUp part = true ∧ (s.part part).power ≠ 1 ∧ s.entry? part p.comm = some e ∧ e.valid = true ∧ p.va.extractLsb' 56 8 = 0 ∧
    s.engineWaits (.packet p.op p.va.toNat) = false

/-- 19 R399, R400, R420 to R423: a packet is translated in the communicator's context and its bytes are written at home, a remote signal
signals its cell by 1, OK; each acknowledgement lowers its core's counter by 1; an FPUT whose packets are all acknowledged signals its
cell and is gone; the read of an FGET's packet is answered with the bytes at home; a packet's data go to their destination at home, marked
where they were read with an error, and once every packet is over the cell is signalled; a packet that no path has delivered for 1 ms is sent
again, once, and after a further 1 ms its operation is FAULTED. That an ended FPUT gives up the acknowledgements that it still owes, and how
the packets of an FGET go, are the model's choices (log 24). -/
def Sys2Proof.Claim.putsAndGetsCrossTheFabric : Prop :=
  (∀ (s : State) (part : Nat) (p : Packet) (e : CommEntry), Arrives s part p e → s.partOf p.origin = none →
    let c := incoming part e.ctx p.op
    (p.signal = false → ∀ ps s1 b, s.run (reachE c true (s.portOwner part p.op) p.va p.data.length) = (.ok ps, s1, b) → ∃ t,
      Goes (.fputPacketPerform part p) s t ∧ t.mem = (s1.storeAll c true ps p.data).mem ∧ t.gangs = s1.gangs ∧ t.puts = s.puts) ∧
    (p.signal = true → ∀ pa s1, s.reachCell c.core part c.ctx rootSegs p.va = (.at pa, s1) →
      Goes (.fputPacketPerform part p) s (s1.signalCell pa 1 0 false .pod))) ∧
  (∀ (s : State) (part o : Nat) (p : Packet) (e : CommEntry) (r : PutRun), Arrives s part p e → s.partOf p.origin = some o → p.signal = false →
    s.puts.find? (fun r => r.cmd.id == p.op && s.partOf (s.targetOf r.cmd) == some part && r.flight.any fun f => f.p == p && !f.held) = some r →
    s.puts.find? (fun r => r.cmd.id == p.op) = some r → ∀ ps s1 b,
    s.run (reachE (incoming part e.ctx p.op) true (s.portOwner part p.op) p.va p.data.length) = (.ok ps, s1, b) → ∃ t r',
      Goes (.fputPacketPerform part p) s t ∧ t.mem = (s1.storeAll (incoming part e.ctx p.op) true ps p.data).mem ∧ t.gangs = s1.gangs ∧
      t.puts.find? (fun r => r.cmd.id == p.op) = some r' ∧ r'.flight.length = r.flight.length ∧ ∃ f ∈ r'.flight, f.p = p ∧ f.held = true ∧ f.failed = false) ∧
  (∀ (s : State) (core c : Nat) (failed : Bool) (r : PutRun) (f : Flight),
    s.puts.find? (fun x => x.cmd.id == c && x.cmd.core == core && !x.ended) = some r → s.puts.find? (fun x => x.cmd.id == r.cmd.id) = some r →
    r.flight.find? (fun x => x.held || !(s.partOf (s.targetOf r.cmd)).isSome) = some f → ∃ t r', Goes (.fabricAck core c failed) s t ∧
      (t.core core).ack = (s.core core).ack - 1 ∧ t.mem = s.mem ∧ t.gangs = s.gangs ∧ t.puts.find? (fun x => x.cmd.id == c) = some r' ∧
      r'.owed = r.owed - 1 ∧ r'.flight = r.flight.erase f ∧ r'.sent = r.sent ∧
      (r'.status = if f.failed || (failed && !(s.partOf (s.targetOf r.cmd)).isSome) then 3 else r.status)) ∧
  (∀ (s : State) (id : Nat) (r : PutRun), s.puts.find? (fun x => x.cmd.id == id && x.over && !s.engineWaits (.fabric id)) = some r → r.deadCell = false →
    (r.cmd.cell = 0 → ∃ t, Goes (.fputComplete id) s t ∧ t.puts = s.puts.filter (fun x => x.cmd.id != id) ∧
      (t.core r.cmd.core).ack = (s.core r.cmd.core).ack - BitVec.ofNat 32 r.owed ∧ t.mem = s.mem ∧ t.gangs = s.gangs) ∧
    (r.cmd.cell ≠ 0 → ∀ pa s1, s.reachCell r.cmd.core r.cmd.part r.cmd.ctx r.cmd.segs r.cmd.cell = (.at pa, s1) → ∃ t, Goes (.fputComplete id) s t ∧
      t.puts = s.puts.filter (fun x => x.cmd.id != id) ∧ t.mem = (s1.signalCell pa 1 r.status false r.cmd.src).mem ∧
      t.gangs = (s1.signalCell pa 1 r.status false r.cmd.src).gangs)) ∧
  (∀ (s : State) (part comm : Nat) (va : BitVec 64) (len tag : Nat) (e : CommEntry), s.portsUp part = true → (s.part part).power ≠ 1 →
    s.entry? part comm = some e → e.valid = true → s.engineWaits (.packet tag va.toNat) = false → va.extractLsb' 56 8 = 0 → ∀ bs bad s1 b,
    s.run (readMarkedE (incoming part e.ctx tag) (s.portOwner part tag) va len) = (.ok (bs, bad), s1, b) → ∃ t,
      Goes (.fgetTargetRead part comm va len tag) s t ∧ t.mem = s.mem ∧ t.gangs = s.gangs ∧
      ((∀ r ∈ s.gets, r.cmd.id = tag → r.asks va len = none) → t.gets = s.gets) ∧
      (∀ r k, s.gets.find? (fun x => x.cmd.id == tag) = some r → s.partOf (s.targetOf r.cmd) = some part → r.asks va len = some k → ∃ r',
        t.gets.find? (fun x => x.cmd.id == tag) = some r' ∧ r'.parts.length = r.parts.length ∧
        ∀ j p, r.parts[j]? = some p → r'.parts[j]? = some (if j = k then { p with reply := some (bs, bad, false) } else p))) ∧
  (∀ (r : GetRun) (va : BitVec 64) (len k : Nat), r.asks va len = some k → r.ended = false ∧ ∃ p, r.parts[k]? = some p ∧ p.reply = none ∧
    p.done = false ∧ va = r.cmd.regs.getD 1 0 + BitVec.ofNat 64 (r.cmd.packetAt k) ∧ len = r.cmd.packetLen k) ∧
  (∀ (s : State) (id k : Nat) (data : List Byte) (bad : List Nat) (r : GetRun) (p : GetPart),
    s.gets.find? (fun x => x.cmd.id == id && !s.engineWaits (.fabric id)) = some r → s.gets.find? (fun x => x.cmd.id == id) = some r →
    r.ended = false → r.parts[k]? = some p → p.done = false →
    (s.partOf (s.targetOf r.cmd)).isSome = false ∨ p.reply = some (data, bad, false) → data.length = r.cmd.packetLen k → ∀ ps s1 b,
    s.run (reachE r.cmd true r.cmd.core (r.cmd.regs.getD 2 0 + BitVec.ofNat 64 (r.cmd.packetAt k)) data.length) = (.ok ps, s1, b) → ∃ u : State,
      let status := if bad = [] then r.status else 3
      u.mem = (s1.storeAll r.cmd true ps data).mem ∧ u.gangs = s1.gangs ∧ u.bad8 = ((s1.storeAll r.cmd true ps data).markBytes ps bad).bad8 ∧
      ((∃ j y, j ≠ k ∧ r.parts[j]? = some y ∧ y.done = false) → Goes (.fgetComplete id k ⟨data, bad⟩ false) s u ∧ ∃ r',
        u.gets.find? (fun x => x.cmd.id == id) = some r' ∧ r' = { r with parts := r'.parts, status := status } ∧
        ∀ j y, r.parts[j]? = some y → r'.parts[j]? = some (if j = k then { y with done := true } else y)) ∧
      ((∀ j y, j ≠ k → r.parts[j]? = some y → y.done = true) → r.deadCell = false →
        (r.cmd.cell = 0 → Goes (.fgetComplete id k ⟨data, bad⟩ false) s { u with gets := u.gets.filter fun x => x.cmd.id != id }) ∧
        (r.cmd.cell ≠ 0 → ∀ pa s3, u.reachCell r.cmd.core r.cmd.part r.cmd.ctx r.cmd.segs r.cmd.cell = (.at pa, s3) →
          let v := s3.signalCell pa 1 status false r.cmd.src
          Goes (.fgetComplete id k ⟨data, bad⟩ false) s { v with gets := v.gets.filter fun x => x.cmd.id != id }))) ∧
  (∀ (s : State) (n pa len : Nat) (bad : List Nat) (x : Nat),
    x ∈ (s.markBytes [(n, .home pa, len)] bad).bad8 ↔ x ∈ s.bad8 ∨ ∃ i ∈ bad, n ≤ i ∧ i < n + len ∧ x = (pa + i - n) / 8) ∧
  (∀ (s : State) (id n : Nat) (r : PutRun) (f : Flight), s.puts.find? (fun x => x.cmd.id == id) = some r → r.flight[n]? = some f →
    3000000 ≤ s.cycle - f.sent → f.held = false →
    (f.again = false → Goes (.packetResend id n) s (s.setPut id fun r => { r with flight := r.flight.set n { f with sent := s.cycle, again := true } })) ∧
    (f.again = true → (∀ x ∈ s.gets, x.cmd.id ≠ id) → Goes (.pathFailure id) s (s.setPut id fun r => { r with ended := true, flight := [], status := 3 }))) ∧
  (∀ (s : State) (id n : Nat) (r : GetRun) (p : GetPart), (∀ x ∈ s.puts, x.cmd.id ≠ id) → s.gets.find? (fun x => x.cmd.id == id) = some r →
    r.ended = false → r.parts[n]? = some p → 3000000 ≤ s.cycle - p.sent → p.reply = none → p.done = false →
    (p.again = false → ∃ t r', Goes (.packetResend id n) s t ∧ t = { s with gets := t.gets } ∧ t.gets.find? (fun x => x.cmd.id == id) = some r' ∧
      r' = { r with parts := r'.parts } ∧ ∀ j y, r.parts[j]? = some y → r'.parts[j]? = some (if j = n then { y with sent := s.cycle, again := true } else y)) ∧
    (p.again = true → Goes (.pathFailure id) s (s.setGet id fun r => { r with ended := true, status := 3 })))

/-- A COLL of a partition under a key that stands at a stage. -/
def Sys2Proof.Claim.CollAt (s : State) (part : Nat) (key : BitVec 64) (st : CollStage) (r : CollRun) : Prop :=
  s.colls.find? (fun x => x.under part key && x.stage == st && !s.engineWaits (.fabric x.cmd.id)) = some r ∧
    s.colls.find? (fun x => x.under part key && x.stage == st) = some r

/-- 19 R412, R416, R417: a collective that has started compares CTL and COUNT of every member, reaches its destination and reads its source, which a
BCAST's members other than the root reach and do not read; a range that cannot be reached ends it FAULTED; once every member has, the destination takes the result and the cell is signalled OK; with members that differ, a failure anywhere,
or a waited cell in the destination (01 R17), FAULTED and nothing written. The loss of the primary of a communicator without a standby sets FAILED in its entry and answers every CCANCEL
and CSEQ of it. -/
def Sys2Proof.Claim.collectivesRunAndFail : Prop :=
  (∀ (s : State) (part : Nat) (key : BitVec 64) (others : List (BitVec 64 × BitVec 64)) (r : CollRun) (e : CommEntry) (c : Comm),
    CollAt s part key .started r → s.comm? part (commOf key) = some (e, c) → others.length + 1 = e.nmem →
    let reg := fun k => r.cmd.regs.getD k 0
    ((∃ p ∈ others, p ≠ (reg 4, reg 3)) → Goes (.collStart part key others) s (s.endColl r.cmd.id 3 true)) ∧
    ((∀ p ∈ others, p = (reg 4, reg 3)) → ∀ dst ps bs s1 s2 b b2,
      s.run (reachE r.cmd true r.cmd.core (reg 2) (collSizes (ctlOf (reg 4)) e.nmem (reg 3).toNat).2) = (.ok dst, s1, b) → ps = homeParts dst →
      (if (ctlOf (reg 4)).op ≠ 3 ∨ (ctlOf (reg 4)).root = e.self then
          (readHomeE r.cmd r.cmd.core (reg 1) (collSizes (ctlOf (reg 4)) e.nmem (reg 3).toNat).1).run (s1, b) = (.ok bs, s2, b2)
        else bs = [] ∧ ∃ qs, (uncountedE (reachE r.cmd false r.cmd.core (reg 1) (collSizes (ctlOf (reg 4)) e.nmem (reg 3).toNat).1)).run (s1, b) = (.ok qs, s2, b2)) → ∃ t, Goes (.collStart part key others) s t ∧ t.mem = s.mem ∧ t.gangs = s.gangs ∧
      t.colls = (s.setColl r.cmd.id fun r => { r with stage := .running, src := bs, dst := ps, failed := b2 }).colls) ∧
    ((∀ p ∈ others, p = (reg 4, reg 3)) → ∀ a s1 b,
      s.run (reachE r.cmd true r.cmd.core (reg 2) (collSizes (ctlOf (reg 4)) e.nmem (reg 3).toNat).2) = (.error (.stop a), s1, b) ∨
        (∃ dst s0 b0, s.run (reachE r.cmd true r.cmd.core (reg 2) (collSizes (ctlOf (reg 4)) e.nmem (reg 3).toNat).2) = (.ok dst, s0, b0) ∧
          (ctlOf (reg 4)).op = 3 ∧ (ctlOf (reg 4)).root ≠ e.self ∧
          (uncountedE (reachE r.cmd false r.cmd.core (reg 1) (collSizes (ctlOf (reg 4)) e.nmem (reg 3).toNat).1)).run (s0, b0) = (.error (.stop a), s1, b)) →
      Goes (.collStart part key others) s
        ((s1.engineRecord r.cmd 0x0F r.cmd.core 0 a 0).setColl r.cmd.id fun r => { r with stage := .running, failed := true }))) ∧
  (∀ (s : State) (part : Nat) (key : BitVec 64) (srcs : List (List Byte)) (failed : Bool) (r : CollRun) (e : CommEntry) (c : Comm),
    CollAt s part key .running r → s.comm? part (commOf key) = some (e, c) →
    let ctl := ctlOf (r.cmd.regs.getD 4 0)
    let n := (r.cmd.regs.getD 3 0).toNat
    (failed = true ∨ r.failed = true → Goes (.collComplete part key srcs failed) s (s.endColl r.cmd.id 3 true)) ∧
    (failed = false → r.failed = false → srcs.length = e.nmem →
      (∀ p, r.dst.find? (fun p => s.hitsWaiter p.2.1 p.2.2) = some p →
        (∀ m < e.nmem, ((srcs.set e.self r.src).getD m []).length = (collSizes ctl e.nmem n).1 ∨ ctl.op = 3 ∧ m ≠ ctl.root) →
        Goes (.collComplete part key srcs failed) s
          ((s.engineRecord r.cmd 0x0F r.cmd.core 0 (r.cmd.regs.getD 2 0 + BitVec.ofNat 64 p.1) 0).endColl r.cmd.id 3 true))) ∧
    (failed = false → r.failed = false → srcs.length = e.nmem → (∀ p ∈ r.dst, s.hitsWaiter p.2.1 p.2.2 = false) →
      (∀ m < e.nmem, ((srcs.set e.self r.src).getD m []).length = (collSizes ctl e.nmem n).1 ∨ ctl.op = 3 ∧ m ≠ ctl.root) →
      Goes (.collComplete part key srcs failed) s
        ((r.dst.foldl (fun s p => s.writeHome p.2.1 (((collResult ctl e.self n (srcs.set e.self r.src)).drop p.1).take p.2.2)) s).endColl r.cmd.id 0 true))) ∧
  (∀ (s : State) (part comm : Nat) (e : CommEntry) (c : Comm), s.comm? part comm = some (e, c) → e.hasStandby = false → e.primary ≠ s.devid part →
    e.failed = false → ∃ t, Goes (.communicatorFailure part comm) s t ∧ (∀ q ∈ t.queries, ¬ (q.cmd.part = part ∧ commOf q.key = comm)) ∧
      ((∀ r ∈ s.colls, r.cmd.part = part → commOf (r.cmd.regs.getD 0 0) ≠ comm) → t.mem = Map.setMany unlisted s.mem (e.at_ + 2) [BitVec.ofNat 8 (e.flags ||| 2)]))

/-- 19: FPUT, FGET and collectives across the fabric. -/
def Obligations.FabricMovesAndCollectives : Prop := Claim.putsAndGetsCrossTheFabric ∧ Claim.collectivesRunAndFail

/-! ## Sequencers and members (19 R403 to R412) -/

/-- A member's request arrives at this device's sequencer: this device's own member asks when it has reason to and has a request under way to
this device, another one over ports that are up. -/
def Sys2Proof.Claim.MayAsk (a : Ask) (s : State) (part comm m : Nat) (key : BitVec 64) (e : CommEntry) (c : Comm) (due : Bool) : Prop :=
  s.comm? part comm = some (e, c) ∧ m < e.nmem ∧ commOf key = comm ∧ (s.part part).power ≠ 1 ∧
    (if s.selfOf part e = some m then due = true ∧ ∃ r ∈ c.asked, r.ask = a ∧ r.key = key ∧ r.toward = s.devid part else s.portsUp part = true)

/-- A primary that handles requests. -/
def Sys2Proof.Claim.Handles (q : Sequencer) : Prop := q.role = .primary ∧ q.degraded = false ∧ q.busy = none

/-- A request is handled: without a standby that is another device, or when it changes nothing that the standby holds, it is granted at once;
else the grant waits for the standby. -/
def Sys2Proof.Claim.Asked (i : Instr) (a : Ask) (s : State) (part comm m : Nat) (key : BitVec 64) (e : CommEntry) (c : Comm) : Prop :=
  ∀ g q, c.seq.handle e.nmem a m key = some (g, q) → ∃ t c', Goes i s t ∧ t.comm? part comm = some (e, c') ∧ t.mem = s.mem ∧ t.gangs = s.gangs ∧
    (c'.seq = if s.replicates part e && c.seq.changed q then { q with busy := some g, since := s.cycle } else q)

/-- This device's own member is turned away: a fenced sequencer sends its requests to the standby (R410); one whose window is full has the request
sent again later, to itself (R409). -/
def Sys2Proof.Claim.TurnedAway (i : Instr) (a : Ask) (s : State) (part comm m : Nat) (key : BitVec 64) (e : CommEntry) (c : Comm) : Prop :=
  s.selfOf part e = some m →
  (c.seq.role = .fenced → ∃ t c', Goes i s t ∧ t.comm? part comm = some (e, c') ∧ t.mem = s.mem ∧ c'.seq = c.seq ∧ c'.toward = e.standby % 4096 ∧
    c'.asked = c.asked.map fun r => { r with toward := e.standby % 4096 }) ∧
  (Handles c.seq → c.seq.full = true → c.seq.key? key = none → a = .register ∨ a = .cancel → ∃ t c', Goes i s t ∧ t.comm? part comm = some (e, c') ∧
    t.mem = s.mem ∧ c'.seq = c.seq ∧ c'.toward = c.toward ∧
    c'.asked = c.asked.map fun r => if r.ask = a ∧ r.key = key then { r with since := s.cycle, sent := s.cycle } else r)

/-- 19 R405, R406, R409, R410: the first registration or cancellation of a key takes the next start number; a cancellation voids a key that has not
started and no other; the first START makes an assigned key STARTED; the last report retires a key; nothing else changes a key's number. A full
window turns a registration away for the moment, a fenced sequencer every request. That a request of this device's member stands until its grant
leaves, and where a refused one goes, are the model's choices (logs 24 and 73, DEDUCED). -/
def Sys2Proof.Claim.sequencersAssignInOrder : Prop :=
  (∀ (s : State) (part comm m : Nat) (key : BitVec 64) (e : CommEntry) (c : Comm),
    (MayAsk .register s part comm m key e c (s.issued part key) →
      Asked (.seqRegister part comm key m) .register s part comm m key e c ∧ TurnedAway (.seqRegister part comm key m) .register s part comm m key e c) ∧
    (MayAsk .start s part comm m key e c (c.known.any fun k => k.key == key && k.asking) →
      Asked (.seqStart part comm key m) .start s part comm m key e c ∧ TurnedAway (.seqStart part comm key m) .start s part comm m key e c) ∧
    (MayAsk .cancel s part comm m key e c (!(s.queriesOf part true key).isEmpty || c.cancels.contains key) →
      Asked (.seqCancel part comm key m) .cancel s part comm m key e c ∧ TurnedAway (.seqCancel part comm key m) .cancel s part comm m key e c) ∧
    (MayAsk .done s part comm m key e c (c.reports.contains key) →
      Asked (.seqDoneReport part comm key m) .done s part comm m key e c ∧ TurnedAway (.seqDoneReport part comm key m) .done s part comm m key e c)) ∧
  (∀ (q : Sequencer) (n m : Nat) (key : BitVec 64), Handles q → q.key? key = none → q.full = false → ∃ g q' g2 q2,
    q.handle n .register m key = some (g, q') ∧ g.number = q.next ∧ q'.next = q.next + 1 ∧
      q'.keys = q.keys ++ [{ key := key, number := q.next, state := .assigned, regs := [m], started := [], done := [] }] ∧
    q.handle n .cancel m key = some (g2, q2) ∧ g2.number = q.next ∧ q2.next = q.next + 1 ∧
      q2.keys = q.keys ++ [{ key := key, number := q.next, state := .void, regs := [], started := [], done := [] }] ∧
    q.handle n .start m key = none ∧ q.handle n .done m key = none) ∧
  (∀ (q : Sequencer) (n m : Nat) (key : BitVec 64), Handles q → q.key? key = none → q.full = true →
    q.handle n .register m key = none ∧ q.handle n .cancel m key = none) ∧
  (∀ (q : Sequencer) (n m : Nat) (key : BitVec 64) (k : SeqKey), Handles q → q.key? key = some k →
    (∃ g q', q.handle n .register m key = some (g, q') ∧ q'.next = q.next ∧ q'.key? key = some { k with regs := NatSet.put k.regs m }) ∧
    (∃ g q', q.handle n .start m key = some (g, q') ∧ q'.next = q.next ∧
      q'.key? key = some (if k.state = .void then k else { k with state := .started, started := NatSet.put k.started m })) ∧
    (∃ g q', q.handle n .cancel m key = some (g, q') ∧ q'.next = q.next ∧ q'.key? key = some (if k.state = .assigned then { k with state := .void } else k)) ∧
    (∃ g q', q.handle n .done m key = some (g, q') ∧ q'.next = q.next ∧ q'.key? key =
      if (k.state = .started ∨ k.state = .void) ∧ n ≤ (NatSet.put k.done m).length then none else some { k with done := NatSet.put k.done m }))

/-- A communicator's state on this device changes, and nothing else of the machine but it. -/
def Sys2Proof.Claim.SeqBecomes (i : Instr) (s : State) (part comm : Nat) (q : Sequencer) : Prop :=
  ∃ t c' e, Goes i s t ∧ t.comm? part comm = some (e, c') ∧ c'.seq = q ∧ t.mem = s.mem ∧ t.gangs = s.gangs ∧ t.colls = s.colls

/-- 19 R405, R410, R411: the standby's acknowledgement lets the waiting grant go; the standby takes what the primary replicates, numbers in
order; 1 ms without a heartbeat makes it PRIMARY with the next EPOCH; a primary without an acknowledgement for 2 ms is degraded, one that
sees a higher EPOCH is fenced and grants no more; a request without a reply for 250 µs is sent again, after 1.5 ms to the standby, and a takeover
notice turns every one to the new primary. That an acknowledgement ends the degraded state is log 24's choice; the members in a replication message,
each request's own times, and a standby's first millisecond counted from when it takes up its entry are those of logs 24 and 73 (DEDUCED). -/
def Sys2Proof.Claim.standbysTakeOver : Prop :=
  ∀ (s : State) (part comm : Nat) (e : CommEntry) (c : Comm), s.comm? part comm = some (e, c) →
    (∀ g, c.seq.busy = some g → c.seq.role = .primary →
      SeqBecomes (.standbyAcknowledgement part comm g.key) s part comm { c.seq with busy := none, degraded := false }) ∧
    (∀ r : Replica, c.seq.role = .standby → c.seq.epoch ≤ r.epoch → commOf r.key = comm → ∃ q, SeqBecomes (.replicationApply part comm r) s part comm q ∧
      q.role = .standby ∧ q.epoch = r.epoch ∧ q.key? r.key = (if r.state = .none then none else
        some { key := r.key, number := r.number, state := r.state, regs := r.regs, started := r.started, done := r.done }) ∧
      (∀ x, x ≠ r.key → q.key? x = c.seq.key? x) ∧
      (q.next = if c.seq.key? r.key = none ∧ r.state ≠ .none then r.number + 1 else c.seq.next)) ∧
    SeqBecomes (.heartbeat part comm) s part comm { c.seq with heard := s.cycle } ∧
    (c.seq.role = .standby → 3000000 ≤ s.cycle - c.seq.heard → SeqBecomes (.standbyTakeover part comm) s part comm
      { c.seq with role := .primary, epoch := c.seq.epoch + 1, busy := none, degraded := false }) ∧
    (c.seq.role = .primary → c.seq.busy ≠ none → 6000000 ≤ s.cycle - c.seq.since →
      SeqBecomes (.primaryDegraded part comm) s part comm { c.seq with degraded := true }) ∧
    (∀ ep, c.seq.role = .primary → c.seq.epoch < ep →
      SeqBecomes (.epochFence part comm ep) s part comm { c.seq with role := .fenced, busy := none } ∧
      ∀ n a m key, ({ c.seq with role := .fenced, busy := none } : Sequencer).handle n a m key = none) ∧
    (∀ key r,
      let due := fun (r : Sys2Proof.Machine.Asked) => r.key == key && decide (750000 ≤ s.cycle - r.sent)
      let dev := if c.epoch = 0 ∧ e.hasStandby = true ∧ 4500000 ≤ s.cycle - r.since then e.standby % 4096 else r.toward
      c.asked.find? due = some r → ∃ t c', Goes (.requestRetry part comm key) s t ∧ t.comm? part comm = some (e, c') ∧ t.mem = s.mem ∧
        c' = { c with asked := updFirst due (fun _ => { r with sent := s.cycle, toward := dev }) c.asked }) ∧
    (∀ ep, e.hasStandby = true → c.epoch < ep → ∃ t c', Goes (.takeoverNotice part comm (e.standby % 4096) ep) s t ∧
      t.comm? part comm = some (e, c') ∧ c'.toward = e.standby % 4096 ∧ c'.epoch = ep ∧ c'.known = c.known ∧ t.mem = s.mem ∧
      c'.asked = c.asked.map fun r => { r with toward := e.standby % 4096 })

/-- 19: the primary sequencer, and the standby that takes its place. -/
def Obligations.SequencersAssignAndStandbysTakeOver : Prop := Claim.sequencersAssignInOrder ∧ Claim.standbysTakeOver

/-- The replies that answer the waiting CCANCELs, or CSEQs, of a key: each one's number with its code goes to the register that its strand waits
with, and no query of them is left. -/
def Sys2Proof.Claim.Answers (s t : State) (qs : List Query) (n : BitVec 32) (code : Nat) : Prop :=
  let u := qs.foldl (fun x q => x.deliverResult q.cmd q.word (.scalar q.reg) ⟨BitVec.ofNat 64 (n.toNat + 2 ^ 32 * code), false⟩) s
  t.gangs = u.gangs ∧ t.cur = u.cur ∧ t.mem = s.mem ∧ t.colls = s.colls ∧
  t.queries = s.queries.filter fun x => !qs.any fun q => q.cmd.id == x.cmd.id

/-- 19 R413, R418, R419: a reply to CCANCEL, or to CSEQ, from the primary on another device or from this one's sequencer, reaches the
register of every waiting CCANCEL, or CSEQ, of the key: the number in bits 31:0, the code in bits 63:32. No other code is taken. -/
def Sys2Proof.Claim.repliesReachTheirRegisters : Prop :=
  ∀ (s : State) (part comm : Nat) (n : BitVec 32) (key : BitVec 64) (e : CommEntry) (c : Comm) (code : Nat), s.comm? part comm = some (e, c) →
    commOf key = comm →
    (∀ cancel x, x ∈ s.queriesOf part cancel key ↔ x ∈ s.queries ∧ x.cmd.part = part ∧ x.cancel = cancel ∧ x.key = key ∧ x.sent = true) ∧
    (code ≤ 2 → c.seq.role ≠ .primary ∨ (n, key, .answer code) ∈ c.inbox →
      ∃ t, Goes (.memberNotice part comm n key (.answer code)) s t ∧ Answers s t (s.queriesOf part true key) n code) ∧
    (2 < code → Goes (.memberNotice part comm n key (.answer code)) s s) ∧
    (code ≤ 3 ∨ code = 5 → c.seq.role ≠ .primary ∨ (c.seq.busy = none ∧
      (n, code) = match c.seq.key? key with
        | none => (c.seq.next, 0)
        | some k => (k.number, match k.state with
          | .none => 0
          | .assigned => 1
          | .started => 2
          | .void => 3)) →
      ∃ t, Goes (.memberNotice part comm n key (.state code)) s t ∧ Answers s t (s.queriesOf part false key) n code) ∧
    (code = 4 ∨ 5 < code → Goes (.memberNotice part comm n key (.state code)) s s)

/-- 19 R407, R412: a member learns a number once; GO starts its COLL and moves it on; RETIRED drops the number; a void number ends a COLL under its
key, one that the member has passed and still knows too. -/
def Sys2Proof.Claim.noticesMoveAMember : Prop :=
  (∀ (s : State) (part comm : Nat) (n : BitVec 32) (key : BitVec 64) (e : CommEntry) (c : Comm), s.comm? part comm = some (e, c) → commOf key = comm →
    c.seq.role ≠ .primary →
    (precedes n c.low = false → n ≠ c.low → (∀ k ∈ c.known, k.number ≠ n) → c.known.all (fun k => k.number != c.low) → ∃ t c',
      Goes (.memberNotice part comm n key .assigned) s t ∧ t.comm? part comm = some (e, c') ∧ c'.low = c.low ∧
      c'.known = c.known ++ [{ number := n, key := key, void := false, asking := false, mine := false }] ∧ t.colls = s.colls ∧ t.mem = s.mem) ∧
    (precedes n c.low = true → ∃ t c', Goes (.memberNotice part comm n key .retired) s t ∧ t.comm? part comm = some (e, c') ∧
      c'.known = c.known.filter (fun k => k.number != n) ∧ c'.low = c.low ∧ t.mem = s.mem) ∧
    (∀ k, c.known.find? (fun k => k.number == c.low) = some k → n = c.low → k.key = key → k.asking = true → c.known.all (fun x => x.number != c.low + 1) →
      ∃ t c', Goes (.memberNotice part comm n key .go) s t ∧ t.comm? part comm = some (e, c') ∧ c'.low = c.low + 1 ∧
      t.colls = s.colls.map fun r => if r.under part key && r.stage == .waiting then { r with stage := .started } else r) ∧
    (n = c.low → (∀ k ∈ c.known, k.number ≠ c.low ∧ k.number ≠ c.low + 1) → ∃ s1 c',
      Goes (.memberNotice part comm n key .voided) s ((s.colls.filter fun r => r.under part key).foldl (fun x r => x.endColl r.cmd.id 2 false) s1) ∧
      s1.comm? part comm = some (e, c') ∧ c'.low = c.low + 1 ∧ key ∈ c'.reports ∧ s1.colls = s.colls ∧ s1.mem = s.mem ∧ s1.gangs = s.gangs) ∧
    (precedes n c.low = true →
      ((∀ k ∈ c.known, k.number = n → k.key ≠ key) → ∃ t, Goes (.memberNotice part comm n key .voided) s t ∧ t.colls = s.colls ∧ t.mem = s.mem) ∧
      ((∃ k ∈ c.known, k.number = n ∧ k.key = key) → (∀ k ∈ c.known, k.number ≠ n → k.key ≠ key) → ∃ s1,
        Goes (.memberNotice part comm n key .voided) s
          ((s.colls.filter fun r => r.under part key && r.stage == .waiting).foldl (fun x r => x.endColl r.cmd.id 2 false) s1) ∧
        s1.colls = s.colls ∧ s1.mem = s.mem ∧ s1.gangs = s.gangs)))

/-- 19 R412: on a lost member's behalf the primary cancels a key that it registered and that has not started; one that it has started it reports as
FAILED, which counts as the member's last report, and a COLL of the key on this device that has started ends FAULTED. A FAILED report from another device ends
one too. -/
def Sys2Proof.Claim.lostMembersKeysEnd : Prop :=
  (∀ (s : State) (part comm m : Nat) (e : CommEntry) (c : Comm), s.comm? part comm = some (e, c) → Handles c.seq → e.hasStandby = false →
    s.selfOf part e ≠ some m → m < e.nmem → ∀ k, c.seq.keys.find? (fun k => k.state == .assigned && k.regs.contains m) = some k →
    c.seq.key? k.key = some k → commOf k.key = comm → ∃ t c', Goes (.memberUnreachable part comm m) s t ∧ t.comm? part comm = some (e, c') ∧
      c'.seq.key? k.key = some { k with state := .void } ∧ t.mem = s.mem) ∧
  (∀ (s : State) (part comm m : Nat) (e : CommEntry) (c : Comm), s.comm? part comm = some (e, c) → Handles c.seq → e.hasStandby = false →
    s.selfOf part e ≠ some m → m < e.nmem → (∀ k ∈ c.seq.keys, k.state = .assigned → m ∉ k.regs) →
    ∀ k, c.seq.keys.find? (fun k => k.started.contains m && !k.done.contains m) = some k → c.seq.key? k.key = some k → k.state = .started → commOf k.key = comm →
    ∃ s1 c', Goes (.memberUnreachable part comm m) s
        ((s.colls.filter fun r => r.under part k.key && (r.stage == .started || r.stage == .running)).foldl (fun x r => x.endColl r.cmd.id 3 true) s1) ∧
      s1.comm? part comm = some (e, c') ∧ s1.colls = s.colls ∧ s1.mem = s.mem ∧ s1.gangs = s.gangs ∧
      (if e.nmem ≤ (NatSet.put k.done m).length then c'.seq.key? k.key = none ∧ (s.isMember part e = true → (k.number, k.key, .retired) ∈ c'.inbox)
        else c'.seq.key? k.key = some { k with done := NatSet.put k.done m })) ∧
  (∀ (s : State) (part : Nat) (key : BitVec 64), Goes (.failedReport part (commOf key) key) s
    ((s.colls.filter fun r => r.under part key && (r.stage == .started || r.stage == .running)).foldl (fun s r => s.endColl r.cmd.id 3 true) s))

/-- 19: the members of a communicator, its notices and replies; one request stands for every waiting CCANCEL of a key (log 24's choice). -/
def Obligations.MembersFollowTheirPrimary : Prop := Claim.noticesMoveAMember ∧ Claim.repliesReachTheirRegisters ∧ Claim.lostMembersKeysEnd

/-! ## Steps of reliability (21) -/

/-- The partition register that counts a stack group's errors. -/
def Sys2Proof.Claim.errcnt (s : State) (part g : Nat) : Word64 := s.reg part (0x68000 + 8 * g)

/-- One more in the corrected half, or in the uncorrectable half, of an error count; both saturate. -/
def Sys2Proof.Claim.oneMore (v : Word64) (uncorrectable : Bool) : Word64 :=
  let lo := v.toNat % 2 ^ 32
  let hi := v.toNat / 2 ^ 32
  if uncorrectable then BitVec.ofNat 64 (lo + 2 ^ 32 * min (2 ^ 32 - 1) (hi + 1)) else BitVec.ofNat 64 (min (2 ^ 32 - 1) (lo + 1) + 2 ^ 32 * hi)

/-- 21 R427, R429, R444 to R447: a corrected error is counted and changes nothing else, an uncorrectable one marks its unit, of 32 bytes in HBM and of
8 in L2, a scrub's too; a write clears a stack group's counts; a signed test of an idle unit is counted by its outputs' digests, a failing unit is
kept and, with FENCE, fenced; a fatal error discards all work of every partition, signals no cell, and writes FATALSTAT and the dump with its
five sections. That an error on a marked unit counts nothing is log 18's choice, that a round is one step and a PERIOD of 0 none log 77's, the widths and
codes of the section directory log 22's. -/
def Sys2Proof.Claim.errorsTestsAndFatalErrors : Prop :=
  (∀ (s : State) (pa part : Nat), s.populated pa = true → s.partOfDie (homeOf pa / 4) = some part →
    (∀ e ∈ [Instr.scrub (.hbm pa) false, .scrub (.l2 pa) false, .softError (.hbm pa) false, .softError (.l2 pa) false], Goes e s (s.setReg part (0x68000 + 8 * homeOf pa)
      (oneMore (errcnt s part (homeOf pa)) false))) ∧
    (∀ e ∈ [Instr.scrub (.hbm pa) true, .softError (.hbm pa) true], (pa / 32 ∈ s.bad → Goes e s s) ∧
      (pa / 32 ∉ s.bad → ∃ t, Goes e s t ∧ (∀ u, u ∈ t.bad ↔ u = pa / 32 ∨ u ∈ s.bad) ∧ t.mem = s.mem ∧ t.gangs = s.gangs ∧
        errcnt t part (homeOf pa) = oneMore (errcnt s part (homeOf pa)) true)) ∧
    (∀ e ∈ [Instr.scrub (.l2 pa) true, .softError (.l2 pa) true], (pa / 8 ∈ s.bad8 → Goes e s s) ∧
      (pa / 8 ∉ s.bad8 → ∃ t, Goes e s t ∧ (∀ u, u ∈ t.bad8 ↔ u = pa / 8 ∨ u ∈ s.bad8) ∧ t.bad = s.bad ∧ t.mem = s.mem ∧ t.gangs = s.gangs ∧
        errcnt t part (homeOf pa) = oneMore (errcnt s part (homeOf pa)) true))) ∧
  (∀ (s : State) (sid reg : Nat), 1 ≤ reg → reg < 64 → ∃ t, Goes (.softError (.scalar sid reg) true) s t ∧ t.mem = s.mem ∧
    ∀ (n k : Nat) (g : Gang) (sl : Slice), s.gangs[n]? = some g → g.slices[k]? = some sl → ∃ g' sl', t.gangs[n]? = some g' ∧ g'.slices[k]? = some sl' ∧
      ∀ r, Map.get {} sl'.scal r = if sl.sid = sid ∧ r = reg then { Map.get {} sl.scal r with tag := true } else Map.get {} sl.scal r) ∧
  (∀ (s : State) (e k : Nat), e < 768 → k < 65536 → Goes (.softError (.acc e k) true) s (s.setEngine e { s.engine e with accBad := NatSet.put (s.engine e).accBad k })) ∧
  (∀ (s : State) (part g : Nat), g < 16 → g ∈ (s.part part).groups → ∃ t, Goes (.errcntClear part g) s t ∧ errcnt t part g = 0 ∧
    (∀ h, h ≠ g → errcnt t part h = errcnt s part h) ∧ t.mem = s.mem ∧ t.gangs = s.gangs) ∧
  (∀ (s : State) (part : Nat) (p : Part) (r : TestRun), Map.find? s.parts part = some p → (s.reg part 0x68100).getLsbD 0 = true → p.power < 2 →
    s.dump = [] →
    let period := (s.reg part 0x68100).toNat / 65536 % 65536
    let pass := decide (r.outputs.map shake32 = Config.testDigests r.image)
    let idle := r.kind < 7 ∧ unitDie r.kind r.unit ∈ p.dies ∧ s.unitBusy part r.kind r.unit = false ∧ ∃ q ∈ unitQuads r.kind r.unit, s.slotIdle part q = true
    let signed := Config.testSigned (s.device.meas.getD 3 []) r.image = true
    period ≠ 0 → (s.cycle < p.testedAt + period * 3000000 → Goes (.fieldTestRound part [r]) s s) ∧
    (p.testedAt + period * 3000000 ≤ s.cycle →
      (¬ (idle ∧ signed) → Goes (.fieldTestRound part [r]) s (s.setPart part { p with testedAt := s.cycle })) ∧
      (idle → signed → ∃ t, Goes (.fieldTestRound part [r]) s t ∧ t.gangs = s.gangs ∧ (t.part part).testedAt = s.cycle ∧
        t.mem = s.mem ∧ t.reg part 0x68108 = oneMore (s.reg part 0x68108) (!pass) ∧
        (pass = false → 65536 * r.kind + r.unit ∈ (t.part part).failed ∧
          t.reg part 0x68110 = BitVec.ofNat 64 (r.unit % 65536 + 2 ^ 16 * r.kind + 2 ^ 32 * (r.test % 65536)) ∧
          ((s.reg part 0x68100).getLsbD 1 = true → 65536 * r.kind + r.unit ∈ (t.part part).fenced))))) ∧
  (∀ (s : State) (cause die unit : Nat), 1 ≤ cause → cause ≤ 6 → s.dump = [] → ∃ t, Goes (.fatalError cause die unit) s t ∧
    t.gangs = [] ∧ t.cur = none ∧ t.cmds = [] ∧ t.copies = [] ∧ t.tiles = [] ∧ t.launches = [] ∧ t.spawns = [] ∧ t.waiting = [] ∧ t.colls = [] ∧
    t.puts = [] ∧ t.gets = [] ∧ t.rays = [] ∧ t.larder = [] ∧ t.jobs = [] ∧ t.dump.length = 144 ∧
    t.dump.take 40 = toBytes (0x44554D50 : BitVec 64) 8 ++ toBytes (BitVec.ofNat 64 (1 + 2 ^ 4 * cause + 2 ^ 8 * (die % 256) + 2 ^ 16 * (unit % 65536)) : Word64) 8 ++
      toBytes (BitVec.ofNat 64 s.cycle) 8 ++ toBytes (5 : BitVec 64) 8 ++ toBytes (64 : BitVec 64) 8 ∧
    (∀ n < 5, (t.dump.drop (64 + 16 * n)).take 4 = toBytes (BitVec.ofNat 32 (n + 1)) 4) ∧
    ∀ e ∈ s.parts, t.reg e.1 0x68200 = BitVec.ofNat 64 (1 + 2 ^ 4 * cause + 2 ^ 8 * (die % 256) + 2 ^ 16 * (unit % 65536)))

/-- Bytes that gangs of twin crews hold are held no more, unless a gang not of theirs on the core holds them too; no line changes else. -/
def Sys2Proof.Claim.Released (s t : State) (gs : List Gang) (own : Gang → Gang → Prop) : Prop :=
  (∀ (core x : Nat), (Map.find? (t.core core).l1 x).map (fun l => (l.data, l.dirty, l.wvalid)) =
    (Map.find? (s.core core).l1 x).map fun l => (l.data, l.dirty, l.wvalid)) ∧
  ∀ g ∈ gs, ∀ sl ∈ g.slices, ∀ a ∈ sl.heldAt, (∀ h ∈ s.gangs, h.core = g.core → ¬ own g h → ∀ x ∈ h.slices, a ∉ x.heldAt) →
    ∀ l, Map.find? (t.core g.core).l1 (a / 128) = some l → l.held.getLsbD (a % 128) = false

/-- A gang with the checks of its slices begun anew. -/
def Sys2Proof.Claim.unchecked (g : Gang) : Gang :=
  { g with slices := g.slices.map fun sl => { sl with sig := 0, heldAt := [], noted := [], notePos := 0, noteMark := 0 } }

/-- 21 R435, R442: a twin pair that agrees at a crew sync begins a new interval: its held bytes are released, its gangs go on, its crews take
them and their barriers as they stand, with an empty log, recoverable. -/
def Sys2Proof.Claim.intervalsBegin : Prop :=
  ∀ (s : State) (k q : Nat) (c d : Crew), Map.find? s.crews k = some c → Map.find? s.crews q = some d → k ≠ q → s.cur = none →
    let of := fun (j : Nat) => s.gangs.filter fun g => g.crew == some j
    let begun := fun (j : Nat) (c : Crew) => { c with shadows := (of j).map unchecked, barCopy := (s.core c.core).bars, log := [], recoverable := true
                                                      rolled := false, since := s.nextId, syncDue := false }
    let t := s.matchSync k q
    Released s t (of k ++ of q) (fun _ h => h.crew = some k ∨ h.crew = some q) ∧ t.mem = s.mem ∧
    t.gangs = s.gangs.map (fun g => if g.crew = some k ∨ g.crew = some q then unchecked { g with park := .none } else g) ∧
    Map.find? t.crews k = some (begun k c) ∧ Map.find? t.crews q = some (begun q d)

/-- 21 R435, R438, R440 to R442: a rolled-back crew's gangs, and its twin's, are those of its last crew sync, frames that resume on its core, and its log is
empty; CHKIV takes ROLLBK, or TWINMIS after a mismatch. A twin pair that agrees before an irrevocable word, in places, signatures, word and
sources, or where a check point is forced, in places and signatures, goes on with it, its held bytes released and its interval unrecoverable;
one that agrees at a crew sync begins a new interval; one that differs rolls back, or is a context error where its interval does not allow it.
TWINMIS without ROLLBK and what a check point compares are log 42's choices. -/
def Sys2Proof.Claim.crewsRollBackAndTwinsCompare : Prop :=
  (∀ (s : State) (crew : Nat) (c : Crew) (why : Bool), s.rollbacks.find? (fun r => r.1 == crew) = some (crew, why) → Map.find? s.crews crew = some c →
    c.partner = none → s.commandsRun crew c.since = false → ∃ t, Goes (.crewRollback crew) s t ∧
      t.gangs = s.gangs.filter (fun g => g.crew != some crew) ++ c.shadows.map Gang.fromShadow ∧
      (∀ r ∈ t.rollbacks, r.1 ≠ crew) ∧ (Map.find? t.crews crew).map (fun c => (c.log, c.rolled)) = some ([], true) ∧
      (∀ x, Map.find? s.ctxs c.ctx = some x → t.chkiv c.ctx = chkivSet x.chkiv (if why then 64 else 32))) ∧
  (∀ (s : State) (crew q : Nat) (c d : Crew) (why : Bool), s.rollbacks.find? (fun r => r.1 == crew) = some (crew, why) → Map.find? s.crews crew = some c →
    c.partner = some q → q ≠ crew → Map.find? s.crews q = some d → s.commandsRun crew c.since = false → s.commandsRun q d.since = false →
    ∃ t, Goes (.crewRollback crew) s t ∧ (∀ r ∈ t.rollbacks, r.1 ≠ crew ∧ r.1 ≠ q) ∧
      t.gangs = (s.gangs.filter (fun g => g.crew != some crew) ++ c.shadows.map Gang.fromShadow).filter (fun g => g.crew != some q) ++
        d.shadows.map Gang.fromShadow ∧
      (Map.find? t.crews crew).map (fun c => (c.log, c.rolled)) = some ([], true) ∧ (Map.find? t.crews q).map (fun c => (c.log, c.rolled)) = some ([], true)) ∧
  (∀ (s : State) (plain : Bool) (a b : Gang × Slice) (i j : Instr), s.peekWord a.1 = some i → s.peekWord b.1 = some j →
    (s.agree plain a b = true ↔ a.2.pc = b.2.pc ∧ a.2.sig = b.2.sig ∧
      (plain = true ∨ i = j ∧ a.2.sources (s.rctx a.1) i = b.2.sources (s.rctx b.1) j))) ∧
  (∀ (s : State) (crew q index : Nat) (c : Crew) (a b : Gang × Slice), Map.find? s.crews crew = some c → c.partner = some q → c.shadow = false →
    s.crewSlice crew index = some a → s.crewSlice q index = some b → s.atCheck a.1 = true → s.atCheck b.1 = true →
    let due := fun k => ((Map.find? s.crews k).map Crew.syncDue).getD false
    (due crew = false → due q = false → a.1.slices.map Slice.index = b.1.slices.map Slice.index →
      (∀ p ∈ a.1.slices.zip b.1.slices, s.agree (a.1.park == .twin true && b.1.park == .twin true) (a.1, p.1) (b.1, p.2) = true) →
      ∃ t, Goes (.twinCheckPoint crew index) s t ∧ t.mem = s.mem ∧ (s.cur = none → Released s t [a.1, b.1] fun g h => h = g) ∧
        (∀ g ∈ t.gangs, g.gid = a.1.gid ∨ g.gid = b.1.gid → g.park = .none ∧ g.cleared = true) ∧
        (Map.find? t.crews crew).map Crew.recoverable = some false) ∧
    (due crew = true → due q = true → (s.crewSlices crew).length = (s.crewSlices q).length →
      (∀ x ∈ s.crewSlices crew, ∃ y, s.crewSlice q x.2.index = some y ∧ s.agree true x y = true) →
      Goes (.twinCheckPoint crew index) s (s.matchSync crew q)) ∧
    let differs := due crew ≠ due q ∨
      (due crew = false ∧ due q = false ∧ (a.1.slices.map Slice.index ≠ b.1.slices.map Slice.index ∨
        ∃ p ∈ a.1.slices.zip b.1.slices, s.agree (a.1.park == .twin true && b.1.park == .twin true) (a.1, p.1) (b.1, p.2) = false)) ∨
      (due crew = true ∧ due q = true ∧ ((s.crewSlices crew).length ≠ (s.crewSlices q).length ∨
        ∃ x ∈ s.crewSlices crew, ∀ y, s.crewSlice q x.2.index = some y → s.agree true x y = false))
    (differs → s.recoverable c = true → s.rolledBack c = false → Goes (.twinCheckPoint crew index) s (s.mismatch crew c a.1) ∧
      ∃ r ∈ (s.mismatch crew c a.1).rollbacks, r.1 = crew ∨ some r.1 = c.partner) ∧
    (differs → s.recoverable c = false → ∃ f, f.cause = 0x21 ∧ f.ctx = a.1.ctx ∧
      Goes (.twinCheckPoint crew index) s (s.mismatch crew c a.1) ∧ f ∈ (s.mismatch crew c a.1).ctxFaults))

/-- 21: errors, tests, rollbacks and twin check points. -/
def Obligations.ErrorsRollbacksAndTwins : Prop := Claim.errorsTestsAndFatalErrors ∧ Claim.intervalsBegin ∧ Claim.crewsRollBackAndTwinsCompare

/-! ## Power, resets, contexts and the host (22) -/

/-- A partition's power state becomes `n`; whether the last PWRCTL write was refused is noted. -/
def Sys2Proof.Claim.powered (s : State) (part : Nat) : Nat := (s.part part).power

/-- 22 R459: PWRCTL 0 runs a partition; OFF is refused while a launch waits or is in flight; SLEEP is refused on a partition other than 0 and
while another one is not off, and closes debug; a wake runs partition 0 alone; 1 ms without work makes a partition IDLE. What OFF and SLEEP drop
beside what their rule keeps, the work of the partition's contexts, its waiting launches and its jobs, is the model's choice (log 50, DEDUCED). -/
def Sys2Proof.Claim.powerStates : Prop :=
  ∀ (s : State) (part : Nat) (p : Part), Map.find? s.parts part = some p →
    (p.power ≠ 3 → ∃ t, Goes (.pwrRun part) s t ∧ powered t part = 0 ∧ t.reg part 0x10 = 0 ∧ t.mem = s.mem ∧ t.gangs = s.gangs) ∧
    (p.power ≠ 3 → s.lstat part ≠ 0 → Goes (.pwrPartitionOff part) s (s.setReg part 0x10 4)) ∧
    (p.power ≠ 3 → s.lstat part = 0 → ∃ t, Goes (.pwrPartitionOff part) s t ∧ powered t part = 2 ∧ t.reg part 0x10 = 0 ∧
      (∀ g, g ∈ t.gangs ↔ g ∈ s.gangs ∧ g.ctx / 4096 ≠ part) ∧ t.jobs = s.jobs.filter (fun j => j.part != part) ∧
      (∀ e ∈ t.cores, dieOf e.1 ∉ p.dies)) ∧
    (p.power ≠ 3 → (part ≠ 0 ∨ ∃ e ∈ s.parts, e.1 ≠ 0 ∧ e.2.power ≠ 2) → Goes (.pwrSleep part) s (s.setReg part 0x10 4)) ∧
    (p.power ≠ 3 → part = 0 → (∀ e ∈ s.parts, e.1 ≠ 0 → e.2.power = 2) → ∃ t, Goes (.pwrSleep part) s t ∧ (∀ e ∈ t.parts, e.2.power = 3 ∧ e.2.debug = 0) ∧
      (∀ g ∈ t.gangs, g.ctx / 4096 ≠ 0) ∧ t.jobs = s.jobs.filter (fun j => j.part != 0) ∧ t.reg 0 0x10 = 0) ∧
    ((s.part 0).power = 3 → ∃ t, Goes .pcieWake s t ∧ t = { s with parts := t.parts } ∧
      t.parts.map Prod.fst = s.parts.map Prod.fst ∧ ∀ e ∈ t.parts, e.2.power = if e.1 = 0 then 0 else 2) ∧
    (p.power = 0 → s.hasWork part = false → p.busyAt + 3000000 ≤ s.cycle → ∃ t, Goes (.idleEntry part) s t ∧ t = { s with parts := t.parts } ∧
      powered t part = 1 ∧ ∀ q, q ≠ part → t.part q = s.part q)

/-- 22 R452, R454, R460, R461: a device reset, by the pin or by the key 0x5245_5345 in partition 0's RESETCTL, boots again: nothing runs, every context
is gone, the partitions' registers and tables are as after the boot, MEAS0 to MEAS3 measure its images; it keeps the host's memory; a boot of
which a stage does not verify leaves no partition. Another write of RESETCTL does nothing. A function-level reset ends every context of its
partition and of no other, keeps FATALSTAT and the fences, and gives every other register its reset value. That a halted boot leaves the measurements
cleared is log 79's choice; what else of a partition a function-level reset removes, and the CAUSE of its records, are log 54's (DEDUCED). -/
def Sys2Proof.Claim.resets : Prop :=
  (∀ (s : State) (b : Boot), (∀ x, b.resetctl = some x → x = (0, 0x52455345) ∧ (Map.find? s.parts 0).isSome) →
    ∃ t, Goes (.deviceReset b) s t ∧ t.gangs = [] ∧ t.cur = none ∧ t.ctxs = [] ∧ t.launches = [] ∧ t.cmds = [] ∧ t.tlb = [] ∧
    t.cores = [] ∧ t.matrix = [] ∧ t.host = s.host ∧ t.device.lifecycle = s.device.lifecycle ∧ t.device.leaf = s.device.leaf ∧
    (bootHalts b = true ↔ ¬ (Config.stageSigned b.loader = true ∧ Config.stageSigned b.firmware = true)) ∧
    (bootHalts b = true → t.parts = [] ∧ t.device.meas = List.replicate 8 (List.replicate 32 0)) ∧
    (bootHalts b = false → (∀ (k : Nat) (x : List Byte), [b.loader, b.firmware, b.config, b.testKey][k]? = some x →
        t.device.meas[k]? = some (shake32 (List.replicate 32 0 ++ shake32 x))) ∧
      ∀ i p, Map.find? t.parts i = some p → p.power = 0 ∧ p.slots = [] ∧ p.comms = [] ∧
      i < (bootConfig b).1 ∧ p.devid = BitVec.ofNat 12 ((bootConfig b).2.getD i 0xFFF) ∧
      ∀ off, off ≠ 0x80028 → Map.get 0 p.regs off = if off = 0x40020 then 100 else 0)) ∧
  (∀ (s : State) (part : Nat) (v : BitVec 64) (b : Boot), b.resetctl = some (part, v) → part ≠ 0 ∨ v ≠ 0x52455345 → Goes (.deviceReset b) s s) ∧
  (∀ (s : State) (part : Nat) (p : Part), Map.find? s.parts part = some p → ∃ t, Goes (.functionLevelReset part) s t ∧
    (∀ e ∈ t.ctxs, e.1 / 4096 ≠ part) ∧ (∀ k, k / 4096 ≠ part → Map.find? t.ctxs k = Map.find? s.ctxs k) ∧
    (∀ g, g ∈ t.gangs ↔ g ∈ s.gangs ∧ ∀ e ∈ s.ctxs, e.1 / 4096 = part → g.ctx ≠ e.1) ∧
    (t.part part).fenced = p.fenced ∧ (t.part part).devid = p.devid ∧ (t.part part).power = 0 ∧ (t.part part).slots = [] ∧
    t.reg part 0x68200 = s.reg part 0x68200 ∧ t.reg part 0x40020 = 100 ∧ ∀ off, off ≠ 0x68200 → off ≠ 0x40020 → off ≠ 0x80028 → t.reg part off = 0)

/-- 22: power states, device reset and function-level reset. -/
def Obligations.PowerStatesAndResets : Prop := Claim.powerStates ∧ Claim.resets

/-- 22 R455, R458: a request latches the nonce and is BUSY; the report carries the nonce, IDENT, the leaf and the measurements under a
signature at the next leaf, and the last leaf exhausts the key for every partition; the context service answers in CTXSTAT and raises its vector, which
waits while the MSI-X table masks it: 0 for a context, pool or Larder size that it has taken, 1 for an argument block out of form, 2 for a number in
use or work outstanding, a collective that has issued among it, 4 for passes that are not all FREE. EXHAUSTED right after the last report is the
model's choice (log 51, DEDUCED). -/
def Sys2Proof.Claim.attestationAndContextService : Prop :=
  (∀ (s : State) (part : Nat) (p : Part), Map.find? s.parts part = some p → s.attState part % 2 = 0 → s.device.lifecycle ≠ 2 → s.device.key = true →
    (s.device.leaf < 2 ^ 20 - 1 → ∃ t, Goes (.attestRequest part) s t ∧ t.attState part = 1 ∧ (t.part part).latched = s.nonce part ∧ t.mem = s.mem ∧
      t.device = s.device) ∧
    (2 ^ 20 - 1 ≤ s.device.leaf → ∃ t, Goes (.attestRequest part) s t ∧ t.attState part = 3 ∧ t.device = s.device)) ∧
  (∀ (s : State) (part : Nat), s.attState part = 1 → s.device.leaf < 2 ^ 20 - 1 → s.device.key = true → ∃ t, Goes (.attestDone part) s t ∧
    t.device = { s.device with leaf := s.device.leaf + 1 } ∧ t.attState part = (if s.device.leaf + 1 = 2 ^ 20 - 1 then 3 else 2) ∧
    (s.device.leaf + 1 = 2 ^ 20 - 1 → ∀ e ∈ s.parts, t.attState e.1 = 3) ∧ (s.device.leaf + 1 ≠ 2 ^ 20 - 1 → ∀ q, q ≠ part → t.attState q = s.attState q) ∧
    (∃ signature : List Byte, signature.length = 2820 ∧ (t.part part).report = (s.part part).latched ++ toBytes (s.ident part) 8 ++
      toBytes (BitVec.ofNat 32 (s.device.leaf + 1)) 4 ++ List.replicate 4 0 ++ s.device.meas.flatten ++ signature ++ List.replicate 972 0) ∧
    t.mem = s.mem) ∧
  (∀ (s : State) (part : Nat) (p : Part) (bs : List Byte), Map.find? s.parts part = some p → s.argBlock part = some bs →
    let answers := fun (e : Instr) (r : Nat) (P : State → Prop) => ∃ t, Goes e s t ∧ t.reg part 0x90010 = BitVec.ofNat 64 (16 * r) ∧ P t ∧
      let v := (s.reg part 0x90018).toNat
      t.msix = s.msix ++ (if 1 ≤ v ∧ v < 64 ∧ v ∈ p.unmasked then [(part, v)] else []) ∧
      (1 ≤ v → v < 64 → v ∉ p.unmasked → v ∈ (t.part part).pending)
    (∀ ctx, ctx < 4096 → fieldOf bs 0 8 % 16384 = 0 → s.inHbm part (fieldOf bs 0 8) 16384 = true → fieldOf bs 8 8 % 4096 = 0 → fieldOf bs 16 8 % 4096 = 0 →
      fieldOf bs 16 8 ≠ 0 → fieldOf bs 8 8 + fieldOf bs 16 8 ≤ 2 ^ 56 → zeroFrom bs 24 = true →
      ((Map.find? s.ctxs (4096 * part + ctx)).isSome → answers (.ctxCreate part ctx) 2 fun t => t.ctxs = s.ctxs) ∧
      (Map.find? s.ctxs (4096 * part + ctx) = none → answers (.ctxCreate part ctx) 0 fun t => ∃ c, Map.find? t.ctxs (4096 * part + ctx) = some c ∧
        c.root = fieldOf bs 0 8 ∧ c.pool = (fieldOf bs 8 8, fieldOf bs 16 8) ∧ c.chkiv = 0)) ∧
    (∀ ctx, zeroFrom bs 0 = true →
      ((ctx < 4096 ∧ (Map.find? s.ctxs (4096 * part + ctx)).isSome ∧ (∀ x ∈ s.launches, x.ctx ≠ 4096 * part + ctx) ∧
          (∀ r ∈ s.colls, r.cmd.ctx ≠ 4096 * part + ctx) ∧ (∀ c ∈ s.cmds, c.op = .coll → c.ctx ≠ 4096 * part + ctx) → answers (.ctxDestroy part ctx) 0 fun t => Map.find? t.ctxs (4096 * part + ctx) = none)) ∧
      ((∃ x ∈ s.launches, x.ctx = 4096 * part + ctx) ∨ (∃ r ∈ s.colls, r.cmd.ctx = 4096 * part + ctx) ∨
        (∃ c ∈ s.cmds, c.op = .coll ∧ c.ctx = 4096 * part + ctx) → answers (.ctxDestroy part ctx) 2 fun t => t.ctxs = s.ctxs)) ∧
    (fieldOf bs 0 8 ≤ 20 → fieldOf bs 8 8 % (4096 * 2 ^ fieldOf bs 0 8) = 0 → fieldOf bs 16 8 ≠ 0 →
      s.inHbm part (fieldOf bs 8 8) (4096 * 2 ^ fieldOf bs 0 8 * fieldOf bs 16 8) = true → zeroFrom bs 24 = true →
      answers (.ctxPooladd part) 0 fun t => (t.part part).pools = p.pools ++ [{ t := fieldOf bs 0 8, base := fieldOf bs 8 8, count := fieldOf bs 16 8 }]) ∧
    (fieldOf bs 0 8 % 0x100000 = 0 → fieldOf bs 0 8 ≠ 0 → fieldOf bs 0 8 ≤ 0x400000000 → zeroFrom bs 8 = true →
      (s.passesFree part = false → answers (.ctxLardersz part) 4 fun t => t.mem = s.mem) ∧
      (s.passesFree part = true → answers (.ctxLardersz part) 0 fun t => (t.part part).larderSize = fieldOf bs 0 8 ∧ (t.part part).slots = [] ∧
        (t.part part).shares = []))) ∧
  (∀ (s : State) (part : Nat) (p : Part), Map.find? s.parts part = some p → s.argBlock part = none →
    ∀ e ∈ [Instr.ctxCreate part 0, .ctxDestroy part 0, .ctxPooladd part, .ctxLardersz part], ∃ t, Goes e s t ∧ t.reg part 0x90010 = 16 ∧ t.ctxs = s.ctxs)

/-- A job that is first of its register. -/
def Sys2Proof.Claim.FirstJob (s : State) (j : Job) : Prop := s.job? j.part j.id = some j

/-- 22 R450, R451, R462, R463: a job record that is aligned and lies in the partition joins the queue of its head or encoder, one in progress
and 16 behind it; it starts when START's COUNT is 0 or below, or at once without START; its output done, its DONE cell is signalled and the
job is gone; a frame leaves over DisplayPort; a register takes what is written to it; the mask bit of an MSI-X vector holds the vector back, and
lets one that has waited go; a window write reaches memory byte by byte, and a unit that it covers whole is sound again. One job in progress with 16 behind
it and a START that is absent are log 52's choices, the writes that are ignored log 53's (both DEDUCED), the place of the mask bit log 78's (PRESUMED). -/
def Sys2Proof.Claim.jobsRegistersAndWindows : Prop :=
  (∀ (s : State) (part die k : Nat) (a : BitVec 64), die < (s.part part).dies.length → a.toNat % 64 = 0 → s.owned part a.toNat 64 = true → s.dump = [] →
    (s.part part).power = 0 →
    ∀ e reg, (e = .headJob part die k a ∧ reg = 0x70000 + 0x1000 * die + 8 * k ∧ k < 4) ∨ (e = .encoderJob part die k a ∧ reg = 0x70040 + 0x1000 * die + 8 * k ∧ k < 2) →
    ((s.jobs.filter fun j => j.part == part && j.reg == reg).length < 17 → Goes e s { s with nextId := s.nextId + 1, jobs := s.jobs ++
        [{ id := s.nextId, part := part, reg := reg, at_ := a.toNat, started := false, dead := false, status := none }] }) ∧
    (17 ≤ (s.jobs.filter fun j => j.part == part && j.reg == reg).length → Goes e s s)) ∧
  (∀ (s : State) (j : Job), FirstJob s j → j.started = false → (s.part j.part).power < 2 → s.taskWaits j.id = false → j.dead = false → s.poisonedAt j.at_ 64 = false →
    (fieldOf (s.bytesAt j.at_ 64) 8 8 = 0 → Goes (.jobStart j.part j.id) s (s.setJob j.id fun x => { x with started := true })) ∧
    (fieldOf (s.bytesAt j.at_ 64) 8 8 ≠ 0 → ∀ pa s1, s.jobCell j 8 = (.at pa, s1) →
      Goes (.jobStart j.part j.id) s (if s1.cellCount pa ≤ 0 then s1.setJob j.id (fun x => { x with started := true }) else s1))) ∧
  (∀ (s : State) (j : Job), FirstJob s j → j.started = true → (s.part j.part).power < 2 → s.taskWaits j.id = false → j.dead = false → j.status = none → s.poisonedAt j.at_ 64 = false →
    ∀ s1, s.run (jobWork j.reg (s.jobCmd j) (s.jobRecord j)) = (.ok (), s1, false) → Goes (.jobDone j.part j.id) s (s1.jobEnd j 0) ∧
      (fieldOf (s1.jobRecord j) 0x10 8 = 0 → (s1.jobEnd j 0).jobs.all (fun x => x.id != j.id) ∧ (s1.jobEnd j 0).mem = s1.mem)) ∧
  (∀ (s : State) (part die head : Nat), Goes (.headScanout part die head) s s) ∧
  (∀ (s : State) (part off : Nat) (v w : BitVec 64) (p : Part), Map.find? s.parts part = some p → s.written part off v = some w → off ≠ 0x68100 → ¬ (0x20000 ≤ off ∧ off < 0x20040) →
    ¬ (0xF0000 ≤ off ∧ off < 0xF0400 ∧ off % 16 = 8) →
    Goes (.registerWrite part off v) s (s.setReg part off w)) ∧
  (∀ (s : State) (part off : Nat) (v : BitVec 64) (p : Part), Map.find? s.parts part = some p → s.written part off v = none →
    ¬ (0x20000 ≤ off ∧ off < 0x20040) → Goes (.registerWrite part off v) s s) ∧
  (∀ (s : State) (part off : Nat) (v : BitVec 64) (p : Part), Map.find? s.parts part = some p → 0x20000 ≤ off → off < 0x20040 →
    Goes (.registerWrite part off v) s (s.setReg part 0x20048 (BitVec.ofNat 64 (((s.reg part 0x20048).toNat + 1) % 2 ^ 32)))) ∧
  (∀ (s : State) (part n : Nat) (v : BitVec 64) (p : Part), Map.find? s.parts part = some p → n < 64 → ∃ t, Goes (.registerWrite part (0xF0000 + 16 * n + 8) v) s t ∧
    (∀ x, x ∈ (t.part part).unmasked ↔ if x = n then v.getLsbD 32 = false else x ∈ p.unmasked) ∧
    t.msix = s.msix ++ (if v.getLsbD 32 = false ∧ n ∈ p.pending then [(part, n)] else []) ∧
    (∀ x, x ∈ (t.part part).pending ↔ x ∈ p.pending ∧ (x = n → v.getLsbD 32 = true)) ∧ t.mem = s.mem) ∧
  (∀ (s : State) (part bar off : Nat) (data : List Byte) (p : Part), Map.find? s.parts part = some p → ∃ t, Goes (.hostWindowWrite part bar off data) s t ∧
    t = { s with mem := t.mem, bad := t.bad, bad8 := t.bad8, writes := t.writes } ∧
    (∀ u, data.length = 32 → (∀ k < 32, s.windowAt part bar (off + k) = some (32 * u + k)) → u ∉ t.bad) ∧ ∀ a, (∀ k < data.length, s.windowAt part bar (off + k) ≠ some a) → t.byteAt a = s.byteAt a) ∧
  (∀ (s : State) (part bar off pa : Nat) (b : Byte) (p : Part), Map.find? s.parts part = some p → s.windowAt part bar off = some pa → ∃ t,
    Goes (.hostWindowWrite part bar off [b]) s t ∧ t.byteAt pa = b)

/-- 22: attestation, the context service, display and encode jobs, registers and windows. -/
def Obligations.AttestationContextsJobsAndRegisters : Prop := Claim.attestationAndContextService ∧ Claim.jobsRegistersAndWindows

/-! ## Addresses (01 R30, R31; 06 R130; 11 R244 to R248) -/

/-- 01 R30, R31; 06 R130: bits 63:56 of an address choose the global window, the scratchpad or the Attic, or there is a hole; then the alignment
is checked, then the limit of the segment, then the whole of scratchpad or of the address space. -/
def Sys2Proof.Claim.segmentsPlaceAddresses : Prop :=
  ∀ (g : Segs) (a : Word64) (n : Nat), 0 < n →
    let top := a.toNat / 2 ^ 56
    let off := a.toNat % 2 ^ 56
    let global := g.glbb.toNat ≤ off ∧ off + n ≤ g.glbl.toNat
    let scratch := off + n ≤ g.scrl.toNat ∧ g.scrb.toNat + off + n ≤ 0x100000
    (top ≠ 0 → top ≠ 0xFE → top ≠ 0xFD → g.place a n n = .error ⟨0x04, a⟩) ∧
    ((top = 0 ∨ top = 0xFE ∨ top = 0xFD) → a.toNat % n ≠ 0 → g.place a n n = .error ⟨0x05, a⟩) ∧
    (a.toNat % n = 0 → top = 0 → (global → g.place a n n = .ok (.virt off)) ∧ (¬ global → g.place a n n = .error ⟨0x08, a⟩)) ∧
    (a.toNat % n = 0 → top = 0xFE →
      (scratch → g.place a n n = .ok (.scratch (g.scrb.toNat + off))) ∧ (¬ scratch → g.place a n n = .error ⟨0x08, a⟩)) ∧
    (a.toNat % n = 0 → top = 0xFD →
      (g.stkl.toNat < off + n → g.place a n n = .error ⟨0x08, a⟩) ∧
      (off + n ≤ g.stkl.toNat → 2 ^ 56 < g.stkb.toNat + off + n → g.place a n n = .error ⟨0x04, a⟩) ∧
      (off + n ≤ g.stkl.toNat → g.stkb.toNat + off + n ≤ 2 ^ 56 → g.place a n n = .ok (.virt (g.stkb.toNat + off))))

/-- A leaf entry of attributes `attr` (bits 7:0) for the n-th page of 4 KiB × 2^t. -/
def Sys2Proof.Claim.leafEntry (t n attr : Nat) : Nat := attr % 256 + 256 + 4096 * (n * 2 ^ (t + 1) + 2 ^ t - 1)

/-- 11 R244 to R248: a walk reads at home the entry that eleven bits of the address index at each level; V = 0 ends it with
POOL, a malformed or poisoned entry with WHY = 1, a table entry leads on. A leaf of 4 KiB × 2^t maps its page, or the first part of its
coverage. What a walk finds is used under R, W, X and USER, a write to a READONLY page being refused, and is then cached; memory stays. WHY = 1 for a table entry
of level 0, and an entry of 0 where the partition has no memory, are the model's choices (log 70, DESIGN CHOICE). -/
def Sys2Proof.Claim.walksFindLeaves : Prop :=
  (∀ (s : State) (part level va at_ t n attr : Nat), level ≤ 3 → t ≤ 20 → n * 2 ^ (t + 1) < 2 ^ 41 → attr < 256 → attr % 2 = 1 →
    (attr / 4 % 2 = 1 → attr / 2 % 2 = 1) → s.owned part (n * (4096 * 2 ^ t)) (4096 * 2 ^ t) = true → 4096 * 2 ^ t ≤ 2048 * (4096 * 2048 ^ level) →
    let size := 4096 * 2 ^ t
    let cov := 4096 * 2048 ^ level
    let leaf := fun (v : Nat) => Walk.leaf { base := n * size, size := size, vbase := v, kind := attr / 64, por := attr / 32 % 2 == 1
                                             user := attr / 16 % 2 == 1, x := attr / 8 % 2 == 1, w := attr / 4 % 2 == 1, r := attr / 2 % 2 == 1
                                             entryAt := at_, level := level }
    (cov ≤ size → s.readLeaf part (leafEntry t n attr) level va at_ = leaf (va / size * size)) ∧
    (size < cov → va % cov < size → s.readLeaf part (leafEntry t n attr) level va at_ = leaf (va / cov * cov)) ∧
    (size < cov → size ≤ va % cov → s.readLeaf part (leafEntry t n attr) level va at_ = .fault 0 level at_ false)) ∧
  (∀ (s : State) (part va level table : Nat),
    let at_ := table + 8 * (va / (4096 * 2048 ^ level) % 2048)
    let e := natOfBytes (homeBytes s at_ 8)
    (s.owned part at_ 8 = false → s.walkFrom part va level table = .fault 0 level at_ false) ∧
    (s.owned part at_ 8 = true →
    (s.poisonedAt at_ 8 = true → s.walkFrom part va level table = .fault 1 level at_ false) ∧
    (s.poisonedAt at_ 8 = false → e % 2 = 0 → s.walkFrom part va level table = .fault 0 level at_ (e / 512 % 2 == 1)) ∧
    (s.poisonedAt at_ 8 = false → e % 2 = 1 → e / 256 % 2 = 1 → s.walkFrom part va level table = s.readLeaf part e level va at_) ∧
    (s.poisonedAt at_ 8 = false → e % 2 = 1 → e / 256 % 2 = 0 → level = 0 → s.walkFrom part va level table = .fault 1 0 at_ false) ∧
    (∀ k x, level = k + 1 → s.poisonedAt at_ 8 = false → x < 2 ^ 38 → e = 1 + x * 2 ^ 14 →
      s.walkFrom part va level table = s.walkFrom part va k (x * 2 ^ 14)))) ∧
  (∀ (s : State) (unit part ctx va : Nat) (l : Leaf) (need : Need), s.tlbFind unit ctx va = none → s.walk part ctx va = .leaf l → need.cell = false →
    let r := s.xlate unit part ctx va need
    let allowed := (need.r → l.r) ∧ (need.w → l.w ∧ l.kind ≠ 1) ∧ (need.x → l.x) ∧ (need.user → l.user)
    r.2.mem = s.mem ∧ r.2.tlb.length = s.tlb.length + 1 ∧
      (allowed → r.1 = .ok (l.base + (va - l.vbase)) l) ∧ (¬ allowed → r.1 = .denied)) ∧
  (∀ (s : State) (unit part ctx va why level at_ : Nat) (pool : Bool) (need : Need), s.tlbFind unit ctx va = none →
    s.walk part ctx va = .fault why level at_ pool → s.xlate unit part ctx va need = (.fault why level at_ pool, s))

/-- 01 R30, R31; 11 R244 to R248: segments place an address, and page tables translate what lies in the global window and the Attic, with log 70's
choices. -/
def Obligations.SegmentsAndTranslation : Prop := Claim.segmentsPlaceAddresses ∧ Claim.walksFindLeaves

/-! ## Encodings (03 R47 to R70) -/

/-- 03 R47, R52 to R56, R66, R70: decoding and encoding agree in both directions: the parcels of a well-formed instruction, with every operand at
every value that its encoding admits, decode to it and leave what follows; its bytes decode to it; and parcels that decode are the parcels
of a well-formed instruction. -/
def Obligations.DecodeAndEncodeAgree : Prop :=
  (∀ (i : Instr) (rest : List Parcel), i.wellFormed = true → decode (encode i ++ rest) = .ok (i, rest)) ∧
  (∀ i : Instr, i.wellFormed = true → decodeBytes (bytesOf (encode i)) = .ok i) ∧
  (∀ (ps rest : List Parcel) (i : Instr), decode ps = .ok (i, rest) → i.wellFormed = true ∧ ps = encode i ++ rest)

/-- 03 R70 and 02: the words that the spec writes out bit by bit, in its tables of worked encodings, decode to the instructions it names, and
those of its table of words that are no instruction are rejected as it says. -/
def Obligations.WorkedEncodingsDecode : Prop :=
  decode [0x1069FFFA] = .ok (.br { s := false, sa := 13, c := 1, x := 0xFFFA }, []) ∧
  decode [0x123100C0] = .ok (.call { s := false, kS := 3, kV := 1, x := 0x00C0 }, []) ∧
  decode [0x20810040] = .ok (.spawn { s := false, sa := 16, c := 1, x := 64 }, []) ∧
  decode [0x21740000] = .ok (.await { s := false, sa := 14, c := 4, x := 0 }, []) ∧
  decode [0x01635D00] = .ok (.add { s := false, w := true, sd := 12, sa := 13, sb := 14 }, []) ∧
  decode [0x185AA008] = .ok (.ld { s := false, sd := 11, sa := 10, size := 2, sx := false, off := 8 }, []) ∧
  decode [0x800824A3, 0, 0] = .ok (.vadd
    { s := false, vd := 8, va := 9, vb := 10, pm := 3, vc := 0, fn := 0, t := 0, rm := 0, ss := 0, aux := 0, imm := 0 }, []) ∧
  decode [0xCCC40420, 0x0C020000, 0] = .ok (.vfma
    { s := true, vd := 4, va := 1, vb := 2, pm := 0, vc := 3, fn := 0, t := 8, rm := 0, ss := 0, aux := 0, imm := 0 }, []) ∧
  decode [0x00070000] = .ok (.eret { s := false, imm := 0 }, []) ∧
  decode [0x3F000000] = .error .illegalOpcode ∧ decode [0x000C0000] = .error .illegalOpcode ∧
  decode [0x106F0000] = .error .reservedField ∧ decode [0x09610000] = .error .reservedField ∧ decode [0x20850040] = .error .reservedField ∧
  decode [0x800824A3, 0x00038000, 0] = .error .reservedField ∧ decode [0x800824A8, 0, 0] = .error .reservedField

/-! ## Steps of the whole machine -/

/-- A word's turn has come in a quadrant: its slot is free, and selection has chosen the gang. -/
def Sys2Proof.Claim.Turn (s : State) (q : Nat) (g : Gang) : Prop := (s.quad q).busyUntil ≤ s.cycle ∧ s.choose q = some g

/-- 08 R186, R191; 10 R216 to R218; 03 R47, R70: a step that issues in a quadrant does nothing while its slot is occupied or holds no ready
gang. Else the gang's next word is taken from its buffer or fetched, and when its parcels decode to an instruction, the step is exec of that
instruction with the gang checked out, its settle marker noted and, before an edge's word, its loads performed, followed by the slot's
occupancy and the gang's return at the word's end; a word that does not decode traps. A parcel that no cached line as young as its fetch
floor holds is the four bytes at its home address, little-endian. An event that comes next is exec of the event. The agenda that names who
moves next is the model's own (log 2), and so are the loads and posted stores that an edge's word finds performed (log 71, DEDUCED). -/
def Obligations.StepRunsWhatItDecodes : Prop :=
  (∀ (s : State) (q : Nat) (late : Bool) (rest : List Act), s.agenda = .issue q late :: rest →
    let s1 := { s with agenda := rest }
    ((s1.cycle < (s1.quad q).busyUntil ∨ s1.choose q = none) → step s = .next s1) ∧
    (∀ g, Turn s1 q g →
      let g1 := { g with wait := 0, issued := s1.cycle }
      let s2 := (s1.chosen q g).checkout g1 late
      ∀ ps buf s3, s2.nextWord g1 = (.word ps, buf, s3) →
        let parcels := ps.map Fetched.parcel
        (∀ i more, decode parcels = .ok (i, more) →
          let s4 := ({ s3 with cur := some { g1 with buf := buf, sbit := (parcels.headD 0).getLsbD 30 } } : State).beforeWord i
          (∀ t, exec i s4 = .next t → step s = .next (t.retire i q s4.curGid s4.curSlices s4.curPc)) ∧ (∀ f, exec i s4 = .fault f → step s = .fault f)) ∧
        (∀ e, decode parcels = .error e → step s = .next
          ((s3.trapped { g1 with buf := buf, sbit := false }
            ⟨if e = .illegalOpcode then 0x01 else 0x02, (parcels.headD 0).setWidth 64⟩).retireTrap q g.pc)))) ∧
  (∀ (s : State) (core pa floor : Nat), pa % 4 = 0 → (∀ l, Map.find? (s.core core).code (pa / 128) = some l → l.since < floor) →
    (∀ w < 32, homeOf (128 * (pa / 128) + 4 * w) = groupOf core) →
    (s.fetchParcel core pa floor).1 = BitVec.ofNat 32 (natOfBytes (homeBytes s pa 4)) ∧ (s.fetchParcel core pa floor).2.2.mem = s.mem) ∧
  (∀ (s : State) (i : Instr) (rest : List Act), s.agenda = .event i :: rest → step s = exec i { s with agenda := rest })

/-- The memory keeps its canonical form: addresses rise strictly and no entry equals what an unlisted address reads as. -/
def Obligations.StepKeepsMemoryCanonical : Prop :=
  ∀ s t : State, Memory.wf s.mem = true → step s = .next t → Memory.wf t.mem = true

/-- After device reset (05 R118; 06 R141; 08 R192; 11 R253; 16 R348, R350; 22 R454): CYCLE is 0, every quadrant issues by GTO, no barrier has an owner,
the Larder storage takes 256 MiB of each stack group and every pass is FREE, FLOGTMO is 100 and every other stored register 0, no gang, context or
launch exists, and memory lists nothing and so has its canonical form. One partition with debug CLOSED in lifecycle PRODUCTION is the
model's choice (log 4), and memory that reads as 0 too (log 1). -/
def Obligations.ResetState : Prop :=
  let s := State.reset
  s.cycle = 0 ∧ (∀ q, (s.quad q).rr = false) ∧ (∀ c b, ((Map.find? (s.core c).bars b).bind Barrier.owner) = none) ∧
    (s.part 0).larderSize = 0x10000000 ∧ (∀ p a, p < 256 → (s.part 0).larderAddr (128 * p) = some a → s.byteAt a = 0) ∧
    s.reg 0 0x40020 = 100 ∧ (∀ off, off ≠ 0x40020 → s.reg 0 off = 0) ∧ s.gangs = [] ∧ s.cur = none ∧ s.ctxs = [] ∧ s.launches = [] ∧
    (s.part 0).debug = 0 ∧ s.device.lifecycle = 1 ∧ s.mem = [] ∧ Memory.wf s.mem = true
end

