-- ==== Sys2Proof/Laws/Maps.lean ====
section
/-! SUPPORT. Sparse tables: reading after writing, and that every operation keeps the canonical form. -/

namespace Sys2Proof.Machine

variable {α : Type}

@[simp] theorem Map.get_nil (d : α) (k : Nat) : Map.get d [] k = d := rfl

theorem Map.get_cons (d : α) (e : Nat × α) (m : Map α) (k : Nat) :
    Map.get d (e :: m) k = if e.1 = k then e.2 else Map.get d m k := rfl

/-- Reading after a removal: nothing at the key, every other key as before. -/
@[simp] theorem Map.get_erase (d : α) (m : Map α) (k k' : Nat) :
    (m.erase k).get d k' = if k' = k then d else m.get d k' := by
  induction m with
  | nil => simp [Map.erase]
  | cons e m ih =>
    obtain ⟨a, v⟩ := e
    by_cases h : a = k
    · subst h
      simp only [Map.erase, if_true, ih, Map.get_cons]
      split
      · rfl
      · next h => simp [Ne.symm h]
    · simp only [Map.erase, h, if_false, Map.get_cons, ih]
      by_cases h' : a = k'
      · subst h'; simp [h]
      · simp [h']

/-- Reading after an insertion. -/
@[simp] theorem Map.get_put (d : α) (m : Map α) (k k' : Nat) (v : α) :
    (m.put k v).get d k' = if k' = k then v else m.get d k' := by
  induction m with
  | nil => simp [Map.put, Map.get_cons, eq_comm]
  | cons e m ih =>
    obtain ⟨a, w⟩ := e
    by_cases h : a = k
    · subst h
      simp only [Map.put, if_true, Map.get_cons]
      by_cases h' : a = k'
      · simp [h']
      · simp [h', Ne.symm h']
    · by_cases h2 : k < a
      · simp only [Map.put, h, h2, if_false, if_true, Map.get_cons]
        by_cases h' : k = k'
        · simp [h']
        · simp [h', Ne.symm h']
      · simp only [Map.put, h, h2, if_false, Map.get_cons, ih]
        by_cases h' : a = k'
        · subst h'; simp [h]
        · simp [h']

/-- Reading after a write: the value written, every other key as before. -/
@[simp] theorem Map.get_set [DecidableEq α] (d : α) (m : Map α) (k k' : Nat) (v : α) :
    (m.set d k v).get d k' = if k' = k then v else m.get d k' := by
  unfold Map.set
  split
  · next h => simp [h]
  · simp

/-- Looking up after an insertion, in a table that tells an absent key from a present one. -/
@[simp] theorem Map.find?_put (m : Map α) (k k' : Nat) (v : α) :
    Map.find? (m.put k v) k' = if k = k' then some v else Map.find? m k' := by
  induction m with
  | nil => simp [Map.put, Map.find?]
  | cons e m ih =>
    obtain ⟨a, w⟩ := e
    by_cases h : a = k
    · subst h
      simp only [Map.put, if_true, Map.find?]
      by_cases h' : a = k' <;> simp [h']
    · by_cases h2 : k < a
      · simp only [Map.put, h, h2, if_false, if_true, Map.find?]
      · simp only [Map.put, h, h2, if_false, Map.find?, ih]
        by_cases h' : a = k'
        · subst h'; simp [Ne.symm h]
        · simp [h']

/-- Looking up after a removal. -/
@[simp] theorem Map.find?_erase (m : Map α) (k k' : Nat) :
    Map.find? (m.erase k) k' = if k = k' then none else Map.find? m k' := by
  induction m with
  | nil => simp [Map.erase, Map.find?]
  | cons e m ih =>
    obtain ⟨a, w⟩ := e
    by_cases h : a = k
    · subst h
      simp only [Map.erase, if_true, Map.find?, ih]
      by_cases h' : a = k' <;> simp [h']
    · simp only [Map.erase, h, if_false, Map.find?, ih]
      by_cases h' : a = k'
      · subst h'; simp [Ne.symm h]
      · simp [h']

/-- Reading after consecutive writes. -/
theorem Map.get_setMany [DecidableEq α] (d : α) (vs : List α) (m : Map α) (k k' : Nat) :
    (Map.setMany d m k vs).get d k' = if k ≤ k' ∧ k' < k + vs.length then vs.getD (k' - k) d else m.get d k' := by
  induction vs generalizing m k with
  | nil => simp only [Map.setMany, List.length_nil]; rw [if_neg (by omega)]
  | cons v vs ih =>
    simp only [Map.setMany, ih, Map.get_set, List.length_cons]
    by_cases h : k' = k
    · subst h; simp <;> omega
    · by_cases h1 : k ≤ k' ∧ k' < k + (vs.length + 1)
      · rw [if_pos (by omega), if_pos h1]
        obtain ⟨j, hj⟩ : ∃ j, k' - k = j + 1 := ⟨k' - k - 1, by omega⟩
        have : k' - (k + 1) = j := by omega
        simp [hj, this]
      · rw [if_neg (by omega), if_neg h1, if_neg h]

/-- The first key of a table is above a bound. -/
def Map.above (b : Nat) : Map α → Prop
  | [] => True
  | e :: _ => b < e.1

theorem Map.wf_cons [DecidableEq α] (d : α) (k : Nat) (v : α) (m : Map α) :
    Map.wf d ((k, v) :: m) = true ↔ v ≠ d ∧ Map.above k m ∧ Map.wf d m = true := by
  cases m with
  | nil => simp [Map.wf, Map.above]
  | cons e m => obtain ⟨a, w⟩ := e; simp [Map.wf, Map.above, and_assoc]

theorem Map.above_mono {b c : Nat} (h : b ≤ c) {m : Map α} (hm : Map.above c m) : Map.above b m := by
  cases m with
  | nil => trivial
  | cons e m => exact Nat.lt_of_le_of_lt h hm

theorem Map.above_erase [DecidableEq α] (d : α) {m : Map α} (hm : Map.wf d m = true) {b : Nat} (hb : Map.above b m) (k : Nat) :
    Map.above b (m.erase k) := by
  induction m with
  | nil => trivial
  | cons e m ih =>
    obtain ⟨a, v⟩ := e
    rw [Map.wf_cons] at hm
    have hb' : b < a := hb
    simp only [Map.erase]
    split
    · exact ih hm.2.2 (Map.above_mono (Nat.le_of_lt hb') hm.2.1)
    · exact hb

/-- A removal keeps the canonical form. -/
theorem Map.wf_erase [DecidableEq α] (d : α) {m : Map α} (hm : Map.wf d m = true) (k : Nat) : Map.wf d (m.erase k) = true := by
  induction m with
  | nil => rfl
  | cons e m ih =>
    obtain ⟨a, v⟩ := e
    rw [Map.wf_cons] at hm
    simp only [Map.erase]
    split
    · exact ih hm.2.2
    · rw [Map.wf_cons]; exact ⟨hm.1, Map.above_erase d hm.2.2 hm.2.1 k, ih hm.2.2⟩

theorem Map.above_put {m : Map α} {b : Nat} (hb : Map.above b m) {k : Nat} (hk : b < k) (v : α) : Map.above b (m.put k v) := by
  cases m with
  | nil => exact hk
  | cons e m =>
    obtain ⟨a, w⟩ := e
    simp only [Map.put]
    split
    · exact hk
    · split
      · exact hk
      · exact hb

/-- An insertion of another value than the unlisted one keeps the canonical form. -/
theorem Map.wf_put [DecidableEq α] (d : α) {m : Map α} (hm : Map.wf d m = true) (k : Nat) {v : α} (hv : v ≠ d) :
    Map.wf d (m.put k v) = true := by
  induction m with
  | nil => simp [Map.put, Map.wf, hv]
  | cons e m ih =>
    obtain ⟨a, w⟩ := e
    have hm' := (Map.wf_cons d a w m).1 hm
    simp only [Map.put]
    split
    · next h => subst h; rw [Map.wf_cons]; exact ⟨hv, hm'.2⟩
    · split
      · next h => rw [Map.wf_cons]; exact ⟨hv, h, hm⟩
      · rw [Map.wf_cons]; exact ⟨hm'.1, Map.above_put hm'.2.1 (by omega) v, ih hm'.2.2⟩

/-- A write keeps the canonical form. -/
theorem Map.wf_set [DecidableEq α] (d : α) {m : Map α} (hm : Map.wf d m = true) (k : Nat) (v : α) : Map.wf d (m.set d k v) = true := by
  unfold Map.set
  split
  · exact Map.wf_erase d hm k
  · next h => exact Map.wf_put d hm k h

/-- Consecutive writes keep the canonical form. -/
theorem Map.wf_setMany [DecidableEq α] (d : α) (vs : List α) {m : Map α} (hm : Map.wf d m = true) (k : Nat) :
    Map.wf d (Map.setMany d m k vs) = true := by
  induction vs generalizing m k with
  | nil => exact hm
  | cons v vs ih => exact ih (Map.wf_set d hm k v) (k + 1)

theorem Map.above_filter [DecidableEq α] (d : α) {m : Map α} (hm : Map.wf d m = true) {b : Nat} (hb : Map.above b m) (p : Nat × α → Bool) :
    Map.above b (m.filter p) := by
  induction m with
  | nil => trivial
  | cons e m ih =>
    obtain ⟨a, v⟩ := e
    rw [Map.wf_cons] at hm
    have hb' : b < a := hb
    simp only [List.filter]
    split
    · exact hb
    · exact ih hm.2.2 (Map.above_mono (Nat.le_of_lt hb') hm.2.1)

/-- Dropping entries keeps the canonical form. -/
theorem Map.wf_filter [DecidableEq α] (d : α) {m : Map α} (hm : Map.wf d m = true) (p : Nat × α → Bool) : Map.wf d (m.filter p) = true := by
  induction m with
  | nil => rfl
  | cons e m ih =>
    obtain ⟨a, v⟩ := e
    rw [Map.wf_cons] at hm
    simp only [List.filter]
    split
    · rw [Map.wf_cons]; exact ⟨hm.1, Map.above_filter d hm.2.2 hm.2.1 p, ih hm.2.2⟩
    · exact ih hm.2.2

/-- Every entry of a table in the canonical form differs from the unlisted value. -/
theorem Map.wf_ne [DecidableEq α] (d : α) {m : Map α} (hm : Map.wf d m = true) {e : Nat × α} (he : e ∈ m) : e.2 ≠ d := by
  induction m with
  | nil => cases he
  | cons x m ih =>
    obtain ⟨a, v⟩ := x
    rw [Map.wf_cons] at hm
    cases he with
    | head => exact hm.1
    | tail _ h => exact ih hm.2.2 h

/-- Membership after putting a number into a set. -/
@[simp] theorem NatSet.mem_put (m : NatSet) (k n : Nat) : n ∈ NatSet.put m k ↔ n = k ∨ n ∈ m := by
  induction m with
  | nil => simp [NatSet.put]
  | cons a m ih =>
    simp only [NatSet.put]
    split
    · next h => subst h; simp
    · split
      · simp
      · rw [List.mem_cons, ih, List.mem_cons]; exact or_left_comm

/-- Membership after taking a number out of a set. -/
@[simp] theorem NatSet.mem_drop (m : NatSet) (k n : Nat) : n ∈ NatSet.drop m k ↔ n ≠ k ∧ n ∈ m := by
  induction m with
  | nil => simp [NatSet.drop]
  | cons a m ih =>
    simp only [NatSet.drop]
    split
    · next h => subst h; rw [ih, List.mem_cons]; exact ⟨fun x => ⟨x.1, .inr x.2⟩, fun x => ⟨x.1, x.2.resolve_left x.1⟩⟩
    · next h =>
      rw [List.mem_cons, ih, List.mem_cons]
      constructor
      · rintro (rfl | h1)
        · exact ⟨h, .inl rfl⟩
        · exact ⟨h1.1, .inr h1.2⟩
      · rintro ⟨h1, h2 | h2⟩
        · exact .inl h2
        · exact .inr ⟨h1, h2⟩

end Sys2Proof.Machine
end

