-- ==== Sys2Proof/Laws/State.lean ====
section
/-! SUPPORT. What each named update does to each field of State, true by definition, so that no proof unfolds a record update. -/

namespace Sys2Proof.Machine

variable (s : State)

/-! ### setQuad -/

@[simp] theorem State.setQuad_cycle (q : Nat) (x : Quad) : (s.setQuad q x).cycle = s.cycle := rfl
@[simp] theorem State.setQuad_agenda (q : Nat) (x : Quad) : (s.setQuad q x).agenda = s.agenda := rfl
@[simp] theorem State.setQuad_free (q : Nat) (x : Quad) : (s.setQuad q x).free = s.free := rfl
@[simp] theorem State.setQuad_late (q : Nat) (x : Quad) : (s.setQuad q x).late = s.late := rfl
@[simp] theorem State.setQuad_turn (q : Nat) (x : Quad) : (s.setQuad q x).turn = s.turn := rfl
@[simp] theorem State.setQuad_nextId (q : Nat) (x : Quad) : (s.setQuad q x).nextId = s.nextId := rfl
@[simp] theorem State.setQuad_cur (q : Nat) (x : Quad) : (s.setQuad q x).cur = s.cur := rfl
@[simp] theorem State.setQuad_performed (q : Nat) (x : Quad) : (s.setQuad q x).performed = s.performed := rfl
@[simp] theorem State.setQuad_gangs (q : Nat) (x : Quad) : (s.setQuad q x).gangs = s.gangs := rfl
@[simp] theorem State.setQuad_quads (q : Nat) (x : Quad) : (s.setQuad q x).quads = Map.set Quad.init s.quads q x := rfl
@[simp] theorem State.setQuad_cores (q : Nat) (x : Quad) : (s.setQuad q x).cores = s.cores := rfl
@[simp] theorem State.setQuad_l2 (q : Nat) (x : Quad) : (s.setQuad q x).l2 = s.l2 := rfl
@[simp] theorem State.setQuad_mem (q : Nat) (x : Quad) : (s.setQuad q x).mem = s.mem := rfl
@[simp] theorem State.setQuad_writes (q : Nat) (x : Quad) : (s.setQuad q x).writes = s.writes := rfl
@[simp] theorem State.setQuad_bad (q : Nat) (x : Quad) : (s.setQuad q x).bad = s.bad := rfl
@[simp] theorem State.setQuad_bad8 (q : Nat) (x : Quad) : (s.setQuad q x).bad8 = s.bad8 := rfl
@[simp] theorem State.setQuad_cxl (q : Nat) (x : Quad) : (s.setQuad q x).cxl = s.cxl := rfl
@[simp] theorem State.setQuad_posted (q : Nat) (x : Quad) : (s.setQuad q x).posted = s.posted := rfl
@[simp] theorem State.setQuad_tlb (q : Nat) (x : Quad) : (s.setQuad q x).tlb = s.tlb := rfl
@[simp] theorem State.setQuad_parts (q : Nat) (x : Quad) : (s.setQuad q x).parts = s.parts := rfl
@[simp] theorem State.setQuad_ctxs (q : Nat) (x : Quad) : (s.setQuad q x).ctxs = s.ctxs := rfl
@[simp] theorem State.setQuad_faults (q : Nat) (x : Quad) : (s.setQuad q x).faults = s.faults := rfl
@[simp] theorem State.setQuad_ctxFaults (q : Nat) (x : Quad) : (s.setQuad q x).ctxFaults = s.ctxFaults := rfl
@[simp] theorem State.setQuad_crews (q : Nat) (x : Quad) : (s.setQuad q x).crews = s.crews := rfl
@[simp] theorem State.setQuad_rollbacks (q : Nat) (x : Quad) : (s.setQuad q x).rollbacks = s.rollbacks := rfl
@[simp] theorem State.setQuad_cellSrc (q : Nat) (x : Quad) : (s.setQuad q x).cellSrc = s.cellSrc := rfl
@[simp] theorem State.setQuad_cmds (q : Nat) (x : Quad) : (s.setQuad q x).cmds = s.cmds := rfl
@[simp] theorem State.setQuad_spawns (q : Nat) (x : Quad) : (s.setQuad q x).spawns = s.spawns := rfl
@[simp] theorem State.setQuad_copies (q : Nat) (x : Quad) : (s.setQuad q x).copies = s.copies := rfl
@[simp] theorem State.setQuad_matrix (q : Nat) (x : Quad) : (s.setQuad q x).matrix = s.matrix := rfl
@[simp] theorem State.setQuad_tiles (q : Nat) (x : Quad) : (s.setQuad q x).tiles = s.tiles := rfl
@[simp] theorem State.setQuad_mqs (q : Nat) (x : Quad) : (s.setQuad q x).mqs = s.mqs := rfl
@[simp] theorem State.setQuad_savedTiles (q : Nat) (x : Quad) : (s.setQuad q x).savedTiles = s.savedTiles := rfl
@[simp] theorem State.setQuad_rays (q : Nat) (x : Quad) : (s.setQuad q x).rays = s.rays := rfl
@[simp] theorem State.setQuad_marches (q : Nat) (x : Quad) : (s.setQuad q x).marches = s.marches := rfl
@[simp] theorem State.setQuad_footprints (q : Nat) (x : Quad) : (s.setQuad q x).footprints = s.footprints := rfl
@[simp] theorem State.setQuad_larder (q : Nat) (x : Quad) : (s.setQuad q x).larder = s.larder := rfl
@[simp] theorem State.setQuad_colls (q : Nat) (x : Quad) : (s.setQuad q x).colls = s.colls := rfl
@[simp] theorem State.setQuad_puts (q : Nat) (x : Quad) : (s.setQuad q x).puts = s.puts := rfl
@[simp] theorem State.setQuad_gets (q : Nat) (x : Quad) : (s.setQuad q x).gets = s.gets := rfl
@[simp] theorem State.setQuad_queries (q : Nat) (x : Quad) : (s.setQuad q x).queries = s.queries := rfl
@[simp] theorem State.setQuad_launches (q : Nat) (x : Quad) : (s.setQuad q x).launches = s.launches := rfl
@[simp] theorem State.setQuad_waiting (q : Nat) (x : Quad) : (s.setQuad q x).waiting = s.waiting := rfl
@[simp] theorem State.setQuad_signals (q : Nat) (x : Quad) : (s.setQuad q x).signals = s.signals := rfl
@[simp] theorem State.setQuad_host (q : Nat) (x : Quad) : (s.setQuad q x).host = s.host := rfl
@[simp] theorem State.setQuad_msix (q : Nat) (x : Quad) : (s.setQuad q x).msix = s.msix := rfl
@[simp] theorem State.setQuad_trig (q : Nat) (x : Quad) : (s.setQuad q x).trig = s.trig := rfl
@[simp] theorem State.setQuad_pageUse (q : Nat) (x : Quad) : (s.setQuad q x).pageUse = s.pageUse := rfl
@[simp] theorem State.setQuad_jobs (q : Nat) (x : Quad) : (s.setQuad q x).jobs = s.jobs := rfl
@[simp] theorem State.setQuad_device (q : Nat) (x : Quad) : (s.setQuad q x).device = s.device := rfl
@[simp] theorem State.setQuad_dump (q : Nat) (x : Quad) : (s.setQuad q x).dump = s.dump := rfl

/-! ### setCore -/

@[simp] theorem State.setCore_cycle (c : Nat) (x : Core) : (s.setCore c x).cycle = s.cycle := rfl
@[simp] theorem State.setCore_agenda (c : Nat) (x : Core) : (s.setCore c x).agenda = s.agenda := rfl
@[simp] theorem State.setCore_free (c : Nat) (x : Core) : (s.setCore c x).free = s.free := rfl
@[simp] theorem State.setCore_late (c : Nat) (x : Core) : (s.setCore c x).late = s.late := rfl
@[simp] theorem State.setCore_turn (c : Nat) (x : Core) : (s.setCore c x).turn = s.turn := rfl
@[simp] theorem State.setCore_nextId (c : Nat) (x : Core) : (s.setCore c x).nextId = s.nextId := rfl
@[simp] theorem State.setCore_cur (c : Nat) (x : Core) : (s.setCore c x).cur = s.cur := rfl
@[simp] theorem State.setCore_performed (c : Nat) (x : Core) : (s.setCore c x).performed = s.performed := rfl
@[simp] theorem State.setCore_gangs (c : Nat) (x : Core) : (s.setCore c x).gangs = s.gangs := rfl
@[simp] theorem State.setCore_quads (c : Nat) (x : Core) : (s.setCore c x).quads = s.quads := rfl
@[simp] theorem State.setCore_cores (c : Nat) (x : Core) : (s.setCore c x).cores = Map.set Core.init s.cores c x := rfl
@[simp] theorem State.setCore_l2 (c : Nat) (x : Core) : (s.setCore c x).l2 = s.l2 := rfl
@[simp] theorem State.setCore_mem (c : Nat) (x : Core) : (s.setCore c x).mem = s.mem := rfl
@[simp] theorem State.setCore_writes (c : Nat) (x : Core) : (s.setCore c x).writes = s.writes := rfl
@[simp] theorem State.setCore_bad (c : Nat) (x : Core) : (s.setCore c x).bad = s.bad := rfl
@[simp] theorem State.setCore_bad8 (c : Nat) (x : Core) : (s.setCore c x).bad8 = s.bad8 := rfl
@[simp] theorem State.setCore_cxl (c : Nat) (x : Core) : (s.setCore c x).cxl = s.cxl := rfl
@[simp] theorem State.setCore_posted (c : Nat) (x : Core) : (s.setCore c x).posted = s.posted := rfl
@[simp] theorem State.setCore_tlb (c : Nat) (x : Core) : (s.setCore c x).tlb = s.tlb := rfl
@[simp] theorem State.setCore_parts (c : Nat) (x : Core) : (s.setCore c x).parts = s.parts := rfl
@[simp] theorem State.setCore_ctxs (c : Nat) (x : Core) : (s.setCore c x).ctxs = s.ctxs := rfl
@[simp] theorem State.setCore_faults (c : Nat) (x : Core) : (s.setCore c x).faults = s.faults := rfl
@[simp] theorem State.setCore_ctxFaults (c : Nat) (x : Core) : (s.setCore c x).ctxFaults = s.ctxFaults := rfl
@[simp] theorem State.setCore_crews (c : Nat) (x : Core) : (s.setCore c x).crews = s.crews := rfl
@[simp] theorem State.setCore_rollbacks (c : Nat) (x : Core) : (s.setCore c x).rollbacks = s.rollbacks := rfl
@[simp] theorem State.setCore_cellSrc (c : Nat) (x : Core) : (s.setCore c x).cellSrc = s.cellSrc := rfl
@[simp] theorem State.setCore_cmds (c : Nat) (x : Core) : (s.setCore c x).cmds = s.cmds := rfl
@[simp] theorem State.setCore_spawns (c : Nat) (x : Core) : (s.setCore c x).spawns = s.spawns := rfl
@[simp] theorem State.setCore_copies (c : Nat) (x : Core) : (s.setCore c x).copies = s.copies := rfl
@[simp] theorem State.setCore_matrix (c : Nat) (x : Core) : (s.setCore c x).matrix = s.matrix := rfl
@[simp] theorem State.setCore_tiles (c : Nat) (x : Core) : (s.setCore c x).tiles = s.tiles := rfl
@[simp] theorem State.setCore_mqs (c : Nat) (x : Core) : (s.setCore c x).mqs = s.mqs := rfl
@[simp] theorem State.setCore_savedTiles (c : Nat) (x : Core) : (s.setCore c x).savedTiles = s.savedTiles := rfl
@[simp] theorem State.setCore_rays (c : Nat) (x : Core) : (s.setCore c x).rays = s.rays := rfl
@[simp] theorem State.setCore_marches (c : Nat) (x : Core) : (s.setCore c x).marches = s.marches := rfl
@[simp] theorem State.setCore_footprints (c : Nat) (x : Core) : (s.setCore c x).footprints = s.footprints := rfl
@[simp] theorem State.setCore_larder (c : Nat) (x : Core) : (s.setCore c x).larder = s.larder := rfl
@[simp] theorem State.setCore_colls (c : Nat) (x : Core) : (s.setCore c x).colls = s.colls := rfl
@[simp] theorem State.setCore_puts (c : Nat) (x : Core) : (s.setCore c x).puts = s.puts := rfl
@[simp] theorem State.setCore_gets (c : Nat) (x : Core) : (s.setCore c x).gets = s.gets := rfl
@[simp] theorem State.setCore_queries (c : Nat) (x : Core) : (s.setCore c x).queries = s.queries := rfl
@[simp] theorem State.setCore_launches (c : Nat) (x : Core) : (s.setCore c x).launches = s.launches := rfl
@[simp] theorem State.setCore_waiting (c : Nat) (x : Core) : (s.setCore c x).waiting = s.waiting := rfl
@[simp] theorem State.setCore_signals (c : Nat) (x : Core) : (s.setCore c x).signals = s.signals := rfl
@[simp] theorem State.setCore_host (c : Nat) (x : Core) : (s.setCore c x).host = s.host := rfl
@[simp] theorem State.setCore_msix (c : Nat) (x : Core) : (s.setCore c x).msix = s.msix := rfl
@[simp] theorem State.setCore_trig (c : Nat) (x : Core) : (s.setCore c x).trig = s.trig := rfl
@[simp] theorem State.setCore_pageUse (c : Nat) (x : Core) : (s.setCore c x).pageUse = s.pageUse := rfl
@[simp] theorem State.setCore_jobs (c : Nat) (x : Core) : (s.setCore c x).jobs = s.jobs := rfl
@[simp] theorem State.setCore_device (c : Nat) (x : Core) : (s.setCore c x).device = s.device := rfl
@[simp] theorem State.setCore_dump (c : Nat) (x : Core) : (s.setCore c x).dump = s.dump := rfl

/-! ### setSlice -/

@[simp] theorem State.setSlice_cycle (k : Nat) (x : L2) : (s.setSlice k x).cycle = s.cycle := rfl
@[simp] theorem State.setSlice_agenda (k : Nat) (x : L2) : (s.setSlice k x).agenda = s.agenda := rfl
@[simp] theorem State.setSlice_free (k : Nat) (x : L2) : (s.setSlice k x).free = s.free := rfl
@[simp] theorem State.setSlice_late (k : Nat) (x : L2) : (s.setSlice k x).late = s.late := rfl
@[simp] theorem State.setSlice_turn (k : Nat) (x : L2) : (s.setSlice k x).turn = s.turn := rfl
@[simp] theorem State.setSlice_nextId (k : Nat) (x : L2) : (s.setSlice k x).nextId = s.nextId := rfl
@[simp] theorem State.setSlice_cur (k : Nat) (x : L2) : (s.setSlice k x).cur = s.cur := rfl
@[simp] theorem State.setSlice_performed (k : Nat) (x : L2) : (s.setSlice k x).performed = s.performed := rfl
@[simp] theorem State.setSlice_gangs (k : Nat) (x : L2) : (s.setSlice k x).gangs = s.gangs := rfl
@[simp] theorem State.setSlice_quads (k : Nat) (x : L2) : (s.setSlice k x).quads = s.quads := rfl
@[simp] theorem State.setSlice_cores (k : Nat) (x : L2) : (s.setSlice k x).cores = s.cores := rfl
@[simp] theorem State.setSlice_l2 (k : Nat) (x : L2) : (s.setSlice k x).l2 = Map.set L2.init s.l2 k x := rfl
@[simp] theorem State.setSlice_mem (k : Nat) (x : L2) : (s.setSlice k x).mem = s.mem := rfl
@[simp] theorem State.setSlice_writes (k : Nat) (x : L2) : (s.setSlice k x).writes = s.writes := rfl
@[simp] theorem State.setSlice_bad (k : Nat) (x : L2) : (s.setSlice k x).bad = s.bad := rfl
@[simp] theorem State.setSlice_bad8 (k : Nat) (x : L2) : (s.setSlice k x).bad8 = s.bad8 := rfl
@[simp] theorem State.setSlice_cxl (k : Nat) (x : L2) : (s.setSlice k x).cxl = s.cxl := rfl
@[simp] theorem State.setSlice_posted (k : Nat) (x : L2) : (s.setSlice k x).posted = s.posted := rfl
@[simp] theorem State.setSlice_tlb (k : Nat) (x : L2) : (s.setSlice k x).tlb = s.tlb := rfl
@[simp] theorem State.setSlice_parts (k : Nat) (x : L2) : (s.setSlice k x).parts = s.parts := rfl
@[simp] theorem State.setSlice_ctxs (k : Nat) (x : L2) : (s.setSlice k x).ctxs = s.ctxs := rfl
@[simp] theorem State.setSlice_faults (k : Nat) (x : L2) : (s.setSlice k x).faults = s.faults := rfl
@[simp] theorem State.setSlice_ctxFaults (k : Nat) (x : L2) : (s.setSlice k x).ctxFaults = s.ctxFaults := rfl
@[simp] theorem State.setSlice_crews (k : Nat) (x : L2) : (s.setSlice k x).crews = s.crews := rfl
@[simp] theorem State.setSlice_rollbacks (k : Nat) (x : L2) : (s.setSlice k x).rollbacks = s.rollbacks := rfl
@[simp] theorem State.setSlice_cellSrc (k : Nat) (x : L2) : (s.setSlice k x).cellSrc = s.cellSrc := rfl
@[simp] theorem State.setSlice_cmds (k : Nat) (x : L2) : (s.setSlice k x).cmds = s.cmds := rfl
@[simp] theorem State.setSlice_spawns (k : Nat) (x : L2) : (s.setSlice k x).spawns = s.spawns := rfl
@[simp] theorem State.setSlice_copies (k : Nat) (x : L2) : (s.setSlice k x).copies = s.copies := rfl
@[simp] theorem State.setSlice_matrix (k : Nat) (x : L2) : (s.setSlice k x).matrix = s.matrix := rfl
@[simp] theorem State.setSlice_tiles (k : Nat) (x : L2) : (s.setSlice k x).tiles = s.tiles := rfl
@[simp] theorem State.setSlice_mqs (k : Nat) (x : L2) : (s.setSlice k x).mqs = s.mqs := rfl
@[simp] theorem State.setSlice_savedTiles (k : Nat) (x : L2) : (s.setSlice k x).savedTiles = s.savedTiles := rfl
@[simp] theorem State.setSlice_rays (k : Nat) (x : L2) : (s.setSlice k x).rays = s.rays := rfl
@[simp] theorem State.setSlice_marches (k : Nat) (x : L2) : (s.setSlice k x).marches = s.marches := rfl
@[simp] theorem State.setSlice_footprints (k : Nat) (x : L2) : (s.setSlice k x).footprints = s.footprints := rfl
@[simp] theorem State.setSlice_larder (k : Nat) (x : L2) : (s.setSlice k x).larder = s.larder := rfl
@[simp] theorem State.setSlice_colls (k : Nat) (x : L2) : (s.setSlice k x).colls = s.colls := rfl
@[simp] theorem State.setSlice_puts (k : Nat) (x : L2) : (s.setSlice k x).puts = s.puts := rfl
@[simp] theorem State.setSlice_gets (k : Nat) (x : L2) : (s.setSlice k x).gets = s.gets := rfl
@[simp] theorem State.setSlice_queries (k : Nat) (x : L2) : (s.setSlice k x).queries = s.queries := rfl
@[simp] theorem State.setSlice_launches (k : Nat) (x : L2) : (s.setSlice k x).launches = s.launches := rfl
@[simp] theorem State.setSlice_waiting (k : Nat) (x : L2) : (s.setSlice k x).waiting = s.waiting := rfl
@[simp] theorem State.setSlice_signals (k : Nat) (x : L2) : (s.setSlice k x).signals = s.signals := rfl
@[simp] theorem State.setSlice_host (k : Nat) (x : L2) : (s.setSlice k x).host = s.host := rfl
@[simp] theorem State.setSlice_msix (k : Nat) (x : L2) : (s.setSlice k x).msix = s.msix := rfl
@[simp] theorem State.setSlice_trig (k : Nat) (x : L2) : (s.setSlice k x).trig = s.trig := rfl
@[simp] theorem State.setSlice_pageUse (k : Nat) (x : L2) : (s.setSlice k x).pageUse = s.pageUse := rfl
@[simp] theorem State.setSlice_jobs (k : Nat) (x : L2) : (s.setSlice k x).jobs = s.jobs := rfl
@[simp] theorem State.setSlice_device (k : Nat) (x : L2) : (s.setSlice k x).device = s.device := rfl
@[simp] theorem State.setSlice_dump (k : Nat) (x : L2) : (s.setSlice k x).dump = s.dump := rfl

/-! ### setPart -/

@[simp] theorem State.setPart_cycle (p : Nat) (x : Part) : (s.setPart p x).cycle = s.cycle := rfl
@[simp] theorem State.setPart_agenda (p : Nat) (x : Part) : (s.setPart p x).agenda = s.agenda := rfl
@[simp] theorem State.setPart_free (p : Nat) (x : Part) : (s.setPart p x).free = s.free := rfl
@[simp] theorem State.setPart_late (p : Nat) (x : Part) : (s.setPart p x).late = s.late := rfl
@[simp] theorem State.setPart_turn (p : Nat) (x : Part) : (s.setPart p x).turn = s.turn := rfl
@[simp] theorem State.setPart_nextId (p : Nat) (x : Part) : (s.setPart p x).nextId = s.nextId := rfl
@[simp] theorem State.setPart_cur (p : Nat) (x : Part) : (s.setPart p x).cur = s.cur := rfl
@[simp] theorem State.setPart_performed (p : Nat) (x : Part) : (s.setPart p x).performed = s.performed := rfl
@[simp] theorem State.setPart_gangs (p : Nat) (x : Part) : (s.setPart p x).gangs = s.gangs := rfl
@[simp] theorem State.setPart_quads (p : Nat) (x : Part) : (s.setPart p x).quads = s.quads := rfl
@[simp] theorem State.setPart_cores (p : Nat) (x : Part) : (s.setPart p x).cores = s.cores := rfl
@[simp] theorem State.setPart_l2 (p : Nat) (x : Part) : (s.setPart p x).l2 = s.l2 := rfl
@[simp] theorem State.setPart_mem (p : Nat) (x : Part) : (s.setPart p x).mem = s.mem := rfl
@[simp] theorem State.setPart_writes (p : Nat) (x : Part) : (s.setPart p x).writes = s.writes := rfl
@[simp] theorem State.setPart_bad (p : Nat) (x : Part) : (s.setPart p x).bad = s.bad := rfl
@[simp] theorem State.setPart_bad8 (p : Nat) (x : Part) : (s.setPart p x).bad8 = s.bad8 := rfl
@[simp] theorem State.setPart_cxl (p : Nat) (x : Part) : (s.setPart p x).cxl = s.cxl := rfl
@[simp] theorem State.setPart_posted (p : Nat) (x : Part) : (s.setPart p x).posted = s.posted := rfl
@[simp] theorem State.setPart_tlb (p : Nat) (x : Part) : (s.setPart p x).tlb = s.tlb := rfl
@[simp] theorem State.setPart_parts (p : Nat) (x : Part) : (s.setPart p x).parts = s.parts.put p x := rfl
@[simp] theorem State.setPart_ctxs (p : Nat) (x : Part) : (s.setPart p x).ctxs = s.ctxs := rfl
@[simp] theorem State.setPart_faults (p : Nat) (x : Part) : (s.setPart p x).faults = s.faults := rfl
@[simp] theorem State.setPart_ctxFaults (p : Nat) (x : Part) : (s.setPart p x).ctxFaults = s.ctxFaults := rfl
@[simp] theorem State.setPart_crews (p : Nat) (x : Part) : (s.setPart p x).crews = s.crews := rfl
@[simp] theorem State.setPart_rollbacks (p : Nat) (x : Part) : (s.setPart p x).rollbacks = s.rollbacks := rfl
@[simp] theorem State.setPart_cellSrc (p : Nat) (x : Part) : (s.setPart p x).cellSrc = s.cellSrc := rfl
@[simp] theorem State.setPart_cmds (p : Nat) (x : Part) : (s.setPart p x).cmds = s.cmds := rfl
@[simp] theorem State.setPart_spawns (p : Nat) (x : Part) : (s.setPart p x).spawns = s.spawns := rfl
@[simp] theorem State.setPart_copies (p : Nat) (x : Part) : (s.setPart p x).copies = s.copies := rfl
@[simp] theorem State.setPart_matrix (p : Nat) (x : Part) : (s.setPart p x).matrix = s.matrix := rfl
@[simp] theorem State.setPart_tiles (p : Nat) (x : Part) : (s.setPart p x).tiles = s.tiles := rfl
@[simp] theorem State.setPart_mqs (p : Nat) (x : Part) : (s.setPart p x).mqs = s.mqs := rfl
@[simp] theorem State.setPart_savedTiles (p : Nat) (x : Part) : (s.setPart p x).savedTiles = s.savedTiles := rfl
@[simp] theorem State.setPart_rays (p : Nat) (x : Part) : (s.setPart p x).rays = s.rays := rfl
@[simp] theorem State.setPart_marches (p : Nat) (x : Part) : (s.setPart p x).marches = s.marches := rfl
@[simp] theorem State.setPart_footprints (p : Nat) (x : Part) : (s.setPart p x).footprints = s.footprints := rfl
@[simp] theorem State.setPart_larder (p : Nat) (x : Part) : (s.setPart p x).larder = s.larder := rfl
@[simp] theorem State.setPart_colls (p : Nat) (x : Part) : (s.setPart p x).colls = s.colls := rfl
@[simp] theorem State.setPart_puts (p : Nat) (x : Part) : (s.setPart p x).puts = s.puts := rfl
@[simp] theorem State.setPart_gets (p : Nat) (x : Part) : (s.setPart p x).gets = s.gets := rfl
@[simp] theorem State.setPart_queries (p : Nat) (x : Part) : (s.setPart p x).queries = s.queries := rfl
@[simp] theorem State.setPart_launches (p : Nat) (x : Part) : (s.setPart p x).launches = s.launches := rfl
@[simp] theorem State.setPart_waiting (p : Nat) (x : Part) : (s.setPart p x).waiting = s.waiting := rfl
@[simp] theorem State.setPart_signals (p : Nat) (x : Part) : (s.setPart p x).signals = s.signals := rfl
@[simp] theorem State.setPart_host (p : Nat) (x : Part) : (s.setPart p x).host = s.host := rfl
@[simp] theorem State.setPart_msix (p : Nat) (x : Part) : (s.setPart p x).msix = s.msix := rfl
@[simp] theorem State.setPart_trig (p : Nat) (x : Part) : (s.setPart p x).trig = s.trig := rfl
@[simp] theorem State.setPart_pageUse (p : Nat) (x : Part) : (s.setPart p x).pageUse = s.pageUse := rfl
@[simp] theorem State.setPart_jobs (p : Nat) (x : Part) : (s.setPart p x).jobs = s.jobs := rfl
@[simp] theorem State.setPart_device (p : Nat) (x : Part) : (s.setPart p x).device = s.device := rfl
@[simp] theorem State.setPart_dump (p : Nat) (x : Part) : (s.setPart p x).dump = s.dump := rfl

/-! ### setReg -/

@[simp] theorem State.setReg_cycle (p off : Nat) (v : Word64) : (s.setReg p off v).cycle = s.cycle := rfl
@[simp] theorem State.setReg_agenda (p off : Nat) (v : Word64) : (s.setReg p off v).agenda = s.agenda := rfl
@[simp] theorem State.setReg_free (p off : Nat) (v : Word64) : (s.setReg p off v).free = s.free := rfl
@[simp] theorem State.setReg_late (p off : Nat) (v : Word64) : (s.setReg p off v).late = s.late := rfl
@[simp] theorem State.setReg_turn (p off : Nat) (v : Word64) : (s.setReg p off v).turn = s.turn := rfl
@[simp] theorem State.setReg_nextId (p off : Nat) (v : Word64) : (s.setReg p off v).nextId = s.nextId := rfl
@[simp] theorem State.setReg_cur (p off : Nat) (v : Word64) : (s.setReg p off v).cur = s.cur := rfl
@[simp] theorem State.setReg_performed (p off : Nat) (v : Word64) : (s.setReg p off v).performed = s.performed := rfl
@[simp] theorem State.setReg_gangs (p off : Nat) (v : Word64) : (s.setReg p off v).gangs = s.gangs := rfl
@[simp] theorem State.setReg_quads (p off : Nat) (v : Word64) : (s.setReg p off v).quads = s.quads := rfl
@[simp] theorem State.setReg_cores (p off : Nat) (v : Word64) : (s.setReg p off v).cores = s.cores := rfl
@[simp] theorem State.setReg_l2 (p off : Nat) (v : Word64) : (s.setReg p off v).l2 = s.l2 := rfl
@[simp] theorem State.setReg_mem (p off : Nat) (v : Word64) : (s.setReg p off v).mem = s.mem := rfl
@[simp] theorem State.setReg_writes (p off : Nat) (v : Word64) : (s.setReg p off v).writes = s.writes := rfl
@[simp] theorem State.setReg_bad (p off : Nat) (v : Word64) : (s.setReg p off v).bad = s.bad := rfl
@[simp] theorem State.setReg_bad8 (p off : Nat) (v : Word64) : (s.setReg p off v).bad8 = s.bad8 := rfl
@[simp] theorem State.setReg_cxl (p off : Nat) (v : Word64) : (s.setReg p off v).cxl = s.cxl := rfl
@[simp] theorem State.setReg_posted (p off : Nat) (v : Word64) : (s.setReg p off v).posted = s.posted := rfl
@[simp] theorem State.setReg_tlb (p off : Nat) (v : Word64) : (s.setReg p off v).tlb = s.tlb := rfl
@[simp] theorem State.setReg_parts (p off : Nat) (v : Word64) : (s.setReg p off v).parts = s.parts.put p { s.part p with regs := Map.set 0 (s.part p).regs off v } := rfl
@[simp] theorem State.setReg_ctxs (p off : Nat) (v : Word64) : (s.setReg p off v).ctxs = s.ctxs := rfl
@[simp] theorem State.setReg_faults (p off : Nat) (v : Word64) : (s.setReg p off v).faults = s.faults := rfl
@[simp] theorem State.setReg_ctxFaults (p off : Nat) (v : Word64) : (s.setReg p off v).ctxFaults = s.ctxFaults := rfl
@[simp] theorem State.setReg_crews (p off : Nat) (v : Word64) : (s.setReg p off v).crews = s.crews := rfl
@[simp] theorem State.setReg_rollbacks (p off : Nat) (v : Word64) : (s.setReg p off v).rollbacks = s.rollbacks := rfl
@[simp] theorem State.setReg_cellSrc (p off : Nat) (v : Word64) : (s.setReg p off v).cellSrc = s.cellSrc := rfl
@[simp] theorem State.setReg_cmds (p off : Nat) (v : Word64) : (s.setReg p off v).cmds = s.cmds := rfl
@[simp] theorem State.setReg_spawns (p off : Nat) (v : Word64) : (s.setReg p off v).spawns = s.spawns := rfl
@[simp] theorem State.setReg_copies (p off : Nat) (v : Word64) : (s.setReg p off v).copies = s.copies := rfl
@[simp] theorem State.setReg_matrix (p off : Nat) (v : Word64) : (s.setReg p off v).matrix = s.matrix := rfl
@[simp] theorem State.setReg_tiles (p off : Nat) (v : Word64) : (s.setReg p off v).tiles = s.tiles := rfl
@[simp] theorem State.setReg_mqs (p off : Nat) (v : Word64) : (s.setReg p off v).mqs = s.mqs := rfl
@[simp] theorem State.setReg_savedTiles (p off : Nat) (v : Word64) : (s.setReg p off v).savedTiles = s.savedTiles := rfl
@[simp] theorem State.setReg_rays (p off : Nat) (v : Word64) : (s.setReg p off v).rays = s.rays := rfl
@[simp] theorem State.setReg_marches (p off : Nat) (v : Word64) : (s.setReg p off v).marches = s.marches := rfl
@[simp] theorem State.setReg_footprints (p off : Nat) (v : Word64) : (s.setReg p off v).footprints = s.footprints := rfl
@[simp] theorem State.setReg_larder (p off : Nat) (v : Word64) : (s.setReg p off v).larder = s.larder := rfl
@[simp] theorem State.setReg_colls (p off : Nat) (v : Word64) : (s.setReg p off v).colls = s.colls := rfl
@[simp] theorem State.setReg_puts (p off : Nat) (v : Word64) : (s.setReg p off v).puts = s.puts := rfl
@[simp] theorem State.setReg_gets (p off : Nat) (v : Word64) : (s.setReg p off v).gets = s.gets := rfl
@[simp] theorem State.setReg_queries (p off : Nat) (v : Word64) : (s.setReg p off v).queries = s.queries := rfl
@[simp] theorem State.setReg_launches (p off : Nat) (v : Word64) : (s.setReg p off v).launches = s.launches := rfl
@[simp] theorem State.setReg_waiting (p off : Nat) (v : Word64) : (s.setReg p off v).waiting = s.waiting := rfl
@[simp] theorem State.setReg_signals (p off : Nat) (v : Word64) : (s.setReg p off v).signals = s.signals := rfl
@[simp] theorem State.setReg_host (p off : Nat) (v : Word64) : (s.setReg p off v).host = s.host := rfl
@[simp] theorem State.setReg_msix (p off : Nat) (v : Word64) : (s.setReg p off v).msix = s.msix := rfl
@[simp] theorem State.setReg_trig (p off : Nat) (v : Word64) : (s.setReg p off v).trig = s.trig := rfl
@[simp] theorem State.setReg_pageUse (p off : Nat) (v : Word64) : (s.setReg p off v).pageUse = s.pageUse := rfl
@[simp] theorem State.setReg_jobs (p off : Nat) (v : Word64) : (s.setReg p off v).jobs = s.jobs := rfl
@[simp] theorem State.setReg_device (p off : Nat) (v : Word64) : (s.setReg p off v).device = s.device := rfl
@[simp] theorem State.setReg_dump (p off : Nat) (v : Word64) : (s.setReg p off v).dump = s.dump := rfl

/-! ### setCur -/

@[simp] theorem State.setCur_cycle (g : Gang) : (s.setCur g).cycle = s.cycle := rfl
@[simp] theorem State.setCur_agenda (g : Gang) : (s.setCur g).agenda = s.agenda := rfl
@[simp] theorem State.setCur_free (g : Gang) : (s.setCur g).free = s.free := rfl
@[simp] theorem State.setCur_late (g : Gang) : (s.setCur g).late = s.late := rfl
@[simp] theorem State.setCur_turn (g : Gang) : (s.setCur g).turn = s.turn := rfl
@[simp] theorem State.setCur_nextId (g : Gang) : (s.setCur g).nextId = s.nextId := rfl
@[simp] theorem State.setCur_cur (g : Gang) : (s.setCur g).cur = some g := rfl
@[simp] theorem State.setCur_performed (g : Gang) : (s.setCur g).performed = s.performed := rfl
@[simp] theorem State.setCur_gangs (g : Gang) : (s.setCur g).gangs = s.gangs := rfl
@[simp] theorem State.setCur_quads (g : Gang) : (s.setCur g).quads = s.quads := rfl
@[simp] theorem State.setCur_cores (g : Gang) : (s.setCur g).cores = s.cores := rfl
@[simp] theorem State.setCur_l2 (g : Gang) : (s.setCur g).l2 = s.l2 := rfl
@[simp] theorem State.setCur_mem (g : Gang) : (s.setCur g).mem = s.mem := rfl
@[simp] theorem State.setCur_writes (g : Gang) : (s.setCur g).writes = s.writes := rfl
@[simp] theorem State.setCur_bad (g : Gang) : (s.setCur g).bad = s.bad := rfl
@[simp] theorem State.setCur_bad8 (g : Gang) : (s.setCur g).bad8 = s.bad8 := rfl
@[simp] theorem State.setCur_cxl (g : Gang) : (s.setCur g).cxl = s.cxl := rfl
@[simp] theorem State.setCur_posted (g : Gang) : (s.setCur g).posted = s.posted := rfl
@[simp] theorem State.setCur_tlb (g : Gang) : (s.setCur g).tlb = s.tlb := rfl
@[simp] theorem State.setCur_parts (g : Gang) : (s.setCur g).parts = s.parts := rfl
@[simp] theorem State.setCur_ctxs (g : Gang) : (s.setCur g).ctxs = s.ctxs := rfl
@[simp] theorem State.setCur_faults (g : Gang) : (s.setCur g).faults = s.faults := rfl
@[simp] theorem State.setCur_ctxFaults (g : Gang) : (s.setCur g).ctxFaults = s.ctxFaults := rfl
@[simp] theorem State.setCur_crews (g : Gang) : (s.setCur g).crews = s.crews := rfl
@[simp] theorem State.setCur_rollbacks (g : Gang) : (s.setCur g).rollbacks = s.rollbacks := rfl
@[simp] theorem State.setCur_cellSrc (g : Gang) : (s.setCur g).cellSrc = s.cellSrc := rfl
@[simp] theorem State.setCur_cmds (g : Gang) : (s.setCur g).cmds = s.cmds := rfl
@[simp] theorem State.setCur_spawns (g : Gang) : (s.setCur g).spawns = s.spawns := rfl
@[simp] theorem State.setCur_copies (g : Gang) : (s.setCur g).copies = s.copies := rfl
@[simp] theorem State.setCur_matrix (g : Gang) : (s.setCur g).matrix = s.matrix := rfl
@[simp] theorem State.setCur_tiles (g : Gang) : (s.setCur g).tiles = s.tiles := rfl
@[simp] theorem State.setCur_mqs (g : Gang) : (s.setCur g).mqs = s.mqs := rfl
@[simp] theorem State.setCur_savedTiles (g : Gang) : (s.setCur g).savedTiles = s.savedTiles := rfl
@[simp] theorem State.setCur_rays (g : Gang) : (s.setCur g).rays = s.rays := rfl
@[simp] theorem State.setCur_marches (g : Gang) : (s.setCur g).marches = s.marches := rfl
@[simp] theorem State.setCur_footprints (g : Gang) : (s.setCur g).footprints = s.footprints := rfl
@[simp] theorem State.setCur_larder (g : Gang) : (s.setCur g).larder = s.larder := rfl
@[simp] theorem State.setCur_colls (g : Gang) : (s.setCur g).colls = s.colls := rfl
@[simp] theorem State.setCur_puts (g : Gang) : (s.setCur g).puts = s.puts := rfl
@[simp] theorem State.setCur_gets (g : Gang) : (s.setCur g).gets = s.gets := rfl
@[simp] theorem State.setCur_queries (g : Gang) : (s.setCur g).queries = s.queries := rfl
@[simp] theorem State.setCur_launches (g : Gang) : (s.setCur g).launches = s.launches := rfl
@[simp] theorem State.setCur_waiting (g : Gang) : (s.setCur g).waiting = s.waiting := rfl
@[simp] theorem State.setCur_signals (g : Gang) : (s.setCur g).signals = s.signals := rfl
@[simp] theorem State.setCur_host (g : Gang) : (s.setCur g).host = s.host := rfl
@[simp] theorem State.setCur_msix (g : Gang) : (s.setCur g).msix = s.msix := rfl
@[simp] theorem State.setCur_trig (g : Gang) : (s.setCur g).trig = s.trig := rfl
@[simp] theorem State.setCur_pageUse (g : Gang) : (s.setCur g).pageUse = s.pageUse := rfl
@[simp] theorem State.setCur_jobs (g : Gang) : (s.setCur g).jobs = s.jobs := rfl
@[simp] theorem State.setCur_device (g : Gang) : (s.setCur g).device = s.device := rfl
@[simp] theorem State.setCur_dump (g : Gang) : (s.setCur g).dump = s.dump := rfl

/-! ### wordDone -/

@[simp] theorem State.wordDone_cycle (g : Gang) : (s.wordDone g).cycle = s.cycle := rfl
@[simp] theorem State.wordDone_agenda (g : Gang) : (s.wordDone g).agenda = s.agenda := rfl
@[simp] theorem State.wordDone_free (g : Gang) : (s.wordDone g).free = s.free + 1 := rfl
@[simp] theorem State.wordDone_late (g : Gang) : (s.wordDone g).late = s.late := rfl
@[simp] theorem State.wordDone_turn (g : Gang) : (s.wordDone g).turn = s.turn := rfl
@[simp] theorem State.wordDone_nextId (g : Gang) : (s.wordDone g).nextId = s.nextId := rfl
@[simp] theorem State.wordDone_cur (g : Gang) : (s.wordDone g).cur = some g := rfl
@[simp] theorem State.wordDone_performed (g : Gang) : (s.wordDone g).performed = true := rfl
@[simp] theorem State.wordDone_gangs (g : Gang) : (s.wordDone g).gangs = s.gangs := rfl
@[simp] theorem State.wordDone_quads (g : Gang) : (s.wordDone g).quads = s.quads := rfl
@[simp] theorem State.wordDone_cores (g : Gang) : (s.wordDone g).cores = s.cores := rfl
@[simp] theorem State.wordDone_l2 (g : Gang) : (s.wordDone g).l2 = s.l2 := rfl
@[simp] theorem State.wordDone_mem (g : Gang) : (s.wordDone g).mem = s.mem := rfl
@[simp] theorem State.wordDone_writes (g : Gang) : (s.wordDone g).writes = s.writes := rfl
@[simp] theorem State.wordDone_bad (g : Gang) : (s.wordDone g).bad = s.bad := rfl
@[simp] theorem State.wordDone_bad8 (g : Gang) : (s.wordDone g).bad8 = s.bad8 := rfl
@[simp] theorem State.wordDone_cxl (g : Gang) : (s.wordDone g).cxl = s.cxl := rfl
@[simp] theorem State.wordDone_posted (g : Gang) : (s.wordDone g).posted = s.posted := rfl
@[simp] theorem State.wordDone_tlb (g : Gang) : (s.wordDone g).tlb = s.tlb := rfl
@[simp] theorem State.wordDone_parts (g : Gang) : (s.wordDone g).parts = s.parts := rfl
@[simp] theorem State.wordDone_ctxs (g : Gang) : (s.wordDone g).ctxs = s.ctxs := rfl
@[simp] theorem State.wordDone_faults (g : Gang) : (s.wordDone g).faults = s.faults := rfl
@[simp] theorem State.wordDone_ctxFaults (g : Gang) : (s.wordDone g).ctxFaults = s.ctxFaults := rfl
@[simp] theorem State.wordDone_crews (g : Gang) : (s.wordDone g).crews = s.crews := rfl
@[simp] theorem State.wordDone_rollbacks (g : Gang) : (s.wordDone g).rollbacks = s.rollbacks := rfl
@[simp] theorem State.wordDone_cellSrc (g : Gang) : (s.wordDone g).cellSrc = s.cellSrc := rfl
@[simp] theorem State.wordDone_cmds (g : Gang) : (s.wordDone g).cmds = s.cmds := rfl
@[simp] theorem State.wordDone_spawns (g : Gang) : (s.wordDone g).spawns = s.spawns := rfl
@[simp] theorem State.wordDone_copies (g : Gang) : (s.wordDone g).copies = s.copies := rfl
@[simp] theorem State.wordDone_matrix (g : Gang) : (s.wordDone g).matrix = s.matrix := rfl
@[simp] theorem State.wordDone_tiles (g : Gang) : (s.wordDone g).tiles = s.tiles := rfl
@[simp] theorem State.wordDone_mqs (g : Gang) : (s.wordDone g).mqs = s.mqs := rfl
@[simp] theorem State.wordDone_savedTiles (g : Gang) : (s.wordDone g).savedTiles = s.savedTiles := rfl
@[simp] theorem State.wordDone_rays (g : Gang) : (s.wordDone g).rays = s.rays := rfl
@[simp] theorem State.wordDone_marches (g : Gang) : (s.wordDone g).marches = s.marches := rfl
@[simp] theorem State.wordDone_footprints (g : Gang) : (s.wordDone g).footprints = s.footprints := rfl
@[simp] theorem State.wordDone_larder (g : Gang) : (s.wordDone g).larder = s.larder := rfl
@[simp] theorem State.wordDone_colls (g : Gang) : (s.wordDone g).colls = s.colls := rfl
@[simp] theorem State.wordDone_puts (g : Gang) : (s.wordDone g).puts = s.puts := rfl
@[simp] theorem State.wordDone_gets (g : Gang) : (s.wordDone g).gets = s.gets := rfl
@[simp] theorem State.wordDone_queries (g : Gang) : (s.wordDone g).queries = s.queries := rfl
@[simp] theorem State.wordDone_launches (g : Gang) : (s.wordDone g).launches = s.launches := rfl
@[simp] theorem State.wordDone_waiting (g : Gang) : (s.wordDone g).waiting = s.waiting := rfl
@[simp] theorem State.wordDone_signals (g : Gang) : (s.wordDone g).signals = s.signals := rfl
@[simp] theorem State.wordDone_host (g : Gang) : (s.wordDone g).host = s.host := rfl
@[simp] theorem State.wordDone_msix (g : Gang) : (s.wordDone g).msix = s.msix := rfl
@[simp] theorem State.wordDone_trig (g : Gang) : (s.wordDone g).trig = s.trig := rfl
@[simp] theorem State.wordDone_pageUse (g : Gang) : (s.wordDone g).pageUse = s.pageUse := rfl
@[simp] theorem State.wordDone_jobs (g : Gang) : (s.wordDone g).jobs = s.jobs := rfl
@[simp] theorem State.wordDone_device (g : Gang) : (s.wordDone g).device = s.device := rfl
@[simp] theorem State.wordDone_dump (g : Gang) : (s.wordDone g).dump = s.dump := rfl

/-! ### checkout -/

@[simp] theorem State.checkout_cycle (g : Gang) (late : Bool) : (s.checkout g late).cycle = s.cycle := rfl
@[simp] theorem State.checkout_agenda (g : Gang) (late : Bool) : (s.checkout g late).agenda = s.agenda := rfl
@[simp] theorem State.checkout_free (g : Gang) (late : Bool) : (s.checkout g late).free = s.free := rfl
@[simp] theorem State.checkout_late (g : Gang) (late : Bool) : (s.checkout g late).late = late := rfl
@[simp] theorem State.checkout_turn (g : Gang) (late : Bool) : (s.checkout g late).turn = s.turn := rfl
@[simp] theorem State.checkout_nextId (g : Gang) (late : Bool) : (s.checkout g late).nextId = s.nextId := rfl
@[simp] theorem State.checkout_cur (g : Gang) (late : Bool) : (s.checkout g late).cur = some g := rfl
@[simp] theorem State.checkout_performed (g : Gang) (late : Bool) : (s.checkout g late).performed = false := rfl
@[simp] theorem State.checkout_gangs (g : Gang) (late : Bool) : (s.checkout g late).gangs = s.gangs.filter (fun h => h.gid != g.gid) := rfl
@[simp] theorem State.checkout_quads (g : Gang) (late : Bool) : (s.checkout g late).quads = s.quads := rfl
@[simp] theorem State.checkout_cores (g : Gang) (late : Bool) : (s.checkout g late).cores = s.cores := rfl
@[simp] theorem State.checkout_l2 (g : Gang) (late : Bool) : (s.checkout g late).l2 = s.l2 := rfl
@[simp] theorem State.checkout_mem (g : Gang) (late : Bool) : (s.checkout g late).mem = s.mem := rfl
@[simp] theorem State.checkout_writes (g : Gang) (late : Bool) : (s.checkout g late).writes = s.writes := rfl
@[simp] theorem State.checkout_bad (g : Gang) (late : Bool) : (s.checkout g late).bad = s.bad := rfl
@[simp] theorem State.checkout_bad8 (g : Gang) (late : Bool) : (s.checkout g late).bad8 = s.bad8 := rfl
@[simp] theorem State.checkout_cxl (g : Gang) (late : Bool) : (s.checkout g late).cxl = s.cxl := rfl
@[simp] theorem State.checkout_posted (g : Gang) (late : Bool) : (s.checkout g late).posted = s.posted := rfl
@[simp] theorem State.checkout_tlb (g : Gang) (late : Bool) : (s.checkout g late).tlb = s.tlb := rfl
@[simp] theorem State.checkout_parts (g : Gang) (late : Bool) : (s.checkout g late).parts = s.parts := rfl
@[simp] theorem State.checkout_ctxs (g : Gang) (late : Bool) : (s.checkout g late).ctxs = s.ctxs := rfl
@[simp] theorem State.checkout_faults (g : Gang) (late : Bool) : (s.checkout g late).faults = s.faults := rfl
@[simp] theorem State.checkout_ctxFaults (g : Gang) (late : Bool) : (s.checkout g late).ctxFaults = s.ctxFaults := rfl
@[simp] theorem State.checkout_crews (g : Gang) (late : Bool) : (s.checkout g late).crews = s.crews := rfl
@[simp] theorem State.checkout_rollbacks (g : Gang) (late : Bool) : (s.checkout g late).rollbacks = s.rollbacks := rfl
@[simp] theorem State.checkout_cellSrc (g : Gang) (late : Bool) : (s.checkout g late).cellSrc = s.cellSrc := rfl
@[simp] theorem State.checkout_cmds (g : Gang) (late : Bool) : (s.checkout g late).cmds = s.cmds := rfl
@[simp] theorem State.checkout_spawns (g : Gang) (late : Bool) : (s.checkout g late).spawns = s.spawns := rfl
@[simp] theorem State.checkout_copies (g : Gang) (late : Bool) : (s.checkout g late).copies = s.copies := rfl
@[simp] theorem State.checkout_matrix (g : Gang) (late : Bool) : (s.checkout g late).matrix = s.matrix := rfl
@[simp] theorem State.checkout_tiles (g : Gang) (late : Bool) : (s.checkout g late).tiles = s.tiles := rfl
@[simp] theorem State.checkout_mqs (g : Gang) (late : Bool) : (s.checkout g late).mqs = s.mqs := rfl
@[simp] theorem State.checkout_savedTiles (g : Gang) (late : Bool) : (s.checkout g late).savedTiles = s.savedTiles := rfl
@[simp] theorem State.checkout_rays (g : Gang) (late : Bool) : (s.checkout g late).rays = s.rays := rfl
@[simp] theorem State.checkout_marches (g : Gang) (late : Bool) : (s.checkout g late).marches = s.marches := rfl
@[simp] theorem State.checkout_footprints (g : Gang) (late : Bool) : (s.checkout g late).footprints = s.footprints := rfl
@[simp] theorem State.checkout_larder (g : Gang) (late : Bool) : (s.checkout g late).larder = s.larder := rfl
@[simp] theorem State.checkout_colls (g : Gang) (late : Bool) : (s.checkout g late).colls = s.colls := rfl
@[simp] theorem State.checkout_puts (g : Gang) (late : Bool) : (s.checkout g late).puts = s.puts := rfl
@[simp] theorem State.checkout_gets (g : Gang) (late : Bool) : (s.checkout g late).gets = s.gets := rfl
@[simp] theorem State.checkout_queries (g : Gang) (late : Bool) : (s.checkout g late).queries = s.queries := rfl
@[simp] theorem State.checkout_launches (g : Gang) (late : Bool) : (s.checkout g late).launches = s.launches := rfl
@[simp] theorem State.checkout_waiting (g : Gang) (late : Bool) : (s.checkout g late).waiting = s.waiting := rfl
@[simp] theorem State.checkout_signals (g : Gang) (late : Bool) : (s.checkout g late).signals = s.signals := rfl
@[simp] theorem State.checkout_host (g : Gang) (late : Bool) : (s.checkout g late).host = s.host := rfl
@[simp] theorem State.checkout_msix (g : Gang) (late : Bool) : (s.checkout g late).msix = s.msix := rfl
@[simp] theorem State.checkout_trig (g : Gang) (late : Bool) : (s.checkout g late).trig = s.trig := rfl
@[simp] theorem State.checkout_pageUse (g : Gang) (late : Bool) : (s.checkout g late).pageUse = s.pageUse := rfl
@[simp] theorem State.checkout_jobs (g : Gang) (late : Bool) : (s.checkout g late).jobs = s.jobs := rfl
@[simp] theorem State.checkout_device (g : Gang) (late : Bool) : (s.checkout g late).device = s.device := rfl
@[simp] theorem State.checkout_dump (g : Gang) (late : Bool) : (s.checkout g late).dump = s.dump := rfl

/-! ### putGang -/

@[simp] theorem State.putGang_cycle (g : Gang) : (s.putGang g).cycle = s.cycle := rfl
@[simp] theorem State.putGang_agenda (g : Gang) : (s.putGang g).agenda = s.agenda := rfl
@[simp] theorem State.putGang_free (g : Gang) : (s.putGang g).free = s.free := rfl
@[simp] theorem State.putGang_late (g : Gang) : (s.putGang g).late = s.late := rfl
@[simp] theorem State.putGang_turn (g : Gang) : (s.putGang g).turn = s.turn := rfl
@[simp] theorem State.putGang_nextId (g : Gang) : (s.putGang g).nextId = s.nextId := rfl
@[simp] theorem State.putGang_cur (g : Gang) : (s.putGang g).cur = s.cur := rfl
@[simp] theorem State.putGang_performed (g : Gang) : (s.putGang g).performed = s.performed := rfl
@[simp] theorem State.putGang_gangs (g : Gang) : (s.putGang g).gangs = updFirst (fun h => h.gid == g.gid) (fun _ => g) s.gangs := rfl
@[simp] theorem State.putGang_quads (g : Gang) : (s.putGang g).quads = s.quads := rfl
@[simp] theorem State.putGang_cores (g : Gang) : (s.putGang g).cores = s.cores := rfl
@[simp] theorem State.putGang_l2 (g : Gang) : (s.putGang g).l2 = s.l2 := rfl
@[simp] theorem State.putGang_mem (g : Gang) : (s.putGang g).mem = s.mem := rfl
@[simp] theorem State.putGang_writes (g : Gang) : (s.putGang g).writes = s.writes := rfl
@[simp] theorem State.putGang_bad (g : Gang) : (s.putGang g).bad = s.bad := rfl
@[simp] theorem State.putGang_bad8 (g : Gang) : (s.putGang g).bad8 = s.bad8 := rfl
@[simp] theorem State.putGang_cxl (g : Gang) : (s.putGang g).cxl = s.cxl := rfl
@[simp] theorem State.putGang_posted (g : Gang) : (s.putGang g).posted = s.posted := rfl
@[simp] theorem State.putGang_tlb (g : Gang) : (s.putGang g).tlb = s.tlb := rfl
@[simp] theorem State.putGang_parts (g : Gang) : (s.putGang g).parts = s.parts := rfl
@[simp] theorem State.putGang_ctxs (g : Gang) : (s.putGang g).ctxs = s.ctxs := rfl
@[simp] theorem State.putGang_faults (g : Gang) : (s.putGang g).faults = s.faults := rfl
@[simp] theorem State.putGang_ctxFaults (g : Gang) : (s.putGang g).ctxFaults = s.ctxFaults := rfl
@[simp] theorem State.putGang_crews (g : Gang) : (s.putGang g).crews = s.crews := rfl
@[simp] theorem State.putGang_rollbacks (g : Gang) : (s.putGang g).rollbacks = s.rollbacks := rfl
@[simp] theorem State.putGang_cellSrc (g : Gang) : (s.putGang g).cellSrc = s.cellSrc := rfl
@[simp] theorem State.putGang_cmds (g : Gang) : (s.putGang g).cmds = s.cmds := rfl
@[simp] theorem State.putGang_spawns (g : Gang) : (s.putGang g).spawns = s.spawns := rfl
@[simp] theorem State.putGang_copies (g : Gang) : (s.putGang g).copies = s.copies := rfl
@[simp] theorem State.putGang_matrix (g : Gang) : (s.putGang g).matrix = s.matrix := rfl
@[simp] theorem State.putGang_tiles (g : Gang) : (s.putGang g).tiles = s.tiles := rfl
@[simp] theorem State.putGang_mqs (g : Gang) : (s.putGang g).mqs = s.mqs := rfl
@[simp] theorem State.putGang_savedTiles (g : Gang) : (s.putGang g).savedTiles = s.savedTiles := rfl
@[simp] theorem State.putGang_rays (g : Gang) : (s.putGang g).rays = s.rays := rfl
@[simp] theorem State.putGang_marches (g : Gang) : (s.putGang g).marches = s.marches := rfl
@[simp] theorem State.putGang_footprints (g : Gang) : (s.putGang g).footprints = s.footprints := rfl
@[simp] theorem State.putGang_larder (g : Gang) : (s.putGang g).larder = s.larder := rfl
@[simp] theorem State.putGang_colls (g : Gang) : (s.putGang g).colls = s.colls := rfl
@[simp] theorem State.putGang_puts (g : Gang) : (s.putGang g).puts = s.puts := rfl
@[simp] theorem State.putGang_gets (g : Gang) : (s.putGang g).gets = s.gets := rfl
@[simp] theorem State.putGang_queries (g : Gang) : (s.putGang g).queries = s.queries := rfl
@[simp] theorem State.putGang_launches (g : Gang) : (s.putGang g).launches = s.launches := rfl
@[simp] theorem State.putGang_waiting (g : Gang) : (s.putGang g).waiting = s.waiting := rfl
@[simp] theorem State.putGang_signals (g : Gang) : (s.putGang g).signals = s.signals := rfl
@[simp] theorem State.putGang_host (g : Gang) : (s.putGang g).host = s.host := rfl
@[simp] theorem State.putGang_msix (g : Gang) : (s.putGang g).msix = s.msix := rfl
@[simp] theorem State.putGang_trig (g : Gang) : (s.putGang g).trig = s.trig := rfl
@[simp] theorem State.putGang_pageUse (g : Gang) : (s.putGang g).pageUse = s.pageUse := rfl
@[simp] theorem State.putGang_jobs (g : Gang) : (s.putGang g).jobs = s.jobs := rfl
@[simp] theorem State.putGang_device (g : Gang) : (s.putGang g).device = s.device := rfl
@[simp] theorem State.putGang_dump (g : Gang) : (s.putGang g).dump = s.dump := rfl

/-! ### writeHome -/

@[simp] theorem State.writeHome_cycle (pa : Nat) (bs : List Byte) : (s.writeHome pa bs).cycle = s.cycle := rfl
@[simp] theorem State.writeHome_agenda (pa : Nat) (bs : List Byte) : (s.writeHome pa bs).agenda = s.agenda := rfl
@[simp] theorem State.writeHome_free (pa : Nat) (bs : List Byte) : (s.writeHome pa bs).free = s.free := rfl
@[simp] theorem State.writeHome_late (pa : Nat) (bs : List Byte) : (s.writeHome pa bs).late = s.late := rfl
@[simp] theorem State.writeHome_turn (pa : Nat) (bs : List Byte) : (s.writeHome pa bs).turn = s.turn := rfl
@[simp] theorem State.writeHome_nextId (pa : Nat) (bs : List Byte) : (s.writeHome pa bs).nextId = s.nextId := rfl
@[simp] theorem State.writeHome_cur (pa : Nat) (bs : List Byte) : (s.writeHome pa bs).cur = s.cur := rfl
@[simp] theorem State.writeHome_performed (pa : Nat) (bs : List Byte) : (s.writeHome pa bs).performed = s.performed := rfl
@[simp] theorem State.writeHome_gangs (pa : Nat) (bs : List Byte) : (s.writeHome pa bs).gangs = s.gangs := rfl
@[simp] theorem State.writeHome_quads (pa : Nat) (bs : List Byte) : (s.writeHome pa bs).quads = s.quads := rfl
@[simp] theorem State.writeHome_cores (pa : Nat) (bs : List Byte) : (s.writeHome pa bs).cores = s.cores := rfl
@[simp] theorem State.writeHome_l2 (pa : Nat) (bs : List Byte) : (s.writeHome pa bs).l2 = s.l2 := rfl
@[simp] theorem State.writeHome_mem (pa : Nat) (bs : List Byte) : (s.writeHome pa bs).mem = Map.setMany unlisted s.mem pa bs := rfl
@[simp] theorem State.writeHome_writes (pa : Nat) (bs : List Byte) : (s.writeHome pa bs).writes = s.writes + 1 := rfl
@[simp] theorem State.writeHome_bad (pa : Nat) (bs : List Byte) : (s.writeHome pa bs).bad = clearCovered 32 pa bs.length s.bad := rfl
@[simp] theorem State.writeHome_bad8 (pa : Nat) (bs : List Byte) : (s.writeHome pa bs).bad8 = clearCovered 8 pa bs.length s.bad8 := rfl
@[simp] theorem State.writeHome_cxl (pa : Nat) (bs : List Byte) : (s.writeHome pa bs).cxl = s.cxl := rfl
@[simp] theorem State.writeHome_posted (pa : Nat) (bs : List Byte) : (s.writeHome pa bs).posted = s.posted := rfl
@[simp] theorem State.writeHome_tlb (pa : Nat) (bs : List Byte) : (s.writeHome pa bs).tlb = s.tlb := rfl
@[simp] theorem State.writeHome_parts (pa : Nat) (bs : List Byte) : (s.writeHome pa bs).parts = s.parts := rfl
@[simp] theorem State.writeHome_ctxs (pa : Nat) (bs : List Byte) : (s.writeHome pa bs).ctxs = s.ctxs := rfl
@[simp] theorem State.writeHome_faults (pa : Nat) (bs : List Byte) : (s.writeHome pa bs).faults = s.faults := rfl
@[simp] theorem State.writeHome_ctxFaults (pa : Nat) (bs : List Byte) : (s.writeHome pa bs).ctxFaults = s.ctxFaults := rfl
@[simp] theorem State.writeHome_crews (pa : Nat) (bs : List Byte) : (s.writeHome pa bs).crews = s.crews := rfl
@[simp] theorem State.writeHome_rollbacks (pa : Nat) (bs : List Byte) : (s.writeHome pa bs).rollbacks = s.rollbacks := rfl
@[simp] theorem State.writeHome_cellSrc (pa : Nat) (bs : List Byte) : (s.writeHome pa bs).cellSrc = s.cellSrc := rfl
@[simp] theorem State.writeHome_cmds (pa : Nat) (bs : List Byte) : (s.writeHome pa bs).cmds = s.cmds := rfl
@[simp] theorem State.writeHome_spawns (pa : Nat) (bs : List Byte) : (s.writeHome pa bs).spawns = s.spawns := rfl
@[simp] theorem State.writeHome_copies (pa : Nat) (bs : List Byte) : (s.writeHome pa bs).copies = s.copies := rfl
@[simp] theorem State.writeHome_matrix (pa : Nat) (bs : List Byte) : (s.writeHome pa bs).matrix = s.matrix := rfl
@[simp] theorem State.writeHome_tiles (pa : Nat) (bs : List Byte) : (s.writeHome pa bs).tiles = s.tiles := rfl
@[simp] theorem State.writeHome_mqs (pa : Nat) (bs : List Byte) : (s.writeHome pa bs).mqs = s.mqs := rfl
@[simp] theorem State.writeHome_savedTiles (pa : Nat) (bs : List Byte) : (s.writeHome pa bs).savedTiles = s.savedTiles := rfl
@[simp] theorem State.writeHome_rays (pa : Nat) (bs : List Byte) : (s.writeHome pa bs).rays = s.rays := rfl
@[simp] theorem State.writeHome_marches (pa : Nat) (bs : List Byte) : (s.writeHome pa bs).marches = s.marches := rfl
@[simp] theorem State.writeHome_footprints (pa : Nat) (bs : List Byte) : (s.writeHome pa bs).footprints = s.footprints := rfl
@[simp] theorem State.writeHome_larder (pa : Nat) (bs : List Byte) : (s.writeHome pa bs).larder = s.larder := rfl
@[simp] theorem State.writeHome_colls (pa : Nat) (bs : List Byte) : (s.writeHome pa bs).colls = s.colls := rfl
@[simp] theorem State.writeHome_puts (pa : Nat) (bs : List Byte) : (s.writeHome pa bs).puts = s.puts := rfl
@[simp] theorem State.writeHome_gets (pa : Nat) (bs : List Byte) : (s.writeHome pa bs).gets = s.gets := rfl
@[simp] theorem State.writeHome_queries (pa : Nat) (bs : List Byte) : (s.writeHome pa bs).queries = s.queries := rfl
@[simp] theorem State.writeHome_launches (pa : Nat) (bs : List Byte) : (s.writeHome pa bs).launches = s.launches := rfl
@[simp] theorem State.writeHome_waiting (pa : Nat) (bs : List Byte) : (s.writeHome pa bs).waiting = s.waiting := rfl
@[simp] theorem State.writeHome_signals (pa : Nat) (bs : List Byte) : (s.writeHome pa bs).signals = s.signals := rfl
@[simp] theorem State.writeHome_host (pa : Nat) (bs : List Byte) : (s.writeHome pa bs).host = s.host := rfl
@[simp] theorem State.writeHome_msix (pa : Nat) (bs : List Byte) : (s.writeHome pa bs).msix = s.msix := rfl
@[simp] theorem State.writeHome_trig (pa : Nat) (bs : List Byte) : (s.writeHome pa bs).trig = s.trig := rfl
@[simp] theorem State.writeHome_pageUse (pa : Nat) (bs : List Byte) : (s.writeHome pa bs).pageUse = s.pageUse := rfl
@[simp] theorem State.writeHome_jobs (pa : Nat) (bs : List Byte) : (s.writeHome pa bs).jobs = s.jobs := rfl
@[simp] theorem State.writeHome_device (pa : Nat) (bs : List Byte) : (s.writeHome pa bs).device = s.device := rfl
@[simp] theorem State.writeHome_dump (pa : Nat) (bs : List Byte) : (s.writeHome pa bs).dump = s.dump := rfl

/-! ### Updates of one table -/

theorem State.setEngine_frame (e : Nat) (x : Matrix) : s.setEngine e x = { s with matrix := (s.setEngine e x).matrix } := rfl
theorem State.setTile_frame (id : Nat) (f : TileRun → TileRun) : s.setTile id f = { s with tiles := (s.setTile id f).tiles } := rfl
theorem State.setCopy_frame (id : Nat) (f : CopyRun → CopyRun) : s.setCopy id f = { s with copies := (s.setCopy id f).copies } := rfl
theorem State.setRay_frame (r : Ray) : s.setRay r = { s with rays := (s.setRay r).rays } := rfl
theorem State.setMarch_frame (id : Nat) (f : March → March) : s.setMarch id f = { s with marches := (s.setMarch id f).marches } := rfl
theorem State.setLarderOp_frame (id : Nat) (f : LarderOp → LarderOp) : s.setLarderOp id f = { s with larder := (s.setLarderOp id f).larder } := rfl
theorem State.setColl_frame (id : Nat) (f : CollRun → CollRun) : s.setColl id f = { s with colls := (s.setColl id f).colls } := rfl
theorem State.setPut_frame (id : Nat) (f : PutRun → PutRun) : s.setPut id f = { s with puts := (s.setPut id f).puts } := rfl
theorem State.setGet_frame (id : Nat) (f : GetRun → GetRun) : s.setGet id f = { s with gets := (s.setGet id f).gets } := rfl
theorem State.setLaunch_frame (l : Nat) (f : Launch → Launch) : s.setLaunch l f = { s with launches := (s.setLaunch l f).launches } := rfl
theorem State.setFault_frame (tok : Nat) (f : FaultRec → FaultRec) : s.setFault tok f = { s with faults := (s.setFault tok f).faults } := rfl
theorem State.setJob_frame (id : Nat) (f : Job → Job) : s.setJob id f = { s with jobs := (s.setJob id f).jobs } := rfl
theorem State.setSlot_frame (p v : Nat) (x : Slot) : s.setSlot p v x = { s with parts := (s.setSlot p v x).parts } := rfl
theorem State.setComm_frame (p k : Nat) (c : Comm) : s.setComm p k c = { s with parts := (s.setComm p k c).parts } := rfl
theorem State.setBarrier_frame (k id : Nat) (b : Barrier) : s.setBarrier k id b = { s with cores := (s.setBarrier k id b).cores } := rfl

/-! ### Reading back what was set -/

@[simp] theorem State.quad_setQuad (q k : Nat) (x : Quad) : (s.setQuad q x).quad k = if k = q then x else s.quad k := by
  simp [State.quad]
@[simp] theorem State.core_setCore (c k : Nat) (x : Core) : (s.setCore c x).core k = if k = c then x else s.core k := by
  simp [State.core]
@[simp] theorem State.slice_setSlice (g k : Nat) (x : L2) : (s.setSlice g x).slice k = if k = g then x else s.slice k := by
  simp [State.slice]
@[simp] theorem State.part_setPart (p k : Nat) (x : Part) : (s.setPart p x).part k = if k = p then x else s.part k := by
  simp [State.part]
@[simp] theorem State.reg_setReg (p off k off' : Nat) (v : Word64) :
    (s.setReg p off v).reg k off' = if k = p ∧ off' = off then v else s.reg k off' := by
  simp only [State.reg, State.setReg, State.part_setPart]
  by_cases h : k = p
  · subst h; simp
  · simp [h]

end Sys2Proof.Machine
end

