-- ==== Sys2Proof/Laws/Memory.lean ====
section
/-! SUPPORT. What each shared operation over memory does to the bytes at home, and that each keeps the canonical form of memory. -/

namespace Sys2Proof.Machine

/-- A fold keeps what each of its steps keeps. -/
theorem foldl_keeps {α β : Type} {P : β → Prop} {f : β → α → β} (h : ∀ b a, P b → P (f b a)) (l : List α) {b : β} (hb : P b) :
    P (l.foldl f b) := by
  induction l generalizing b with
  | nil => exact hb
  | cons a l ih => exact ih (h b a hb)

/-- A fold keeps what each of its steps on an element of the list keeps. -/
theorem foldl_keeps_mem {α β : Type} {P : β → Prop} {f : β → α → β} (l : List α) (h : ∀ b, ∀ a ∈ l, P b → P (f b a)) {b : β} (hb : P b) :
    P (l.foldl f b) := by
  induction l generalizing b with
  | nil => exact hb
  | cons a l ih => exact ih (fun b x hx => h b x (List.mem_cons_of_mem _ hx)) (h b a List.mem_cons_self hb)

/-- A fold whose steps leave a view of the state as it is leaves it as it is. -/
theorem foldl_same {α β γ : Type} (v : β → γ) {f : β → α → β} (h : ∀ b a, v (f b a) = v b) (l : List α) (b : β) : v (l.foldl f b) = v b :=
  foldl_keeps (P := fun x => v x = v b) (fun _ _ hb => (h _ _).trans hb) l rfl

/-! ## Bytes at home -/

theorem reset_wf : Memory.wf State.reset.mem = true := rfl

/-- A write at home changes the bytes of its range and no other. -/
theorem State.byteAt_writeHome (s : State) (pa : Nat) (bs : List Byte) (a : Nat) :
    (s.writeHome pa bs).byteAt a = if pa ≤ a ∧ a < pa + bs.length then bs.getD (a - pa) 0 else s.byteAt a := by
  show Map.get unlisted (Map.setMany unlisted s.mem pa bs) a = _
  rw [Map.get_setMany]; rfl

theorem State.writeHome_wf {s : State} (h : Memory.wf s.mem = true) (pa : Nat) (bs : List Byte) : Memory.wf (s.writeHome pa bs).mem = true :=
  Map.wf_setMany unlisted bs h pa

/-- Writing runs of bytes at home keeps the canonical form. -/
theorem State.writeRuns_wf {s : State} (h : Memory.wf s.mem = true) (bs : List (Nat × Byte)) : Memory.wf (s.writeRuns bs).mem = true :=
  foldl_keeps (P := fun s : State => Memory.wf s.mem = true) (fun _ _ ht => State.writeHome_wf ht _ _) _ h

/-- Zeroing a range at home. -/
theorem State.zeroRange_wf {s : State} (h : Memory.wf s.mem = true) (pa n : Nat) : Memory.wf (s.zeroRange pa n).mem = true :=
  Map.wf_filter unlisted h _

/-- A move of bytes at home puts the bytes that a range lists into another, which has been zeroed. -/
theorem State.copyHome_wf {s : State} (h : Memory.wf s.mem = true) (src dst n : Nat) : Memory.wf (s.copyHome src dst n).mem = true := by
  refine foldl_keeps_mem (P := fun m => Map.wf unlisted m = true) _ (fun m e he hm => ?_) (s.zeroRange_wf h dst n)
  exact Map.wf_put unlisted hm _ (Map.wf_ne unlisted h (List.mem_filter.mp he).1)

/-! ## L1 and L2 -/

@[simp] theorem State.touchHome_mem (s : State) (pa : Nat) : (s.touchHome pa).mem = s.mem := by
  simp only [State.touchHome]; split <;> rfl

@[simp] theorem State.touchVertex_mem (s : State) (group pa : Nat) : (s.touchVertex group pa).mem = s.mem := by
  simp only [State.touchVertex]; split <;> rfl

@[simp] theorem State.sliceWord_mem (s : State) (g pa : Nat) : (s.sliceWord g pa).2.mem = s.mem := by
  simp only [State.sliceWord]
  split
  · simp
  · split
    · rfl
    · simp only [State.touchHome_mem]; split <;> rfl

@[simp] theorem State.wholeUnit_mem (s : State) (g pa : Nat) : (s.wholeUnit g pa).mem = s.mem := by
  simp only [State.wholeUnit]; split <;> rfl

@[simp] theorem State.fillLine_mem (s : State) (core key : Nat) (l : Line) (ws : List Nat) : (s.fillLine core key l ws).2.mem = s.mem := by
  unfold State.fillLine
  exact foldl_same (fun (p : Line × State) => p.2.mem) (by intros; simp) ws _

@[simp] theorem State.readL1Line_mem (s : State) (core pa n : Nat) (ro unit : Bool) : (s.readL1Line core pa n ro unit).2.2.mem = s.mem := by
  simp only [State.readL1Line, apply_ite State.mem, State.setCore_mem, State.fillLine_mem, State.wholeUnit_mem, ite_self]

/-- A load through the L1 changes no byte at home. -/
@[simp] theorem State.readL1_mem (s : State) (core pa n : Nat) (ro unit : Bool) : (s.readL1 core pa n ro unit).2.2.mem = s.mem :=
  foldl_same (fun (p : List Byte × Bool × State) => p.2.2.mem) (by intros; simp) _ ([], false, s)

/-- A read of an access's bytes, wherever they lie, changes no byte at home. -/
@[simp] theorem State.readAt_mem (s : State) (core : Nat) (w : Where) (n : Nat) : (s.readAt core w n).2.2.mem = s.mem := by
  cases w <;> simp [State.readAt, State.readPlace]

@[simp] theorem State.codeWord_mem (s : State) (g pa floor : Nat) : (s.codeWord g pa floor).2.2.mem = s.mem := by
  simp only [State.codeWord, State.sliceWord_mem]; split <;> rfl

@[simp] theorem State.codeLine_mem (s : State) (g key floor : Nat) : (s.codeLine g key floor).2.mem = s.mem :=
  foldl_same (fun (p : CodeLine × State) => p.2.mem) (by intros; simp) _ _

@[simp] theorem State.fillCode_mem (s : State) (core key floor : Nat) : (s.fillCode core key floor).2.mem = s.mem := by
  unfold State.fillCode
  dsimp only
  split
  · rfl
  · split
    · rw [State.setCore_mem, State.codeLine_mem]
    · rw [State.codeLine_mem]

/-- A fetch changes no byte at home. -/
@[simp] theorem State.fetchParcel_mem (s : State) (core pa floor : Nat) : (s.fetchParcel core pa floor).2.2.mem = s.mem := by
  simp [State.fetchParcel]

/-- A write-back writes dirty bytes home. -/
theorem State.writeBackLine_wf {s : State} (h : Memory.wf s.mem = true) (core key b n : Nat) :
    Memory.wf (s.writeBackLine core key b n).mem = true := by
  unfold State.writeBackLine
  dsimp only
  split
  · exact h
  · split
    · exact h
    · rw [State.setCore_mem, foldl_same State.mem (by intros; rfl)]
      exact State.writeRuns_wf h _

theorem State.writeBackAll_wf {s : State} (h : Memory.wf s.mem = true) (core : Nat) : Memory.wf (s.writeBackAll core).mem = true :=
  foldl_keeps (P := fun s : State => Memory.wf s.mem = true) (fun _ _ ht => State.writeBackLine_wf ht _ _ _ _) _ h

theorem State.writeBackRange_wf {s : State} (h : Memory.wf s.mem = true) (core pa n : Nat) :
    Memory.wf (s.writeBackRange core pa n).mem = true :=
  foldl_keeps (P := fun s : State => Memory.wf s.mem = true) (fun _ _ ht => State.writeBackLine_wf ht _ _ _ _) _ h

theorem State.evictLine_wf {s : State} (h : Memory.wf s.mem = true) (core key : Nat) : Memory.wf (s.evictLine core key).mem = true := by
  unfold State.evictLine
  split
  · split
    · exact h
    · exact State.writeBackLine_wf h _ _ _ _
  · exact h

/-- A store of one line keeps the canonical form; with room in the L1 it changes no byte at home. -/
theorem State.writeL1Line_wf {s : State} (h : Memory.wf s.mem = true) (core key b : Nat) (bs : List Byte) (held : Bool) :
    Memory.wf (s.writeL1Line core key b bs held).mem = true := by
  unfold State.writeL1Line
  dsimp only
  split
  · rw [State.setCore_mem]
    split
    · exact h
    · split
      · exact State.evictLine_wf h _ _
      · exact h
  · refine State.evictLine_wf ?_ _ _
    rw [State.setCore_mem]
    split
    · exact h
    · split
      · exact State.evictLine_wf h _ _
      · exact h

theorem State.writeL1Line_mem {s : State} {core key : Nat} (h : s.l1Room core key = true) (b : Nat) (bs : List Byte) (held : Bool) :
    (s.writeL1Line core key b bs held).mem = s.mem := by
  simp [State.writeL1Line, h]

/-- A store through the L1 keeps the canonical form. -/
theorem State.writeL1_wf {s : State} (h : Memory.wf s.mem = true) (core pa : Nat) (bs : List Byte) (held : Bool) :
    Memory.wf (s.writeL1 core pa bs held).mem = true :=
  foldl_keeps (P := fun s : State => Memory.wf s.mem = true) (fun _ _ ht => State.writeL1Line_wf ht _ _ _ _ _) _ h

theorem State.shrinkL1_wf {s : State} (h : Memory.wf s.mem = true) (core n : Nat) : Memory.wf (s.shrinkL1 core n).mem = true := by
  induction n generalizing s with
  | zero => exact h
  | succ n ih =>
    unfold State.shrinkL1
    split
    · exact h
    · dsimp only
      split
      · exact ih (State.evictLine_wf h _ _)
      · exact h

@[simp] theorem State.invalidateRange_mem (s : State) (core pa n : Nat) (keep : Bool) : (s.invalidateRange core pa n keep).mem = s.mem :=
  foldl_same State.mem (by intro t q; dsimp only; split <;> rfl) _ s

@[simp] theorem State.reconcileDest_mem (s : State) (core span : Nat) : (s.reconcileDest core span).mem = s.mem := by
  simp only [State.reconcileDest]; split <;> split <;> rfl

/-- The source's side of an edge writes the core's dirty bytes home, from span K on. -/
theorem State.reconcileSource_wf {s : State} (h : Memory.wf s.mem = true) (core span : Nat) :
    Memory.wf (s.reconcileSource core span).mem = true := by
  unfold State.reconcileSource; split
  · exact h
  · exact State.writeBackAll_wf h core

/-! ## Posted stores and deferred loads -/

theorem State.performPosted_wf {s : State} (h : Memory.wf s.mem = true) (p : Posted → Bool) : Memory.wf (s.performPosted p).mem = true :=
  foldl_keeps (P := fun s : State => Memory.wf s.mem = true) (fun _ _ ht => State.writeHome_wf ht _ _) _ h

theorem State.drain_wf {s : State} (h : Memory.wf s.mem = true) (gid : Nat) : Memory.wf (s.drain gid).mem = true :=
  State.performPosted_wf h _

theorem State.performBefore_wf {s : State} (h : Memory.wf s.mem = true) (p : Posted → Bool) (addr n : Nat) :
    Memory.wf (s.performBefore p addr n).mem = true :=
  foldl_keeps (P := fun s : State => Memory.wf s.mem = true) (fun _ _ ht => State.writeHome_wf ht _ _) _ h

/-- What a gang has posted to the bytes of an access is performed before it. -/
theorem State.orderPosted_wf {s : State} (h : Memory.wf s.mem = true) (g : Gang) (w : Where) (n : Nat) :
    Memory.wf (s.orderPosted g w n).mem = true := by
  cases w
  · exact State.performBefore_wf h _ _ _
  · exact State.performBefore_wf h _ _ _
  · exact h

@[simp] theorem State.performLoad_mem (s : State) (core : Nat) (sl : Slice) (p : Pending) (d : Deferred) :
    (s.performLoad core sl p d).2.mem = s.mem := by simp [State.performLoad]

@[simp] theorem State.performLoads_mem (s : State) (core : Nat) (sl : Slice) (test : Pending → Bool) :
    (s.performLoads core sl test).2.mem = s.mem :=
  foldl_same (fun (p : Slice × State) => p.2.mem) (by intro q p; split
                                                      · split <;> simp
                                                      · rfl) _ (sl, s)

@[simp] theorem State.performWord_mem (s : State) (g : Gang) (n : Nat) : (s.performWord g n).2.mem = s.mem :=
  foldl_same (fun (p : List Slice × State) => p.2.mem) (by intros; simp) _ ([], s)

/-- Deferred loads of any words of a gang change no byte at home. -/
@[simp] theorem State.performWords_mem (s : State) (g : Gang) (ns : List Nat) : (s.performWords g ns).2.mem = s.mem :=
  foldl_same (fun (p : Gang × State) => p.2.mem) (by intros; simp) ns (g, s)

/-! ## Cells, the Larder and waiters -/

theorem State.releaseCell_wf {s : State} (h : Memory.wf s.mem = true) (pa : Nat) : Memory.wf (s.releaseCell pa).mem = true := by
  unfold State.releaseCell
  split
  · exact h
  · dsimp only
    split
    · exact State.writeHome_wf h _ _
    · exact h

theorem State.signalCell_wf {s : State} (h : Memory.wf s.mem = true) (pa : Nat) (n : Int) (code : Nat) (narrow : Bool) (src : Src) :
    Memory.wf (s.signalCell pa n code narrow src).mem = true := by
  unfold State.signalCell
  dsimp only
  apply State.releaseCell_wf
  rw [State.writeHome_mem]
  exact Map.wf_setMany unlisted _ h _

theorem State.initCell_wf {s : State} (h : Memory.wf s.mem = true) (pa : Nat) (count : BitVec 32) : Memory.wf (s.initCell pa count).mem = true :=
  State.writeHome_wf (State.writeHome_wf h _ _) _ _

theorem State.markWaiter_wf {s : State} (h : Memory.wf s.mem = true) (pa : Nat) : Memory.wf (s.markWaiter pa).mem = true :=
  State.writeHome_wf h _ _

theorem State.clearWaiters_wf {s : State} (h : Memory.wf s.mem = true) (before : List Nat) : Memory.wf (s.clearWaiters before).mem = true :=
  foldl_keeps (P := fun s : State => Memory.wf s.mem = true) (fun _ _ ht => State.writeHome_wf ht _ _) _ h

/-- Writing vertex words changes home memory as a home write of the same bytes does (21 R427). -/
@[simp] theorem State.writeVertices_mem (s : State) (pa : Nat) (bs : List Byte) :
    (s.writeVertices pa bs).mem = (s.writeHome pa bs).mem := by simp [State.writeVertices]

theorem State.writeLarder_wf {s : State} (h : Memory.wf s.mem = true) (part off : Nat) (bs : List Byte) :
    Memory.wf (s.writeLarder part off bs).mem = true := by
  unfold State.writeLarder
  split
  · exact h
  · simpa using State.writeHome_wf h _ _

theorem State.freePasses_wf {s : State} (h : Memory.wf s.mem = true) (part : Nat) : Memory.wf (s.freePasses part).mem = true := by
  unfold State.freePasses
  rw [State.setPart_mem]
  refine foldl_keeps (P := fun s : State => Memory.wf s.mem = true) (fun t p ht => ?_) _ h
  split
  · exact State.writeHome_wf ht _ _
  · exact ht

end Sys2Proof.Machine
end

