-- ==== Sys2Proof/Laws/Access.lean ====
section
/-! SUPPORT. What translation, the checks of an access, one part of a store or an atomic, and taking a trap can do to the machine. -/

namespace Sys2Proof.Machine

/-! ## Translation and checks -/

theorem State.useLeaf_frame (s : State) (ctx : Nat) (l : Leaf) (va : Nat) (n : Need) :
    (s.useLeaf ctx l va n).2 = { s with pageUse := (s.useLeaf ctx l va n).2.pageUse } := by
  simp only [State.useLeaf, State.notePage]
  split
  · split
    · split <;> rfl
    · rfl
  · rfl

/-- Translating an access caches a leaf and counts a use; nothing else changes. -/
theorem State.xlate_frame (s : State) (unit part ctx va : Nat) (n : Need) :
    (s.xlate unit part ctx va n).2 =
      { s with tlb := (s.xlate unit part ctx va n).2.tlb, pageUse := (s.xlate unit part ctx va n).2.pageUse } := by
  unfold State.xlate
  split
  · split
    · rw [State.useLeaf_frame]
    · rfl
  · split
    · rfl
    · rw [State.useLeaf_frame]

@[simp] theorem State.xlate_mem (s : State) (unit part ctx va : Nat) (n : Need) : (s.xlate unit part ctx va n).2.mem = s.mem := by
  rw [State.xlate_frame]

/-- The checks of a place change no more than translation does. -/
theorem State.resolvePlace_frame (s : State) (g : Gang) (user : Bool) (k : AccKind) (gen : Word64) (size : Nat) (p : Place) :
    (s.resolvePlace g user k gen size p).2 =
      { s with tlb := (s.resolvePlace g user k gen size p).2.tlb, pageUse := (s.resolvePlace g user k gen size p).2.pageUse } := by
  unfold State.resolvePlace
  cases p with
  | scratch off => cases k <;> rfl
  | virt va =>
    dsimp only
    have h := s.xlate_frame g.core g.part g.ctx va (k.need user)
    generalize s.xlate g.core g.part g.ctx va (k.need user) = q at h ⊢
    obtain ⟨x, s'⟩ := q
    cases x with
    | fault => exact h
    | denied => exact h
    | ok pa l =>
      dsimp only at h ⊢
      split
      · exact h
      · split <;> exact h

/-- All the checks of one address (06 R130) change no more than translation does. -/
theorem State.resolve_frame (s : State) (g : Gang) (sl : Slice) (k : AccKind) (a : Word64) (size : Nat) :
    (s.resolve g sl k a size).2 = { s with tlb := (s.resolve g sl k a size).2.tlb, pageUse := (s.resolve g sl k a size).2.pageUse } := by
  unfold State.resolve
  split
  · rfl
  · exact State.resolvePlace_frame s g _ k a size _

@[simp] theorem State.resolve_mem (s : State) (g : Gang) (sl : Slice) (k : AccKind) (a : Word64) (size : Nat) :
    (s.resolve g sl k a size).2.mem = s.mem := by rw [State.resolve_frame]

/-! ## Parts of stores and atomics -/

@[simp] theorem State.logGranule_mem (s : State) (crew : Option Nat) (core gr : Nat) : (s.logGranule crew core gr).mem = s.mem := by
  unfold State.logGranule
  split
  · rfl
  · split
    · rfl
    · split
      · rfl
      · split <;> rfl

@[simp] theorem State.writeScratchOf_mem (s : State) (crew : Option Nat) (core off : Nat) (bs : List Byte) :
    (s.writeScratchOf crew core off bs).mem = s.mem :=
  foldl_same State.mem (f := fun s gr => s.logGranule crew core gr) (by intros; simp) _ s

/-- One store part keeps the canonical form of memory. -/
theorem State.storePart_wf {s : State} (h : Memory.wf s.mem = true) (g : Gang) (sl : Slice) (a : Access) (bs : List Byte) :
    Memory.wf (s.storePart g sl a bs).2.mem = true := by
  have h1 := State.orderPosted_wf h g a.loc a.size
  unfold State.storePart
  generalize s.orderPosted g a.loc a.size = s1 at h1 ⊢
  dsimp only
  split
  · apply State.writeL1_wf
    split
    · exact State.writeBackRange_wf h1 _ _ _
    · exact h1
  · split
    · exact h1
    · split
      · exact h1
      · exact State.writeHome_wf h1 _ _
  · rw [State.writeScratchOf_mem]; exact h1

theorem State.prepareAtomic_wf {s : State} (h : Memory.wf s.mem = true) (core pa n : Nat) : Memory.wf (s.prepareAtomic core pa n).mem = true := by
  show Memory.wf ((s.writeBackRange core pa n).invalidateRange core pa n false).mem = true
  rw [State.invalidateRange_mem]
  exact State.writeBackRange_wf h _ _ _

/-- One atomic keeps the canonical form of memory. -/
theorem State.atomicAt_wf {s : State} (h : Memory.wf s.mem = true) (g : Gang) (sl : Slice) (a : Access) (op : Nat) (x cmp : Word64) :
    Memory.wf (s.atomicAt g sl a op x cmp).2.2.2.mem = true := by
  have h1 := State.orderPosted_wf h g a.loc a.size
  unfold State.atomicAt
  generalize s.orderPosted g a.loc a.size = s1 at h1 ⊢
  dsimp only
  split
  · dsimp only; rw [State.writeScratchOf_mem]; exact h1
  all_goals
    split
    · exact h1
    · exact State.writeHome_wf (State.prepareAtomic_wf h1 _ _ _) _ _

/-! ## Taking a trap -/

/-- What raising a trap can change: the gang checked out, the context faults and the rollbacks asked for. -/
theorem State.trapped_frame (s : State) (g : Gang) (t : Trap) :
    s.trapped g t =
      { s with cur := (s.trapped g t).cur, free := s.free + 1, ctxFaults := (s.trapped g t).ctxFaults, rollbacks := (s.trapped g t).rollbacks } := by
  have d : ∀ g t, s.deliver g t = { s with cur := (s.deliver g t).cur, ctxFaults := (s.deliver g t).ctxFaults } := by
    intro g t
    unfold State.deliver State.enterTrap
    split
    · rfl
    · split <;> rfl
  have r : s.raise g t =
      { s with cur := (s.raise g t).cur, ctxFaults := (s.raise g t).ctxFaults, rollbacks := (s.raise g t).rollbacks } := by
    unfold State.raise
    split
    · split
      · split
        · rw [d]
        · split <;> rfl
      · rw [d]
    · rw [d]
  unfold State.trapped
  rw [r]

@[simp] theorem State.trapped_mem (s : State) (g : Gang) (t : Trap) : (s.trapped g t).mem = s.mem := by rw [State.trapped_frame]

/-- Trap entry of a slice (10 R222) writes the trap registers and the mode, and no general register, lane or CSR beside. -/
theorem Slice.enterTrap_frame (sl : Slice) (t : Trap) :
    (sl.enterTrap t).scal = sl.scal ∧ (sl.enterTrap t).lane = sl.lane ∧ (sl.enterTrap t).masks = sl.masks ∧ (sl.enterTrap t).link = sl.link ∧
      (sl.enterTrap t).priv = true ∧ (sl.enterTrap t).ppriv = sl.priv ∧ (sl.enterTrap t).tepc = sl.pc ∧ (sl.enterTrap t).pc = sl.tvec :=
  ⟨rfl, rfl, rfl, rfl, rfl, rfl, rfl, rfl⟩

/-- Returning from a trap at once restores the mode, the pc and the region that entry saved. -/
theorem Slice.eret_enterTrap (sl : Slice) (t : Trap) :
    ((sl.enterTrap t).eret).priv = sl.priv ∧ ((sl.enterTrap t).eret).pc = sl.pc ∧ ((sl.enterTrap t).eret).regionpc = sl.regionpc ∧
      ((sl.enterTrap t).eret).lives = sl.lives ∧ ((sl.enterTrap t).eret).livev = sl.livev ∧ ((sl.enterTrap t).eret).snap = sl.snap ∧
      ((sl.enterTrap t).eret).unfin = sl.unfin := by
  simp [Slice.eret, Slice.enterTrap]

/-! ## Checks of several slices -/

/-- Where no slice that has its part to do is stopped by its tags, the checks are those of the accesses alone (06 R121, R130). -/
theorem State.checkSlices_tagFirst (s : State) (g : Gang) (tags : Slice → Option Trap) (check : State → Slice → Check × State)
    (h : ∀ sl ∈ g.slices, tags sl = none) : s.checkSlices g (tagFirst tags check) = s.checkSlices g check := by
  have key : ∀ (sls : List Slice), (∀ sl ∈ sls, tags sl = none) → ∀ p : List (Slice × Option Check) × State,
      sls.foldl (fun p sl => if sl.scalarDue then
          let (c, s') := tagFirst tags check p.2 sl
          (p.1 ++ [(sl, some c)], s') else (p.1 ++ [(sl, none)], p.2)) p =
        sls.foldl (fun p sl => if sl.scalarDue then
          let (c, s') := check p.2 sl
          (p.1 ++ [(sl, some c)], s') else (p.1 ++ [(sl, none)], p.2)) p := by
    intro sls
    induction sls with
    | nil => intro _ p; rfl
    | cons sl rest ih =>
      intro hs p
      have h0 : tags sl = none := hs sl (List.mem_cons_self)
      have h1 : ∀ x ∈ rest, tags x = none := fun x hx => hs x (List.mem_cons_of_mem _ hx)
      simp only [List.foldl_cons]
      rw [ih h1]
      simp only [tagFirst, h0]
  exact key g.slices h ([], s)

/-- A slice's tags stop it before its access is looked at. -/
theorem tagFirst_some {tags : Slice → Option Trap} {sl : Slice} {t : Trap} (h : tags sl = some t) (check : State → Slice → Check × State)
    (s : State) : tagFirst tags check s sl = (.trap t, s) := by
  simp only [tagFirst, h]

end Sys2Proof.Machine
end

