-- ==== Sys2Proof/Laws/PerInstr.lean ====
section
/-! SUPPORT. Laws with one lemma per constructor of Instr. -/

namespace Sys2Proof.Laws.FirstParcel

open Sys2Proof

/-- 03 R47: a narrow word is one parcel with bit 31 clear, a wide word three parcels of which the first has bit 31 set; a step of the
opcode table that is no word has no parcel. -/
def Statement (i : Instr) : Prop :=
  match encode i with
  | [] => i.isWord = false
  | [p] => i.isWord = true ∧ isWide p = false
  | [p, _, _] => i.isWord = true ∧ isWide p = true
  | _ => False

theorem of_wide {i : Instr} {op : BitVec 8} {o : Wide} (h : i.wide? = some (op, o)) : Statement i := by
  simp only [Statement, encode, h, Instr.isWord, Option.isSome, Bool.true_or, true_and]
  show BitVec.getLsbD (1#1 ++ BitVec.ofBool o.s ++ op ++ o.vd ++ o.va ++ o.vb ++ o.pm) 31 = true
  simp only [BitVec.getLsbD_append]
  simp

theorem of_narrow {i : Instr} {s : Bool} {op : BitVec 6} {b : BitVec 24} (h : i.wide? = none) (h' : i.narrow? = some (s, op, b)) : Statement i := by
  simp only [Statement, encode, h, h', Instr.isWord, Option.isSome, Bool.false_or, true_and]
  show BitVec.getLsbD (0#1 ++ BitVec.ofBool s ++ op ++ b) 31 = false
  simp only [BitVec.getLsbD_append]
  simp

theorem of_step {i : Instr} (h : i.wide? = none) (h' : i.narrow? = none) : Statement i := by
  simp [Statement, encode, h, h', Instr.isWord]

theorem nop (o : FormNS) : Statement (.nop o) := of_narrow rfl rfl
theorem yield (o : FormNS) : Statement (.yield o) := of_narrow rfl rfl
theorem fetchb (o : FormNS) : Statement (.fetchb o) := of_narrow rfl rfl
theorem regang (o : FormNS) : Statement (.regang o) := of_narrow rfl rfl
theorem exit (o : FormNS) : Statement (.exit o) := of_narrow rfl rfl
theorem trap (o : FormNS) : Statement (.trap o) := of_narrow rfl rfl
theorem brk (o : FormNS) : Statement (.brk o) := of_narrow rfl rfl
theorem eret (o : FormNS) : Statement (.eret o) := of_narrow rfl rfl
theorem chkerr (o : FormNS) : Statement (.chkerr o) := of_narrow rfl rfl
theorem trigger (o : FormNS) : Statement (.trigger o) := of_narrow rfl rfl
theorem guard (o : FormNS) : Statement (.guard o) := of_narrow rfl rfl
theorem resolve (o : FormNS) : Statement (.resolve o) := of_narrow rfl rfl
theorem add (o : FormNA) : Statement (.add o) := of_narrow rfl rfl
theorem sub (o : FormNA) : Statement (.sub o) := of_narrow rfl rfl
theorem mul (o : FormNA) : Statement (.mul o) := of_narrow rfl rfl
theorem mulh (o : FormNA) : Statement (.mulh o) := of_narrow rfl rfl
theorem mulhn (o : FormNA) : Statement (.mulhn o) := of_narrow rfl rfl
theorem div (o : FormNA) : Statement (.div o) := of_narrow rfl rfl
theorem divn (o : FormNA) : Statement (.divn o) := of_narrow rfl rfl
theorem rem (o : FormNA) : Statement (.rem o) := of_narrow rfl rfl
theorem remn (o : FormNA) : Statement (.remn o) := of_narrow rfl rfl
theorem and (o : FormNA) : Statement (.and o) := of_narrow rfl rfl
theorem or (o : FormNA) : Statement (.or o) := of_narrow rfl rfl
theorem xor (o : FormNA) : Statement (.xor o) := of_narrow rfl rfl
theorem andn (o : FormNA) : Statement (.andn o) := of_narrow rfl rfl
theorem shl (o : FormNA) : Statement (.shl o) := of_narrow rfl rfl
theorem shr (o : FormNA) : Statement (.shr o) := of_narrow rfl rfl
theorem sar (o : FormNA) : Statement (.sar o) := of_narrow rfl rfl
theorem rol (o : FormNA) : Statement (.rol o) := of_narrow rfl rfl
theorem min (o : FormNA) : Statement (.min o) := of_narrow rfl rfl
theorem minn (o : FormNA) : Statement (.minn o) := of_narrow rfl rfl
theorem max (o : FormNA) : Statement (.max o) := of_narrow rfl rfl
theorem maxn (o : FormNA) : Statement (.maxn o) := of_narrow rfl rfl
theorem slt (o : FormNA) : Statement (.slt o) := of_narrow rfl rfl
theorem sltn (o : FormNA) : Statement (.sltn o) := of_narrow rfl rfl
theorem seq (o : FormNA) : Statement (.seq o) := of_narrow rfl rfl
theorem clz (o : FormNA) : Statement (.clz o) := of_narrow rfl rfl
theorem ctz (o : FormNA) : Statement (.ctz o) := of_narrow rfl rfl
theorem popc (o : FormNA) : Statement (.popc o) := of_narrow rfl rfl
theorem brev (o : FormNA) : Statement (.brev o) := of_narrow rfl rfl
theorem sext (o : FormNA) : Statement (.sext o) := of_narrow rfl rfl
theorem zext (o : FormNA) : Statement (.zext o) := of_narrow rfl rfl
theorem lea (k : BitVec 2) (o : FormNA) : Statement (.lea k o) := of_narrow rfl rfl
theorem addi (o : FormNI) : Statement (.addi o) := of_narrow rfl rfl
theorem andi (o : FormNI) : Statement (.andi o) := of_narrow rfl rfl
theorem ori (o : FormNI) : Statement (.ori o) := of_narrow rfl rfl
theorem xori (o : FormNI) : Statement (.xori o) := of_narrow rfl rfl
theorem slti (o : FormNI) : Statement (.slti o) := of_narrow rfl rfl
theorem shi (o : FormNI) : Statement (.shi o) := of_narrow rfl rfl
theorem li (o : FormNL) : Statement (.li o) := of_narrow rfl rfl
theorem lsh (o : FormNL) : Statement (.lsh o) := of_narrow rfl rfl
theorem addpc (o : FormNL) : Statement (.addpc o) := of_narrow rfl rfl
theorem bext (o : FormNF) : Statement (.bext o) := of_narrow rfl rfl
theorem bins (o : FormNF) : Statement (.bins o) := of_narrow rfl rfl
theorem bextv (o : FormNR) : Statement (.bextv o) := of_narrow rfl rfl
theorem binsv (o : FormNR) : Statement (.binsv o) := of_narrow rfl rfl
theorem br (o : FormNB) : Statement (.br o) := of_narrow rfl rfl
theorem j (o : FormNJ) : Statement (.j o) := of_narrow rfl rfl
theorem call (o : FormNC) : Statement (.call o) := of_narrow rfl rfl
theorem callr (o : FormNC) : Statement (.callr o) := of_narrow rfl rfl
theorem ret (o : FormNJ) : Statement (.ret o) := of_narrow rfl rfl
theorem region (o : FormNJ) : Statement (.region o) := of_narrow rfl rfl
theorem ld (o : FormNM) : Statement (.ld o) := of_narrow rfl rfl
theorem st (o : FormNM) : Statement (.st o) := of_narrow rfl rfl
theorem amo (o : FormNR) : Statement (.amo o) := of_narrow rfl rfl
theorem ldx (o : FormNX) : Statement (.ldx o) := of_narrow rfl rfl
theorem stx (o : FormNX) : Statement (.stx o) := of_narrow rfl rfl
theorem cwb (o : FormNR) : Statement (.cwb o) := of_narrow rfl rfl
theorem cinv (o : FormNR) : Statement (.cinv o) := of_narrow rfl rfl
theorem icinv (o : FormNR) : Statement (.icinv o) := of_narrow rfl rfl
theorem spawn (o : FormNB) : Statement (.spawn o) := of_narrow rfl rfl
theorem await (o : FormNB) : Statement (.await o) := of_narrow rfl rfl
theorem signal (o : FormNR) : Statement (.signal o) := of_narrow rfl rfl
theorem cellinit (o : FormNR) : Statement (.cellinit o) := of_narrow rfl rfl
theorem cellrd (o : FormNR) : Statement (.cellrd o) := of_narrow rfl rfl
theorem emit (o : FormNR) : Statement (.emit o) := of_narrow rfl rfl
theorem barInit (o : FormBar) : Statement (.barInit o) := of_narrow rfl rfl
theorem barArrive (o : FormBar) : Statement (.barArrive o) := of_narrow rfl rfl
theorem barWait (o : FormBar) : Statement (.barWait o) := of_narrow rfl rfl
theorem barSync (o : FormBar) : Statement (.barSync o) := of_narrow rfl rfl
theorem csrr (o : FormNI) : Statement (.csrr o) := of_narrow rfl rfl
theorem csrw (o : FormNI) : Statement (.csrw o) := of_narrow rfl rfl
theorem segw (o : FormNR) : Statement (.segw o) := of_narrow rfl rfl
theorem tlbi (o : FormNR) : Statement (.tlbi o) := of_narrow rfl rfl
theorem vadd (o : Wide) : Statement (.vadd o) := of_wide rfl
theorem vsub (o : Wide) : Statement (.vsub o) := of_wide rfl
theorem vmul (o : Wide) : Statement (.vmul o) := of_wide rfl
theorem vmulh (o : Wide) : Statement (.vmulh o) := of_wide rfl
theorem vmad (o : Wide) : Statement (.vmad o) := of_wide rfl
theorem vand (o : Wide) : Statement (.vand o) := of_wide rfl
theorem vor (o : Wide) : Statement (.vor o) := of_wide rfl
theorem vxor (o : Wide) : Statement (.vxor o) := of_wide rfl
theorem vandn (o : Wide) : Statement (.vandn o) := of_wide rfl
theorem vshl (o : Wide) : Statement (.vshl o) := of_wide rfl
theorem vshr (o : Wide) : Statement (.vshr o) := of_wide rfl
theorem vsar (o : Wide) : Statement (.vsar o) := of_wide rfl
theorem vmin (o : Wide) : Statement (.vmin o) := of_wide rfl
theorem vmax (o : Wide) : Statement (.vmax o) := of_wide rfl
theorem vabsd (o : Wide) : Statement (.vabsd o) := of_wide rfl
theorem vclz (o : Wide) : Statement (.vclz o) := of_wide rfl
theorem vpopc (o : Wide) : Statement (.vpopc o) := of_wide rfl
theorem vbrev (o : Wide) : Statement (.vbrev o) := of_wide rfl
theorem vbext (o : Wide) : Statement (.vbext o) := of_wide rfl
theorem vbins (o : Wide) : Statement (.vbins o) := of_wide rfl
theorem vsel (o : Wide) : Statement (.vsel o) := of_wide rfl
theorem vcmp (o : Wide) : Statement (.vcmp o) := of_wide rfl
theorem vsat (o : Wide) : Statement (.vsat o) := of_wide rfl
theorem vcvti (o : Wide) : Statement (.vcvti o) := of_wide rfl
theorem vaddc (o : Wide) : Statement (.vaddc o) := of_wide rfl
theorem vdot4i (o : Wide) : Statement (.vdot4i o) := of_wide rfl
theorem vmovi (o : Wide) : Statement (.vmovi o) := of_wide rfl
theorem vlane (o : Wide) : Statement (.vlane o) := of_wide rfl
theorem smov (o : Wide) : Statement (.smov o) := of_wide rfl
theorem vfadd (o : Wide) : Statement (.vfadd o) := of_wide rfl
theorem vfsub (o : Wide) : Statement (.vfsub o) := of_wide rfl
theorem vfmul (o : Wide) : Statement (.vfmul o) := of_wide rfl
theorem vfma (o : Wide) : Statement (.vfma o) := of_wide rfl
theorem vfmin (o : Wide) : Statement (.vfmin o) := of_wide rfl
theorem vfmax (o : Wide) : Statement (.vfmax o) := of_wide rfl
theorem vfcmp (o : Wide) : Statement (.vfcmp o) := of_wide rfl
theorem vfcls (o : Wide) : Statement (.vfcls o) := of_wide rfl
theorem vfrcp (o : Wide) : Statement (.vfrcp o) := of_wide rfl
theorem vfrsq (o : Wide) : Statement (.vfrsq o) := of_wide rfl
theorem vfsqrt (o : Wide) : Statement (.vfsqrt o) := of_wide rfl
theorem vfexp2 (o : Wide) : Statement (.vfexp2 o) := of_wide rfl
theorem vflog2 (o : Wide) : Statement (.vflog2 o) := of_wide rfl
theorem vfsin (o : Wide) : Statement (.vfsin o) := of_wide rfl
theorem vfcos (o : Wide) : Statement (.vfcos o) := of_wide rfl
theorem vftanh (o : Wide) : Statement (.vftanh o) := of_wide rfl
theorem vfdiv (o : Wide) : Statement (.vfdiv o) := of_wide rfl
theorem vfrnd (o : Wide) : Statement (.vfrnd o) := of_wide rfl
theorem vcvtf (o : Wide) : Statement (.vcvtf o) := of_wide rfl
theorem vcvtfi (o : Wide) : Statement (.vcvtfi o) := of_wide rfl
theorem vcvtif (o : Wide) : Statement (.vcvtif o) := of_wide rfl
theorem vpack2 (o : Wide) : Statement (.vpack2 o) := of_wide rfl
theorem vpack4 (o : Wide) : Statement (.vpack4 o) := of_wide rfl
theorem vunpk (o : Wide) : Statement (.vunpk o) := of_wide rfl
theorem vfdot2 (o : Wide) : Statement (.vfdot2 o) := of_wide rfl
theorem vfdot4 (o : Wide) : Statement (.vfdot4 o) := of_wide rfl
theorem vperm (o : Wide) : Statement (.vperm o) := of_wide rfl
theorem vshfl (o : Wide) : Statement (.vshfl o) := of_wide rfl
theorem vbcast (o : Wide) : Statement (.vbcast o) := of_wide rfl
theorem vreduce (o : Wide) : Statement (.vreduce o) := of_wide rfl
theorem vscan (o : Wide) : Statement (.vscan o) := of_wide rfl
theorem vballot (o : Wide) : Statement (.vballot o) := of_wide rfl
theorem vvote (o : Wide) : Statement (.vvote o) := of_wide rfl
theorem vld (o : Wide) : Statement (.vld o) := of_wide rfl
theorem vst (o : Wide) : Statement (.vst o) := of_wide rfl
theorem vldb (o : Wide) : Statement (.vldb o) := of_wide rfl
theorem vstb (o : Wide) : Statement (.vstb o) := of_wide rfl
theorem vatom (o : Wide) : Statement (.vatom o) := of_wide rfl
theorem vldc (o : Wide) : Statement (.vldc o) := of_wide rfl
theorem vstf (o : Wide) : Statement (.vstf o) := of_wide rfl
theorem vpref (o : Wide) : Statement (.vpref o) := of_wide rfl
theorem vbr (o : Wide) : Statement (.vbr o) := of_wide rfl
theorem vexit (o : Wide) : Statement (.vexit o) := of_wide rfl
theorem mset (o : Wide) : Statement (.mset o) := of_wide rfl
theorem mop (o : Wide) : Statement (.mop o) := of_wide rfl
theorem mpopc (o : Wide) : Statement (.mpopc o) := of_wide rfl
theorem mffs (o : Wide) : Statement (.mffs o) := of_wide rfl
theorem emset (o : Wide) : Statement (.emset o) := of_wide rfl
theorem livev (o : Wide) : Statement (.livev o) := of_wide rfl
theorem spawnv (o : Wide) : Statement (.spawnv o) := of_wide rfl
theorem cpy (o : Wide) : Statement (.cpy o) := of_wide rfl
theorem cpy2 (o : Wide) : Statement (.cpy2 o) := of_wide rfl
theorem cpyg (o : Wide) : Statement (.cpyg o) := of_wide rfl
theorem feset (o : Wide) : Statement (.feset o) := of_wide rfl
theorem mwld (o : Wide) : Statement (.mwld o) := of_wide rfl
theorem mtile (o : Wide) : Statement (.mtile o) := of_wide rfl
theorem mq (o : Wide) : Statement (.mq o) := of_wide rfl
theorem mchain (o : Wide) : Statement (.mchain o) := of_wide rfl
theorem mrpr (o : Wide) : Statement (.mrpr o) := of_wide rfl
theorem mstat (o : Wide) : Statement (.mstat o) := of_wide rfl
theorem rtrace (o : Wide) : Statement (.rtrace o) := of_wide rfl
theorem rcand (o : Wide) : Statement (.rcand o) := of_wide rfl
theorem rverd (o : Wide) : Statement (.rverd o) := of_wide rfl
theorem rhit (o : Wide) : Statement (.rhit o) := of_wide rfl
theorem rmarch (o : Wide) : Statement (.rmarch o) := of_wide rfl
theorem rtex (o : Wide) : Statement (.rtex o) := of_wide rfl
theorem gapp (o : Wide) : Statement (.gapp o) := of_wide rfl
theorem gconn (o : Wide) : Statement (.gconn o) := of_wide rfl
theorem gmerge (o : Wide) : Statement (.gmerge o) := of_wide rfl
theorem grw (o : Wide) : Statement (.grw o) := of_wide rfl
theorem gret (o : Wide) : Statement (.gret o) := of_wide rfl
theorem gseal (o : Wide) : Statement (.gseal o) := of_wide rfl
theorem gopen (o : Wide) : Statement (.gopen o) := of_wide rfl
theorem gread (o : Wide) : Statement (.gread o) := of_wide rfl
theorem ghold (o : Wide) : Statement (.ghold o) := of_wide rfl
theorem gdrop (o : Wide) : Statement (.gdrop o) := of_wide rfl
theorem coll (o : Wide) : Statement (.coll o) := of_wide rfl
theorem ccancel (o : Wide) : Statement (.ccancel o) := of_wide rfl
theorem cseq (o : Wide) : Statement (.cseq o) := of_wide rfl
theorem fput (o : Wide) : Statement (.fput o) := of_wide rfl
theorem fget (o : Wide) : Statement (.fget o) := of_wide rfl
theorem contextFault (part ctx : Nat) (cause : BitVec 8) : Statement (.contextFault part ctx cause) := of_step rfl rfl
theorem resultReturn (g n : Nat) : Statement (.resultReturn g n) := of_step rfl rfl
theorem gangReady (g : Nat) : Statement (.gangReady g) := of_step rfl rfl
theorem rangeWalkDone (g : Nat) : Statement (.rangeWalkDone g) := of_step rfl rfl
theorem cellinitReply (g : Nat) : Statement (.cellinitReply g) := of_step rfl rfl
theorem tlbiConfirm (g : Nat) : Statement (.tlbiConfirm g) := of_step rfl rfl
theorem strandResume (g q : Nat) : Statement (.strandResume g q) := of_step rfl rfl
theorem regangRelease (og : Nat) : Statement (.regangRelease og) := of_step rfl rfl
theorem trapEntry (g : Nat) : Statement (.trapEntry g) := of_step rfl rfl
theorem poolAllocation (tok : Nat) : Statement (.poolAllocation tok) := of_step rfl rfl
theorem faultLogWrite (tok : Nat) : Statement (.faultLogWrite tok) := of_step rfl rfl
theorem faultTimeout (tok : Nat) : Statement (.faultTimeout tok) := of_step rfl rfl
theorem preempt (g : Nat) : Statement (.preempt g) := of_step rfl rfl
theorem copyActivate (c : Nat) : Statement (.copyActivate c) := of_step rfl rfl
theorem copyGranule (c n : Nat) : Statement (.copyGranule c n) := of_step rfl rfl
theorem copyComplete (c : Nat) : Statement (.copyComplete c) := of_step rfl rfl
theorem mwldExecute (c : Nat) : Statement (.mwldExecute c) := of_step rfl rfl
theorem tileStart (c : Nat) : Statement (.tileStart c) := of_step rfl rfl
theorem matrixLatchStep (c : Nat) : Statement (.matrixLatchStep c) := of_step rfl rfl
theorem matrixComputeStep (c : Nat) : Statement (.matrixComputeStep c) := of_step rfl rfl
theorem matrixWriteStep (c : Nat) : Statement (.matrixWriteStep c) := of_step rfl rfl
theorem tileRetire (c : Nat) : Statement (.tileRetire c) := of_step rfl rfl
theorem mqDispatch (c e : Nat) : Statement (.mqDispatch c e) := of_step rfl rfl
theorem rayTraceResult (r : Nat) : Statement (.rayTraceResult r) := of_step rfl rfl
theorem rayMarchComplete (r : Nat) : Statement (.rayMarchComplete r) := of_step rfl rfl
theorem gsealComplete (part pass : Nat) : Statement (.gsealComplete part pass) := of_step rfl rfl
theorem launchAccept (part : Nat) : Statement (.launchAccept part) := of_step rfl rfl
theorem nodeStart (l n : Nat) : Statement (.nodeStart l n) := of_step rfl rfl
theorem nodeRetire (l n : Nat) : Statement (.nodeRetire l n) := of_step rfl rfl
theorem hostNodeWrite (l n : Nat) : Statement (.hostNodeWrite l n) := of_step rfl rfl
theorem placeStrand (entry q : Nat) : Statement (.placeStrand entry q) := of_step rfl rfl
theorem stageTakeRecords (l n core q : Nat) : Statement (.stageTakeRecords l n core q) := of_step rfl rfl
theorem stageEnd (l n : Nat) : Statement (.stageEnd l n) := of_step rfl rfl
theorem rebalancePeriod (part : Nat) : Statement (.rebalancePeriod part) := of_step rfl rfl
theorem fputComplete (c : Nat) : Statement (.fputComplete c) := of_step rfl rfl
theorem crewRollback (crew : Nat) : Statement (.crewRollback crew) := of_step rfl rfl
theorem twinCheckPoint (crew index : Nat) : Statement (.twinCheckPoint crew index) := of_step rfl rfl
theorem idleEntry (part : Nat) : Statement (.idleEntry part) := of_step rfl rfl
theorem jobStart (part job : Nat) : Statement (.jobStart part job) := of_step rfl rfl
theorem jobDone (part job : Nat) : Statement (.jobDone part job) := of_step rfl rfl
theorem branchBubbleEnd (g : Nat) : Statement (.branchBubbleEnd g) := of_step rfl rfl
theorem fairnessStarvation (q : Nat) : Statement (.fairnessStarvation q) := of_step rfl rfl
theorem cellarMigration (part ctx : Nat) (va : BitVec 64) (inward copyOk : Bool) : Statement (.cellarMigration part ctx va inward copyOk) := of_step rfl rfl
theorem cellarIdleReturn (part page : Nat) : Statement (.cellarIdleReturn part page) := of_step rfl rfl
theorem frespRetry (part : Nat) (token : BitVec 32) : Statement (.frespRetry part token) := of_step rfl rfl
theorem frespFail (part : Nat) (token : BitVec 32) : Statement (.frespFail part token) := of_step rfl rfl
theorem contextSave (part ctx : Nat) : Statement (.contextSave part ctx) := of_step rfl rfl
theorem contextRestore (part ctx : Nat) : Statement (.contextRestore part ctx) := of_step rfl rfl
theorem breakpointStop (g : Nat) : Statement (.breakpointStop g) := of_step rfl rfl
theorem dbgctlStopAll (part ctx : Nat) : Statement (.dbgctlStopAll part ctx) := of_step rfl rfl
theorem dbgctlResume (part g : Nat) : Statement (.dbgctlResume part g) := of_step rfl rfl
theorem dbgctlStep (part g : Nat) : Statement (.dbgctlStep part g) := of_step rfl rfl
theorem dbgctlClose (part : Nat) : Statement (.dbgctlClose part) := of_step rfl rfl
theorem dbgauthSubmit (part : Nat) : Statement (.dbgauthSubmit part) := of_step rfl rfl
theorem dbgTokenChecked (part : Nat) : Statement (.dbgTokenChecked part) := of_step rfl rfl
theorem raySpill (core : Nat) : Statement (.raySpill core) := of_step rfl rfl
theorem launch (part : Nat) (words : List (BitVec 64)) : Statement (.launch part words) := of_step rfl rfl
theorem fputPacketPerform (part : Nat) (p : Packet) : Statement (.fputPacketPerform part p) := of_step rfl rfl
theorem fabricAck (core c : Nat) (failed : Bool) : Statement (.fabricAck core c failed) := of_step rfl rfl
theorem fgetComplete (c k : Nat) (data : Payload) (failed : Bool) : Statement (.fgetComplete c k data failed) := of_step rfl rfl
theorem packetResend (c n : Nat) : Statement (.packetResend c n) := of_step rfl rfl
theorem pathFailure (c : Nat) : Statement (.pathFailure c) := of_step rfl rfl
theorem seqRegister (part comm : Nat) (key : BitVec 64) (m : Nat) : Statement (.seqRegister part comm key m) := of_step rfl rfl
theorem seqStart (part comm : Nat) (key : BitVec 64) (m : Nat) : Statement (.seqStart part comm key m) := of_step rfl rfl
theorem seqCancel (part comm : Nat) (key : BitVec 64) (m : Nat) : Statement (.seqCancel part comm key m) := of_step rfl rfl
theorem seqDoneReport (part comm : Nat) (key : BitVec 64) (m : Nat) : Statement (.seqDoneReport part comm key m) := of_step rfl rfl
theorem memberNotice (part comm : Nat) (number : BitVec 32) (key : BitVec 64) (what : Notice) : Statement (.memberNotice part comm number key what) := of_step rfl rfl
theorem collStart (part : Nat) (key : BitVec 64) (others : List (BitVec 64 × BitVec 64)) : Statement (.collStart part key others) := of_step rfl rfl
theorem collComplete (part : Nat) (key : BitVec 64) (srcs : List (List Byte)) (failed : Bool) : Statement (.collComplete part key srcs failed) := of_step rfl rfl
theorem replicationApply (part comm : Nat) (r : Replica) : Statement (.replicationApply part comm r) := of_step rfl rfl
theorem heartbeat (part comm : Nat) : Statement (.heartbeat part comm) := of_step rfl rfl
theorem standbyTakeover (part comm : Nat) : Statement (.standbyTakeover part comm) := of_step rfl rfl
theorem primaryDegraded (part comm : Nat) : Statement (.primaryDegraded part comm) := of_step rfl rfl
theorem epochFence (part comm : Nat) (epoch : BitVec 32) : Statement (.epochFence part comm epoch) := of_step rfl rfl
theorem requestRetry (part comm : Nat) (key : BitVec 64) : Statement (.requestRetry part comm key) := of_step rfl rfl
theorem memberUnreachable (part comm m : Nat) : Statement (.memberUnreachable part comm m) := of_step rfl rfl
theorem failedReport (part comm : Nat) (key : BitVec 64) : Statement (.failedReport part comm key) := of_step rfl rfl
theorem scrub (w : Scrubbed) (uncorrectable : Bool) : Statement (.scrub w uncorrectable) := of_step rfl rfl
theorem errcntClear (part g : Nat) : Statement (.errcntClear part g) := of_step rfl rfl
theorem fieldTestRound (part : Nat) (runs : List TestRun) : Statement (.fieldTestRound part runs) := of_step rfl rfl
theorem fatalError (cause die unit : Nat) : Statement (.fatalError cause die unit) := of_step rfl rfl
theorem pwrRun (part : Nat) : Statement (.pwrRun part) := of_step rfl rfl
theorem pwrPartitionOff (part : Nat) : Statement (.pwrPartitionOff part) := of_step rfl rfl
theorem pwrSleep (part : Nat) : Statement (.pwrSleep part) := of_step rfl rfl
theorem pcieWake : Statement (.pcieWake) := of_step rfl rfl
theorem deviceReset (b : Boot) : Statement (.deviceReset b) := of_step rfl rfl
theorem functionLevelReset (part : Nat) : Statement (.functionLevelReset part) := of_step rfl rfl
theorem attestRequest (part : Nat) : Statement (.attestRequest part) := of_step rfl rfl
theorem attestDone (part : Nat) : Statement (.attestDone part) := of_step rfl rfl
theorem ctxCreate (part ctx : Nat) : Statement (.ctxCreate part ctx) := of_step rfl rfl
theorem ctxDestroy (part ctx : Nat) : Statement (.ctxDestroy part ctx) := of_step rfl rfl
theorem ctxPooladd (part : Nat) : Statement (.ctxPooladd part) := of_step rfl rfl
theorem ctxLardersz (part : Nat) : Statement (.ctxLardersz part) := of_step rfl rfl
theorem headJob (part die head : Nat) (a : BitVec 64) : Statement (.headJob part die head a) := of_step rfl rfl
theorem encoderJob (part die enc : Nat) (a : BitVec 64) : Statement (.encoderJob part die enc a) := of_step rfl rfl
theorem headScanout (part die head : Nat) : Statement (.headScanout part die head) := of_step rfl rfl
theorem registerWrite (part off : Nat) (v : BitVec 64) : Statement (.registerWrite part off v) := of_step rfl rfl
theorem hostWindowWrite (part bar off : Nat) (data : List Byte) : Statement (.hostWindowWrite part bar off data) := of_step rfl rfl
theorem communicatorFailure (part comm : Nat) : Statement (.communicatorFailure part comm) := of_step rfl rfl
theorem takeoverNotice (part comm dev : Nat) (epoch : BitVec 32) : Statement (.takeoverNotice part comm dev epoch) := of_step rfl rfl
theorem standbyAcknowledgement (part comm : Nat) (key : BitVec 64) : Statement (.standbyAcknowledgement part comm key) := of_step rfl rfl
theorem fgetTargetRead (part comm : Nat) (va : BitVec 64) (len tag : Nat) : Statement (.fgetTargetRead part comm va len tag) := of_step rfl rfl
theorem softError (w : Strike) (uncorrectable : Bool) : Statement (.softError w uncorrectable) := of_step rfl rfl
theorem lifecycleReturned (token : List Byte) : Statement (.lifecycleReturned token) := of_step rfl rfl
theorem inboundMigrationTimeout (tok : Nat) : Statement (.inboundMigrationTimeout tok) := of_step rfl rfl

end Sys2Proof.Laws.FirstParcel
end

