-- ==== Sys2Proof/Laws/Run.lean ====
section
/-! SUPPORT. What the shared forms of words do once a word has passed the checks that come before its effect. -/

namespace Sys2Proof.Machine

/-- A word that passes the checks has its effect on the gang checked out. -/
theorem runWord_go {i : Instr} {s : State} {g : Gang} (hc : s.cur = some g) (hg : gate i s g = .go) (body : Gang → State → Out) :
    runWord i s body = body g s := by
  simp [runWord, hc, hg]

/-- With no gang checked out nothing happens. -/
theorem runWord_none {i : Instr} {s : State} (hc : s.cur = none) (body : Gang → State → Out) : runWord i s body = .next s := by
  simp [runWord, hc]

/-- Writing code 0 leaves a slice as it is. -/
@[simp] theorem Slice.writeS_zero (sl : Slice) (c : RCtx) (lat : Lat) (x : SVal) : sl.writeS c lat 0 x = sl := by simp [Slice.writeS]

/-- What a scalar write does to the slice of a register that is not g0. -/
theorem Slice.writeS_ne (sl : Slice) (c : RCtx) (lat : Lat) {r : SReg} (h : r ≠ 0) (x : SVal) :
    sl.writeS c lat r x =
      { sl with scal := Map.set {} sl.scal (sl.scalKey r) x
                pending := pendAdd c.now c.word lat (.scalar (sl.scalKey r)) (sl.scalNow r) x sl.pending } := by
  rw [Slice.writeS, if_neg h]

/-- A scalar write changes the register's entry and no other. -/
theorem Slice.writeS_scal (sl : Slice) (c : RCtx) (lat : Lat) (r : SReg) (x : SVal) (k : Nat) :
    Map.get {} (sl.writeS c lat r x).scal k = if r ≠ 0 ∧ k = sl.scalKey r then x else Map.get {} sl.scal k := by
  by_cases h : r = 0
  · rw [h, Slice.writeS_zero, if_neg (by simp)]
  · rw [Slice.writeS_ne sl c lat h, Map.get_set]
    by_cases hk : k = sl.scalKey r
    · rw [if_pos hk, if_pos ⟨h, hk⟩]
    · rw [if_neg hk, if_neg (fun e => hk e.2)]

/-- A scalar write changes the register file and the outstanding results, and no other field. -/
theorem Slice.writeS_frame (sl : Slice) (c : RCtx) (lat : Lat) (r : SReg) (x : SVal) :
    sl.writeS c lat r x = { sl with scal := (sl.writeS c lat r x).scal, pending := (sl.writeS c lat r x).pending } := by
  by_cases h : r = 0
  · rw [h, Slice.writeS_zero]
  · rw [Slice.writeS_ne sl c lat h]

/-- What was outstanding before a write stays so. -/
theorem mem_pendAdd {now word : Nat} {lat : Lat} {t : Target} {old new : SVal} {ps : List Pending} {p : Pending} (h : p ∈ ps) :
    ∃ p' ∈ pendAdd now word lat t old new ps, p' = { p with passed := p'.passed } := by
  have : ∃ p' ∈ ps.map (fun p => if p.targ == t then { p with passed := true } else p), p' = { p with passed := p'.passed } := by
    refine ⟨_, List.mem_map_of_mem h, ?_⟩
    split <;> rfl
  obtain ⟨p', h1, h2⟩ := this
  refine ⟨p', ?_, h2⟩
  unfold pendAdd
  split
  · exact h1
  · exact List.mem_append_left _ h1

theorem Slice.mem_writeS_pending {sl : Slice} {c : RCtx} {lat : Lat} {r : SReg} {x : SVal} {p : Pending} (h : p ∈ sl.pending) :
    ∃ p' ∈ (sl.writeS c lat r x).pending, p' = { p with passed := p'.passed } := by
  by_cases hr : r = 0
  · rw [hr, Slice.writeS_zero]; exact ⟨p, h, rfl⟩
  · rw [Slice.writeS_ne sl c lat hr]; exact mem_pendAdd h

/-- A word that writes one scalar register: every slice is written and moved on, and the gang is put back. -/
theorem scalarWord_go {i : Instr} {s : State} {g : Gang} (hc : s.cur = some g) (hg : gate i s g = .go) (lat : Lat) (d : SReg)
    (f : ReadS → Slice → SVal) :
    scalarWord i s lat d f = .next (s.wordDone (g.mapSlices fun sl =>
      (sl.writeS (s.rctx g) lat d (f (sl.readS (s.rctx g)) sl)).advance (wordBytes i) (regionEnding i))) := by
  rw [scalarWord, runWord_go hc hg]

/-- With nothing outstanding a read gives the value last written (05 R115). -/
theorem Slice.readS_quiet {sl : Slice} {c : RCtx} (h : sl.pending = []) (r : SReg) : sl.readS c r = sl.scalNow r := by
  unfold Slice.readS
  split
  · next h0 => simp [Slice.scalNow, h0]
  · simp [Slice.readTarget, Slice.candidates, h]

end Sys2Proof.Machine
end

