-- ==== Sys2Proof/Tests/Slice0.lean ====
section
/-! SUPPORT. Tests of the model on small states: ill-formed terms are refused, words written out bit by bit decode, and the hypotheses of every
statement are met together by a state and operands that are shown. -/

namespace Sys2Proof.Tests

set_option Elab.async false
set_option maxRecDepth 20000

open Sys2Proof Sys2Proof.Machine Sys2Proof.Claim

/-! ## Small states -/

/-- A slice in privileged mode at 0x1000, in a region, with a trap vector. -/
def sl0 : Slice := { Slice.boot 1 0x1000 with tvec := 0x2000 }

/-- A gang of one slice. -/
def gang (sl : Slice) : Gang := { Gang.boot 0 1 0x1000 [] with slices := [sl] }

/-- The machine after reset with one context and a gang checked out. -/
def machine (g : Gang) : State :=
  { State.reset with
    cur := some g, nextId := 10
    ctxs := [(0, { root := 0x10000, pool := (0, 0), free := [], chkiv := 5, saving := false, saved := false, stopAll := false })] }

/-- A word of each layout with every field zero. -/
def ns : FormNS := { s := false, imm := 0 }
def na : FormNA := { s := false, w := false, sd := 0, sa := 0, sb := 0 }
def nr : FormNR := { s := false, sd := 0, sa := 0, sb := 0, fn := 0 }
def ni : FormNI := { s := false, sd := 0, sa := 0, imm := 0 }
def nl : FormNL := { s := false, sd := 0, imm := 0 }
def nb : FormNB := { s := false, sa := 0, c := 0, x := 0 }
def nj : FormNJ := { s := false, x := 0 }
def nc : FormNC := { s := false, kS := 0, kV := 0, x := 0 }
def nm : FormNM := { s := false, sd := 0, sa := 0, size := 0, sx := false, off := 0 }
def nx : FormNX := { s := false, sd := 0, sa := 0, size := 0, sx := false, space := 0, off := 0 }
def nf : FormNF := { s := false, sd := 0, sa := 0, pos := 0, z := 0, wid := 0 }
def fb : FormBar := { s := false, id := 0, cnt := 0, z := 0 }
def wd : Wide := { s := false, vd := 0, va := 0, vb := 0, pm := 0, vc := 0, fn := 0, t := 0, rm := 0, ss := 0, aux := 0, imm := 0 }

/-! ## Ill-formed terms are refused (03 R70, order 2, and the operation bits of order 1) -/

theorem test_wf_add : (Instr.add { na with sd := 12, sa := 13, sb := 14, w := true }).wellFormed = true := by decide
theorem test_wf_step : (Instr.preempt 0).wellFormed = false := by decide
theorem test_wf_nop_imm : (Instr.nop { ns with imm := 1 }).wellFormed = false := by decide
theorem test_wf_guard_slot : (Instr.guard { ns with imm := 16 }).wellFormed = false := by decide
theorem test_wf_clz_sb : (Instr.clz { na with sb := 1 }).wellFormed = false := by decide
theorem test_wf_shi_amount : (Instr.shi { ni with imm := 0b00000100100000 }).wellFormed = false := by decide
theorem test_wf_lsh_imm : (Instr.lsh { nl with imm := 0x10000 }).wellFormed = false := by decide
theorem test_wf_bext_z : (Instr.bext { nf with z := 1 }).wellFormed = false := by decide
theorem test_wf_br_cc : (Instr.br { nb with c := 7 }).wellFormed = false := by decide
theorem test_wf_callr_low : (Instr.callr { nc with x := 1 }).wellFormed = false := by decide
theorem test_wf_ret_bits : (Instr.ret { nj with x := 1 }).wellFormed = false := by decide
theorem test_wf_st_sx : (Instr.st { nm with sx := true }).wellFormed = false := by decide
theorem test_wf_amo_op : (Instr.amo { nr with fn := 0x02A }).wellFormed = false := by decide
theorem test_wf_amo_size : (Instr.amo { nr with fn := 0x010 }).wellFormed = false := by decide
theorem test_wf_ldx_space : (Instr.ldx { nx with space := 6 }).wellFormed = false := by decide
theorem test_wf_spawn_tier : (Instr.spawn { nb with c := 5 }).wellFormed = false := by decide
theorem test_wf_spawn_kib : (Instr.spawn { nb with c := 1, x := 6 }).wellFormed = false := by decide
theorem test_wf_spawn_block : (Instr.spawn { nb with sa := 29 }).wellFormed = false := by decide
theorem test_wf_bar_count : (Instr.barWait { fb with cnt := 1 }).wellFormed = false := by decide
theorem test_wf_segw_selector : (Instr.segw { nr with fn := 6 }).wellFormed = false := by decide
theorem test_wf_tlbi_all : (Instr.tlbi { nr with fn := 1, sa := 1 }).wellFormed = false := by decide
theorem test_wf_vadd_type : (Instr.vadd { wd with t := 14 }).wellFormed = false := by decide
theorem test_wf_vadd_pm : (Instr.vadd { wd with pm := 8 }).wellFormed = false := by decide
theorem test_wf_vadd_pair : (Instr.vadd { wd with t := 6, vd := 1 }).wellFormed = false := by decide
theorem test_wf_vadd_rm : (Instr.vadd { wd with rm := 1 }).wellFormed = false := by decide
theorem test_wf_vadd_fn : (Instr.vadd { wd with fn := 1 }).wellFormed = false := by decide
theorem test_wf_vadd_vc : (Instr.vadd { wd with vc := 1 }).wellFormed = false := by decide
theorem test_wf_vadd_imm : (Instr.vadd { wd with imm := 1 }).wellFormed = false := by decide
theorem test_wf_vfadd_rm : (Instr.vfadd { wd with t := 8, rm := 6 }).wellFormed = false := by decide
theorem test_wf_vadd_guard : (Instr.vadd { wd with aux := 0x20 }).wellFormed = false := by decide
theorem test_wf_cpy_guard : (Instr.cpy { wd with ss := 8, aux := 0x30 }).wellFormed = false := by decide
theorem test_wf_cpy_slot : (Instr.cpy { wd with ss := 8, aux := 0xF }).wellFormed = true := by decide
theorem test_wf_vfmin_rm : (Instr.vfmin { wd with t := 8, rm := 5 }).wellFormed = true ∧ (Instr.vfmin { wd with t := 8, rm := 6 }).wellFormed = false := by decide
theorem test_wf_rtrace_block : (Instr.rtrace { wd with vd := 60, ss := 8 }).wellFormed = false := by decide
theorem test_wf_mchain_length : (Instr.mchain { wd with imm := 5 }).wellFormed = false := by decide

/-! ## Words written out bit by bit from the layouts of 03 R52 to R56, one at least of each family -/

theorem test_decode_trap : decode [0b0_0_000000_00000101_0000000000000111] = .ok (.trap { ns with imm := 7 }, []) := by rfl
theorem test_decode_sub : decode [0b0_1_000001_00100_00101_00110_0_00000001] =
    .ok (.sub { s := true, w := false, sd := 4, sa := 5, sb := 6 }, []) := by rfl
theorem test_decode_addi : decode [0b0_0_000010_01100_01101_11111111110100] = .ok (.addi { ni with sd := 12, sa := 13, imm := -12 }, []) := by rfl
theorem test_decode_shi : decode [0b0_0_000111_01100_01101_10_000_1_00_000011] =
    .ok (.shi { ni with sd := 12, sa := 13, imm := 0b10000100000011 }, []) := by rfl
theorem test_decode_bext : decode [0b0_0_001011_01101_01100_001000_00_001100] =
    .ok (.bext { nf with sd := 13, sa := 12, pos := 8, wid := 12 }, []) := by rfl
theorem test_decode_j : decode [0b0_0_010001_000000000001000000000000] = .ok (.j { nj with x := 4096 }, []) := by rfl
theorem test_decode_callr : decode [0b0_0_010011_0011_0001_01101_00000000000] =
    .ok (.callr { nc with kS := 3, kV := 1, x := 0x6800 }, []) := by rfl
theorem test_decode_region : decode [0b0_0_010101_000000000000000000100101] = .ok (.region { nj with x := 0x25 }, []) := by rfl
theorem test_decode_st : decode [0b0_0_011001_01101_01110_11_0_00000010000] = .ok (.st { nm with sd := 13, sa := 14, size := 3, off := 16 }, []) := by rfl
theorem test_decode_amo : decode [0b0_0_011010_01101_01110_01111_000_11_1001] =
    .ok (.amo { nr with sd := 13, sa := 14, sb := 15, fn := 0x39 }, []) := by rfl
theorem test_decode_ldx : decode [0b0_0_011011_01101_01110_10_1_001_11111100] =
    .ok (.ldx { nx with sd := 13, sa := 14, size := 2, sx := true, space := 1, off := -4 }, []) := by rfl
theorem test_decode_signal : decode [0b0_0_100010_00000_01110_01111_1_00000000] = .ok (.signal { nr with sa := 14, sb := 15, fn := 0x100 }, []) := by rfl
theorem test_decode_bar : decode [0b0_0_101000_00_00000101_01101_000000000] = .ok (.barInit { fb with id := 5, cnt := 13 }, []) := by rfl
theorem test_decode_csrr : decode [0b0_0_101100_01101_00000_00_000000011100] = .ok (.csrr { ni with sd := 13, imm := 0x1C }, []) := by rfl
theorem test_decode_tlbi : decode [0x2F030000] = .ok (.tlbi { nr with sa := 12 }, []) := by rfl
theorem test_decode_vmad : decode [0b1_0_00000100_001000_001010_001100_0011, 0b001110_00000000_0111_000_00000_000000, 0] =
    .ok (.vmad { wd with vd := 8, va := 10, vb := 12, pm := 3, vc := 14, t := 7 }, []) := by rfl
theorem test_decode_vcmp : decode [0b1_0_00010101_000000_001010_001100_0000, 0b000000_00000100_0000_000_00000_000010, 0] =
    .ok (.vcmp { wd with va := 10, vb := 12, fn := 4, aux := 2 }, []) := by rfl
theorem test_decode_vfadd : decode [0b1_0_00110000_000100_000001_000010_0000, 0b000000_00000000_1000_001_00000_000011, 0] =
    .ok (.vfadd { wd with vd := 4, va := 1, vb := 2, t := 8, rm := 1, aux := 3 }, []) := by rfl
theorem test_decode_vshfl : decode [0b1_0_01100001_000100_000001_000000_0000, 0b000000_00000001_0000_000_00000_000000, 3] =
    .ok (.vshfl { wd with vd := 4, va := 1, fn := 1, imm := 3 }, []) := by rfl
theorem test_decode_vbr : decode [0b1_0_10000000_000000_000000_000000_0001, 0, 0b0000000000001000_0000000000010000] =
    .ok (.vbr { wd with pm := 1, imm := 0x00080010 }, []) := by rfl
theorem test_decode_livev : decode [0b1_0_10000111_000000_000000_000000_0000, 0x00000011, 0x80000000] =
    .ok (.livev { wd with ss := 0, aux := 0x11, imm := 0x80000000 }, []) := by rfl
theorem test_decode_cpy : decode [0b1_0_10010000_000000_000000_000000_0000, 0b000000_00000000_0000_000_01000_100011, 0] =
    .ok (.cpy { wd with ss := 8, aux := 0x23 }, []) := by rfl
theorem test_decode_mchain : decode [0b1_0_10011011_000000_000000_000000_0000, 0, 4] = .ok (.mchain { wd with imm := 4 }, []) := by rfl
theorem test_decode_rtrace : decode [0b1_0_10100000_010100_000000_000011_0000, 0b000110_00000000_0000_000_10000_000000, 0xFF] =
    .ok (.rtrace { wd with vd := 20, va := 0, vb := 3, vc := 6, ss := 16, imm := 0xFF }, []) := by rfl
theorem test_decode_gseal : decode [0b1_0_10101101_000000_000000_000000_0000, 0b000000_00000000_0000_000_01000_001001, 0] =
    .ok (.gseal { wd with ss := 8, aux := 9 }, []) := by rfl
theorem test_decode_ccancel : decode [0b1_0_10111001_000000_000000_000000_0000, 0b000000_00000000_0000_000_01000_000000, 0] =
    .ok (.ccancel { wd with ss := 8 }, []) := by rfl
theorem test_decode_reserved : decode [0b1_0_00011010_000000_000000_000000_0000, 0, 0] = .error .illegalOpcode := by rfl
theorem test_decode_short : decode [0b1_0_00000000_000000_000000_000000_0000, 0] = .error .incomplete := by rfl

/-! ## The hypotheses of the statements are met: words that run -/

/-- Each of some words passes the checks that come before an effect, on the machine with the gang of one slice. -/
def AllRun (is : List Instr) : Prop := ∀ i ∈ is, Runs i (machine (gang sl0)) (gang sl0)

theorem wit_runs_alu : AllRun [.add na, .sub na, .mul na, .mulh na, .mulhn na, .div na, .divn na, .rem na, .remn na, .and na, .or na, .xor na, .andn na,
    .shl na, .shr na, .sar na, .rol na, .min na, .minn na, .max na, .maxn na, .slt na, .sltn na, .seq na, .clz na, .ctz na, .popc na, .brev na,
    .sext na, .zext na, .lea 3 na] := by simp only [AllRun, Runs]; decide
theorem wit_runs_imm : AllRun [.addi ni, .andi ni, .ori ni, .xori ni, .slti ni, .shi ni, .li nl, .lsh nl, .addpc nl, .bext nf, .bins nf, .bextv nr,
    .binsv nr] := by simp only [AllRun, Runs]; decide
theorem wit_runs_control : AllRun [.nop ns, .guard ns, .yield ns, .fetchb ns, .regang ns, .trap ns, .brk ns, .eret ns, .br nb, .j nj, .call nc, .callr nc,
    .ret nj, .region nj] := by simp only [AllRun, Runs]; decide
theorem wit_runs_system : AllRun [.csrr ni, .csrw ni, .segw nr, .tlbi nr, .chkerr ns, .exit ns, .trigger ns, .resolve ns] := by
  simp only [AllRun, Runs]; decide
theorem wit_runs_memory : AllRun [.ld nm, .st nm, .amo nr, .ldx nx, .stx nx, .cwb nr, .cinv nr, .icinv nr, .spawn nb, .await nb, .signal nr, .cellinit nr,
    .cellrd nr, .emit nr, .barInit fb, .barArrive fb, .barWait fb, .barSync fb] := by simp only [AllRun, Runs]; decide
theorem wit_runs_lane : AllRun [.vadd wd, .vsub wd, .vmul wd, .vmulh wd, .vmad wd, .vand wd, .vor wd, .vxor wd, .vandn wd, .vshl wd, .vshr wd, .vsar wd,
    .vmin wd, .vmax wd, .vabsd wd, .vclz wd, .vpopc wd, .vbrev wd, .vbext wd, .vbins wd, .vsel wd, .vcmp wd, .vsat wd, .vcvti wd, .vaddc wd,
    .vdot4i wd, .vmovi wd, .vlane wd, .smov wd] := by simp only [AllRun, Runs]; decide
theorem wit_runs_float : AllRun [.vfadd wd, .vfsub wd, .vfmul wd, .vfma wd, .vfmin wd, .vfmax wd, .vfcmp wd, .vfcls wd, .vfrcp wd, .vfrsq wd, .vfsqrt wd,
    .vfexp2 wd, .vflog2 wd, .vfsin wd, .vfcos wd, .vftanh wd, .vfdiv wd, .vfrnd wd, .vcvtf wd, .vcvtfi wd, .vcvtif wd, .vpack2 wd, .vpack4 wd,
    .vunpk wd, .vfdot2 wd, .vfdot4 wd] := by simp only [AllRun, Runs]; decide
theorem wit_runs_cross : AllRun [.vperm wd, .vshfl wd, .vbcast wd, .vreduce wd, .vscan wd, .vballot wd, .vvote wd, .vbr wd, .vexit wd, .mset wd, .mop wd,
    .mpopc wd, .mffs wd, .emset wd] := by simp only [AllRun, Runs]; decide
theorem wit_runs_lanemem : AllRun [.vld wd, .vst wd, .vldb wd, .vstb wd, .vatom wd, .vldc wd, .vstf wd, .vpref wd, .spawnv wd] := by
  simp only [AllRun, Runs]; decide
theorem wit_runs_engines : AllRun [.cpy wd, .cpy2 wd, .cpyg wd, .feset wd, .mwld wd, .mtile wd, .mq wd, .mchain wd, .mrpr wd, .mstat wd, .rtrace wd,
    .rcand wd, .rverd wd, .rhit wd, .rmarch wd, .rtex wd, .gapp wd, .gconn wd, .gmerge wd, .grw wd, .gret wd, .gseal wd, .gopen wd, .gread wd,
    .ghold wd, .gdrop wd, .coll wd, .ccancel wd, .cseq wd, .fput wd, .fget wd] := by simp only [AllRun, Runs]; decide
theorem wit_runs_livev : Runs (.livev wd) (machine (gang { sl0 with justRegion := true })) (gang { sl0 with justRegion := true }) := ⟨rfl, rfl⟩

/-! ## Witnesses: checks, traps, control and system words -/

/-- A result of scalar register key 8 (s0) outstanding, and a slice that waits for it. -/
def due0 : Pending := { n := 7, targ := .scalar 8, old := {}, new := {}, due := none, eta := 0, load := none, engine := false, passed := false }
def slDue : Slice := { sl0 with pending := [due0] }

/-- A debugger is attached to partition 0. -/
def debugging (g : Gang) : State := { machine g with parts := [(0, { Part.reset with debug := 1 })] }

/-- Memory and tables that map the first 4 GiB (log 5). -/
def mapped (g : Gang) : State := { machine g with mem := (State.reset.load 32 0).mem }

/-- A slice with an address in its scratchpad in s0 and a value in s1. -/
def slScr : Slice := { sl0 with scrl := 4096, scal := [(8, ⟨0xFE00000000000000, false⟩), (9, ⟨3, false⟩)] }

/-- A slice with an address of the global window in s0, and values in s1 to s3. -/
def slGlb : Slice := { sl0 with scal := [(8, ⟨0x200000, false⟩), (9, ⟨3, false⟩), (10, ⟨1, false⟩), (11, ⟨0x300000, false⟩)] }

/-- A slice whose s0 is tagged. -/
def slTag : Slice := { sl0 with scal := [(8, ⟨5, true⟩)] }

def user (sl : Slice) : Slice := { sl with priv := false }

theorem wit_check_privilege : (Instr.eret ns).isWord = true ∧ (privileged (.eret ns) && (gang (user sl0)).user) = true := by decide
theorem wit_check_livev : (Instr.livev wd).isWord = true ∧ (isLivev (.livev wd) && (gang sl0).slices.any fun sl => !sl.justRegion) = true := by decide
theorem wit_check_between : (!isRegion (.nop ns) && (gang { sl0 with between := true }).slices.any fun sl => sl.between) = true := by decide
theorem wit_check_waits : (waitsAll (.region nj) && (gang slDue).outstanding 0) = true := by decide
theorem wit_check_held : waitsAll (.st { nm with sa := 8 }) = false ∧ (gang slDue).interlockHeld 0 (.st { nm with sa := 8 }) = true := by decide
theorem wit_check_livein : writesLiveIn (.add { na with sd := 8 }) (machine (gang { sl0 with lives := 1 })) (gang { sl0 with lives := 1 }) = true := by decide
theorem wit_check_livein_lane : writesLiveIn (.vadd { wd with vd := 5 }) (machine (gang { sl0 with livev := 0x20 })) (gang { sl0 with livev := 0x20 }) = true := by
  decide

theorem wit_canTrap : ∀ sl ∈ (gang sl0).slices, CanTrap sl := by simp [gang, CanTrap, sl0, Slice.boot]
theorem wit_trap_quiet : (gang sl0).outstanding (machine (gang sl0)).cycle = false := by decide
theorem wit_trap_waits : (gang slDue).outstanding (machine (gang slDue)).cycle = true := by decide
theorem wit_double_trap_vector : (gang sl0).slices = [] ++ sl0 :: [] ∧ ¬ CanTrap { sl0 with tvec := 0 } ∧ ¬ CanTrap { sl0 with tvec := 0x2002 } := by
  refine ⟨rfl, ?_, ?_⟩ <;> simp [CanTrap, sl0]

theorem wit_eret : ∀ sl ∈ (gang sl0).slices, sl.tepc.toNat % 4 = 0 := by decide
theorem wit_eret_saved : ({ sl0 with tsave := some { wordAt := 0, regionpc := 0, lives := 0, livev := 0, snap := sl0.snap, replay := none, noteMark := 0 } } : Slice).tsave.isSome = true :=
  rfl
theorem wit_eret_misaligned : ∃ front sl back, (gang { sl0 with tepc := 2 }).slices = front ++ sl :: back ∧ (∀ y ∈ front, y.tepc.toNat % 4 = 0) ∧
    sl.tepc.toNat % 4 ≠ 0 := ⟨[], _, [], rfl, by decide, by decide⟩

theorem wit_regang_alone : ∀ h ∈ (machine (gang sl0)).gangs, h.og = (gang sl0).og → h.gid = (gang sl0).gid := by decide
theorem wit_regang_parted : ∃ s g h, Runs (.regang ns) s g ∧ h ∈ s.gangs ∧ h.og = g.og ∧ h.gid ≠ g.gid ∧
    g.movable false = false :=
  ⟨{ machine (gang sl0) with gangs := [{ gang sl0 with gid := 5 }] }, gang sl0, { gang sl0 with gid := 5 }, ⟨rfl, rfl⟩, by decide, rfl, by decide, by decide⟩
theorem wit_regang_movable : ({ gang sl0 with tier := 2 } : Gang).movable false = true ∧ (machine (gang sl0)).ackClear 0 2 = true := by decide
theorem wit_brk_trap : (machine (gang sl0)).debugged 0 = false := by decide
theorem wit_brk_pass : ∃ s g, Runs (.brk ns) s g ∧ s.debugged g.part = true ∧ g.passStop = true :=
  ⟨debugging { gang sl0 with passStop := true }, { gang sl0 with passStop := true }, ⟨rfl, rfl⟩, rfl, rfl⟩
theorem wit_brk_stop : ∃ s g, Runs (.brk ns) s g ∧ s.debugged g.part = true ∧ g.passStop = false ∧ (s.reg g.part 0x30040).getLsbD 0 = false :=
  ⟨debugging (gang sl0), gang sl0, ⟨rfl, rfl⟩, rfl, rfl, by decide⟩
theorem wit_brk_stop_all : ∃ s g, Runs (.brk ns) s g ∧ s.debugged g.part = true ∧ g.passStop = false ∧ (s.reg g.part 0x30040).getLsbD 0 = true :=
  ⟨(debugging (gang sl0)).setReg 0 0x30040 1, gang sl0, ⟨rfl, rfl⟩, rfl, rfl, by decide⟩

theorem wit_br_taken : Runs (.br { nb with sa := 9, c := 1, x := 4 }) (machine (gang slScr)) (gang slScr) ∧
    taken 1 (slScr.readS ((machine (gang slScr)).rctx (gang slScr)) 9).v = true ∧
    (machine (gang slScr)).targetTrap (gang slScr) false (target slScr.pc (4 : BitVec 16)) = none := ⟨⟨rfl, rfl⟩, by decide, by decide⟩
theorem wit_br_not_taken : taken 0 (slScr.readS ((machine (gang slScr)).rctx (gang slScr)) 9).v = false := by decide
theorem wit_br_tagged : Runs (.br { nb with sa := 8 }) (machine (gang slTag)) (gang slTag) ∧
    (slTag.readS ((machine (gang slTag)).rctx (gang slTag)) 8).tag = true := ⟨⟨rfl, rfl⟩, by decide⟩
/-- A parcel with bit 31 set before the target. -/
def wideBefore : State := (mapped (gang sl0)).writeHome 0x1007 [0x80]
theorem wit_target_wide : ∃ p, wideBefore.peekParcel (gang sl0) false (0x100C - 8) = some p ∧ p.getLsbD 31 = true := ⟨0x80000000, by rfl, by decide⟩
theorem wit_target_odd : (0x1002 : Word64).toNat % 4 ≠ 0 := by decide
theorem wit_call : ∀ sl ∈ (gang sl0).slices, sl.scalarDue = true ∧ Room 256 3 1 sl ∧
    (machine (gang sl0)).targetTrap (gang sl0) (!sl.priv) (target sl.pc (0xC0 : BitVec 16)) = none := by
  simp only [Room]; decide
theorem wit_call_full : ¬ Room 256 0 0 { sl0 with link := List.replicate 16 { ret := 0, kS := 0, kV := 0 } } := by simp only [Room]; decide
theorem wit_call_edge : Room 256 1 0 { sl0 with link := List.replicate 15 { ret := 0, kS := 1, kV := 0 } } := by simp only [Room]; decide
theorem wit_ret : ∀ sl ∈ (gang { sl0 with link := [{ ret := 0x40, kS := 1, kV := 1 }] }).slices, sl.link ≠ [] := by decide

theorem wit_csrr_every : ∀ n ∈ [0x000, 0x001, 0x002, 0x003, 0x004, 0x005, 0x008, 0x009, 0x00A, 0x00B, 0x010, 0x011, 0x012, 0x013, 0x014, 0x015, 0x016, 0x017,
    0x018, 0x019, 0x01A, 0x01B, 0x01C, 0x020, 0x021, 0x022, 0x023, 0x024, 0x025],
    (csrValue (machine (gang sl0)) (gang sl0) sl0 n).isSome = true := by decide
theorem wit_csrw : Runs (.csrw { ni with sa := 9, imm := 8 }) (machine (gang slScr)) (gang slScr) ∧
    (∀ sl ∈ (gang slScr).slices, (sl.readS ((machine (gang slScr)).rctx (gang slScr)) 9).tag = false) := ⟨⟨rfl, rfl⟩, by decide⟩
theorem wit_csrw_tagged : Runs (.csrw { ni with sa := 8, imm := 8 }) (machine (gang slTag)) (gang slTag) ∧
    (gang slTag).slices = [] ++ slTag :: [] ∧ (slTag.readS ((machine (gang slTag)).rctx (gang slTag)) 8).tag = true := ⟨⟨rfl, rfl⟩, rfl, by decide⟩
theorem wit_csrw_issuepol : Runs (.csrw { ni with sa := 9, imm := 4 }) (machine (gang slScr)) (gang slScr) ∧ (gang slScr).crew = none := ⟨⟨rfl, rfl⟩, rfl⟩
theorem wit_tlbi_all : Runs (.tlbi { nr with fn := 1 }) (machine (gang sl0)) (gang sl0) ∧ (gang sl0).slices ≠ [] := ⟨⟨rfl, rfl⟩, by decide⟩
theorem wit_tlbi_one : Runs (.tlbi { nr with sa := 9 }) (machine (gang slScr)) (gang slScr) ∧
    (slScr.readS ((machine (gang slScr)).rctx (gang slScr)) 9).tag = false ∧
    (slScr.readS ((machine (gang slScr)).rctx (gang slScr)) 9).v.toNat < 2 ^ 56 := ⟨⟨rfl, rfl⟩, by decide, by decide⟩
theorem wit_chkerr : (Map.find? (machine (gang sl0)).ctxs (gang sl0).ctx).isSome = true := by decide

/-! ## Witnesses: scalar memory -/

/-- A word's checks pass in every slice. -/
def Passing (g : Gang) (s : State) (check : State → Slice → Check × State) : Prop :=
  ∀ cs s1, s.checkSlices g check = (cs, s1) → AllPass g cs ∧ Single s1 g

theorem passing {g : Gang} {s : State} {check : State → Slice → Check × State} (h : ∀ sl ∈ g.slices, sl.scalarDue = true)
    (h1 : ((s.checkSlices g check).1.all fun p => match p.2 with | some (.ok _) => true | _ => false) = true)
    (h2 : ((s.checkSlices g check).2.twin g || (s.checkSlices g check).2.isShadow g) = false) : Passing g s check := by
  intro cs s1 e
  rw [e] at h1 h2
  refine ⟨⟨h, fun p hp => ?_⟩, by simpa [Single] using h2⟩
  have := List.all_eq_true.mp h1 p hp
  obtain ⟨sl, o⟩ := p
  cases o with
  | none => simp at this
  | some c => cases c <;> simp_all

theorem wit_ld_scratch : Runs (.ld { nm with sd := 10, sa := 8, size := 3, off := 8 }) (machine (gang slScr)) (gang slScr) ∧
    Untagged (machine (gang slScr)) (gang slScr) [8] ∧ Passing (gang slScr) (machine (gang slScr)) (fun s' sl =>
      s'.resolve (gang slScr) sl .load (plus (sl.readS ((machine (gang slScr)).rctx (gang slScr)) 8).v (8 : BitVec 11)) 8) :=
  ⟨⟨rfl, rfl⟩, by simp only [Untagged]; decide, passing (by decide) (by decide) (by decide)⟩
theorem wit_st_global : Untagged (mapped (gang slGlb)) (gang slGlb) [9, 8] ∧ Passing (gang slGlb) (mapped (gang slGlb)) (fun s' sl =>
      s'.resolve (gang slGlb) sl .store (plus (sl.readS ((mapped (gang slGlb)).rctx (gang slGlb)) 8).v (0 : BitVec 11)) 4) :=
  ⟨by simp only [Untagged]; decide, passing (by decide) (by decide) (by decide)⟩
theorem wit_amo_global : Untagged (mapped (gang slGlb)) (gang slGlb) [8, 9] ∧ Passing (gang slGlb) (mapped (gang slGlb)) (fun s' sl =>
      s'.resolve (gang slGlb) sl .atomic (sl.readS ((mapped (gang slGlb)).rctx (gang slGlb)) 8).v 4) :=
  ⟨by simp only [Untagged]; decide, passing (by decide) (by decide) (by decide)⟩
theorem wit_ldx_physical : Passing (gang slGlb) (mapped (gang slGlb)) (fun s' sl =>
      s'.resolveX (gang slGlb) sl .load 1 (plus (sl.readS ((mapped (gang slGlb)).rctx (gang slGlb)) 8).v (0 : BitVec 8)) 8) :=
  passing (by decide) (by decide) (by decide)
/-- A slice with the first physical address behind stack 0 in s0: it holds nothing. -/
def slHole : Slice := { sl0 with scal := [(8, ⟨BitVec.ofNat 64 stackBytes, false⟩), (9, ⟨3, false⟩)] }
theorem wit_ldx_hole : Passing (gang slHole) (mapped (gang slHole)) (fun s' sl =>
      s'.resolveX (gang slHole) sl .load 1 (plus (sl.readS ((mapped (gang slHole)).rctx (gang slHole)) 8).v (0 : BitVec 8)) 8) ∧
    atNothing (mapped (gang slHole)) 0 1 { loc := .home stackBytes, size := 8, por := false, gen := 0 } = true :=
  ⟨passing (by decide) (by decide) (by decide), by decide⟩
theorem wit_stx_larder : Passing (gang slGlb) (mapped (gang slGlb)) (fun s' sl =>
      s'.resolveX (gang slGlb) sl .store 4 (plus (sl.readS ((mapped (gang slGlb)).rctx (gang slGlb)) 9).v (0 : BitVec 8)) 1) :=
  passing (by decide) (by decide) (by decide)
theorem wit_quiet : Quiet (machine (gang sl0)) (gang sl0) ∧ Single (machine (gang sl0)) (gang sl0) := by simp only [Quiet, Single]; decide
theorem wit_posted : (∀ e ∈ (machine (gang sl0)).posted, e.gid ≠ (gang sl0).gid) ∧ ({ machine (gang sl0) with late := true } : State).late = true :=
  ⟨by decide, rfl⟩
theorem wit_l1_room : (machine (gang sl0)).l1Room 0 0x4000 = true := by decide
theorem wit_line_edge : 0 < [1#8].length ∧ 127 % 128 + [1#8].length ≤ 128 := by decide
theorem wit_cwb : Untagged (mapped (gang slGlb)) (gang slGlb) [8, 9] ∧
    ∀ sl ∈ (gang slGlb).slices, rangeTrap sl.segs (sl.readS ((mapped (gang slGlb)).rctx (gang slGlb)) 8).v
      (sl.readS ((mapped (gang slGlb)).rctx (gang slGlb)) 9).v = none := ⟨by simp only [Untagged]; decide, by decide⟩

/-! ## Witnesses: lane words -/

/-- A slice whose lane register v0 is tagged in lane 2. -/
def slLaneTag : Slice := { sl0 with lane := [(2, ⟨7, true⟩)] }

/-- A slice under NANTRAP whose lane register v0 holds −∞ in every lane and v1 +∞. -/
def slNan : Slice := { sl0 with nantrap := true, lane :=
  [(0, ⟨0xFF800000, false⟩), (1, ⟨0xFF800000, false⟩), (2, ⟨0xFF800000, false⟩), (3, ⟨0xFF800000, false⟩),
   (4, ⟨0x7F800000, false⟩), (5, ⟨0x7F800000, false⟩), (6, ⟨0x7F800000, false⟩), (7, ⟨0x7F800000, false⟩)] }

/-- A slice with no active lane. -/
def slIdle : Slice := { sl0 with em := 0 }

/-- Lanes of the zero word on a slice. -/
def bads (sl : Slice) (t : Nat → Bool) : List Nat := (lanesOf (sl.act ((machine (gang sl)).rctx (gang sl)) 0)).filter t

theorem wit_lanep_clean : Runs (.vcmp wd) (machine (gang sl0)) (gang sl0) ∧
    bads sl0 (fun k => (sl0.readT ((machine (gang sl0)).rctx (gang sl0)) 0 0 k).tag) = [] := ⟨⟨rfl, rfl⟩, by decide⟩
theorem wit_lanep_tagged : Runs (.vcmp wd) (machine (gang slLaneTag)) (gang slLaneTag) ∧
    bads slLaneTag (fun k => (slLaneTag.readT ((machine (gang slLaneTag)).rctx (gang slLaneTag)) 0 0 k).tag) = [2] := ⟨⟨rfl, rfl⟩, by decide⟩
theorem wit_lanep_float : Runs (.vfcmp wd) (machine (gang slLaneTag)) (gang slLaneTag) ∧
    bads slLaneTag (fun k => (slLaneTag.readV ((machine (gang slLaneTag)).rctx (gang slLaneTag)) 0 k).tag) = [2] := ⟨⟨rfl, rfl⟩, by decide⟩
theorem wit_lanen_clean : Runs (.vfadd { wd with t := 8 }) (machine (gang sl0)) (gang sl0) ∧ sl0.nantrap = false := ⟨⟨rfl, rfl⟩, rfl⟩
theorem wit_lanen_produced : Runs (.vfadd { wd with t := 8, vb := 1 }) (machine (gang slNan)) (gang slNan) ∧ slNan.nantrap = true ∧
    ((modified false false false 0xFF800000).add false (modified false false false 0x7F800000)).isNan = true := ⟨⟨rfl, rfl⟩, rfl, by decide⟩
theorem wit_lanen_special : Runs (.vfsqrt { wd with t := 8 }) (machine (gang slNan)) (gang slNan) ∧ special 2 (.inf true) 0xFF800000 = 0x7FC00000 :=
  ⟨⟨rfl, rfl⟩, by rfl⟩

theorem wit_fold_int : Runs (.vreduce { wd with fn := 5 }) (machine (gang sl0)) (gang sl0) ∧
    Runs (.vscan { wd with fn := 0x85 }) (machine (gang sl0)) (gang sl0) := ⟨⟨rfl, rfl⟩, ⟨rfl, rfl⟩⟩
theorem wit_fold_float : Runs (.vreduce { wd with t := 8, fn := 10 }) (machine (gang sl0)) (gang sl0) ∧
    Runs (.vscan { wd with t := 8, fn := 0x88 }) (machine (gang sl0)) (gang sl0) ∧ (∀ sl ∈ (gang sl0).slices, sl.nantrap = false) :=
  ⟨⟨rfl, rfl⟩, ⟨rfl, rfl⟩, by decide⟩
theorem wit_toss_active : Runs (.vballot wd) (machine (gang sl0)) (gang sl0) ∧ (lanesIn (gang sl0) ((machine (gang sl0)).rctx (gang sl0)) wd).length = 4 :=
  ⟨⟨rfl, rfl⟩, by decide⟩
theorem wit_toss_idle : Runs (.vballot wd) (machine (gang slIdle)) (gang slIdle) ∧
    lanesIn (gang slIdle) ((machine (gang slIdle)).rctx (gang slIdle)) wd = [] := ⟨⟨rfl, rfl⟩, by decide⟩

theorem wit_mset_value : Runs (.mset { wd with ss := 9, fn := 1 }) (machine (gang slScr)) (gang slScr) ∧
    ∀ sl ∈ (gang slScr).slices, (sl.readS ((machine (gang slScr)).rctx (gang slScr)) 9).tag = false := ⟨⟨rfl, rfl⟩, by decide⟩
theorem wit_mset_tagged : Runs (.mset { wd with ss := 8, fn := 1 }) (machine (gang slTag)) (gang slTag) ∧
    ∃ sl ∈ (gang slTag).slices, (sl.readS ((machine (gang slTag)).rctx (gang slTag)) 8).tag = true :=
  ⟨⟨rfl, rfl⟩, slTag, by decide, by decide⟩

/-- A VBR with a target three words on and a join four words on, in lanes 0 and 1 (m1). -/
def slVbr : Slice := { sl0 with masks := [(1, 3)] }
def vbr (pm : BitVec 4) : Wide := { wd with pm := pm, imm := 0x00030004 }

theorem wit_vbr_none : ∀ sl ∈ (gang slIdle).slices, sl.act ((machine (gang slIdle)).rctx (gang slIdle)) 0 = 0 := by decide
theorem wit_vbr_all : Runs (.vbr (vbr 0)) (machine (gang slVbr)) (gang slVbr) ∧ slVbr.act ((machine (gang slVbr)).rctx (gang slVbr)) 0 = slVbr.em ∧
    slVbr.em ≠ 0 ∧ (machine (gang slVbr)).targetTrap (gang slVbr) false (target slVbr.pc (3 : BitVec 16)) = none := ⟨⟨rfl, rfl⟩, by decide, by decide, by decide⟩
theorem wit_vbr_diverges : Runs (.vbr (vbr 1)) (machine (gang slVbr)) (gang slVbr) ∧ slVbr.act ((machine (gang slVbr)).rctx (gang slVbr)) 1 = 3 ∧
    slVbr.em ≠ 3 ∧ slVbr.recon.length + 2 ≤ 64 ∧ (machine (gang slVbr)).targetTrap (gang slVbr) false (target slVbr.pc (3 : BitVec 16)) = none ∧
    (machine (gang slVbr)).targetTrap (gang slVbr) false (target slVbr.pc (4 : BitVec 16)) = none :=
  ⟨⟨rfl, rfl⟩, by decide, by decide, by decide, by decide, by decide⟩
theorem wit_vbr_edge : List.length (List.replicate 62 ({ rpc := 0, pc := 0, mask := 0 } : Recon)) + 2 ≤ 64 ∧
    64 < List.length (List.replicate 63 ({ rpc := 0, pc := 0, mask := 0 } : Recon)) + 2 := by decide
/-- A parcel with bit 31 set before the target of a branch by `n` words. -/
def wideAt (n : Nat) : State := (mapped (gang slVbr)).writeHome (0x1000 + 4 * n - 1) [0x80]
theorem wit_vbr_bad_target : (wideAt 3).targetTrap (gang slVbr) false (target slVbr.pc (3 : BitVec 16)) = some ⟨0x11, 0x100C⟩ := by rfl
theorem wit_vbr_bad_join : (wideAt 4).targetTrap (gang slVbr) false (target slVbr.pc (3 : BitVec 16)) = none ∧
    (wideAt 4).targetTrap (gang slVbr) false (target slVbr.pc (4 : BitVec 16)) = some ⟨0x11, 0x1010⟩ := by exact ⟨rfl, rfl⟩

/-- The lanes of a word pass their checks. -/
def LanesPass (s : State) (g : Gang) (pm : BitVec 4) (check : State → Slice → Nat → Check × State) : Prop :=
  ∀ cs s1, s.checkLanes g (s.rctx g) pm check = (cs, s1) → (∀ q ∈ cs, ∃ a, q.check = .ok a) ∧ Single s1 g

theorem lanesPass {s : State} {g : Gang} {pm : BitVec 4} {check : State → Slice → Nat → Check × State}
    (h1 : ((s.checkLanes g (s.rctx g) pm check).1.all fun q => match q.check with | .ok _ => true | _ => false) = true)
    (h2 : ((s.checkLanes g (s.rctx g) pm check).2.twin g || (s.checkLanes g (s.rctx g) pm check).2.isShadow g) = false) :
    LanesPass s g pm check := by
  intro cs s1 e
  rw [e] at h1 h2
  refine ⟨fun q hq => ?_, by simpa [Single] using h2⟩
  have := List.all_eq_true.mp h1 q hq
  revert this
  cases q.check <;> simp

/-- The zero word with SS = s0 on the scratchpad and on the global window. -/
def w8 : Wide := { wd with ss := 8 }
theorem wit_vld_scratch : LanesPass (machine (gang slScr)) (gang slScr) 0
    (fun s' sl k => s'.resolve (gang slScr) sl .load (gatherAt w8 0 ((machine (gang slScr)).rctx (gang slScr)) sl k) 4) := lanesPass (by decide) (by decide)
theorem wit_vst_global : LanesPass (mapped (gang slGlb)) (gang slGlb) 0
    (fun s' sl k => s'.resolve (gang slGlb) sl .store (gatherAt w8 0 ((mapped (gang slGlb)).rctx (gang slGlb)) sl k) 4) := lanesPass (by decide) (by decide)
theorem wit_vldb_global : LanesPass (mapped (gang slGlb)) (gang slGlb) 0
    (fun s' sl k => s'.resolve (gang slGlb) sl .load (strideAt w8 ((mapped (gang slGlb)).rctx (gang slGlb)) sl k) 4) := lanesPass (by decide) (by decide)
theorem wit_vstb_scratch : LanesPass (machine (gang slScr)) (gang slScr) 0
    (fun s' sl k => s'.resolve (gang slScr) sl .store (strideAt w8 ((machine (gang slScr)).rctx (gang slScr)) sl k) 4) := lanesPass (by decide) (by decide)
theorem wit_vatom_global : LanesPass (mapped (gang slGlb)) (gang slGlb) 0
    (fun s' sl k => s'.resolve (gang slGlb) sl .atomic (gatherAt w8 0 ((mapped (gang slGlb)).rctx (gang slGlb)) sl k) 4) := lanesPass (by decide) (by decide)
theorem wit_lane_sources : ∀ sl ∈ (gang slGlb).slices, ∀ k ∈ sl.lanesDue ((mapped (gang slGlb)).rctx (gang slGlb)) 0,
    ∀ b ∈ [(sl.readS ((mapped (gang slGlb)).rctx (gang slGlb)) 8).tag, (sl.readV ((mapped (gang slGlb)).rctx (gang slGlb)) 0 k).tag], b = false := by decide
theorem wit_vldc_full : ∀ x ∈ (List.range 4).map fun k => k / 4, x ∉ ((machine (gang slScr)).core 0).empty := by decide
theorem wit_vldc_pass : LanesPass (machine (gang slScr)) (gang slScr) 0
    (fun s' sl k => s'.resolve (gang slScr) sl .load (blockAt w8 ((machine (gang slScr)).rctx (gang slScr)) sl k) 4) := lanesPass (by decide) (by decide)
theorem wit_vldc_empty : 0 ∈ (((machine (gang slScr)).setEmpty 0 [0]).core 0).empty ∧
    ((((machine (gang slScr)).setEmpty 0 [0]).checkLanes (gang slScr) ((machine (gang slScr)).rctx (gang slScr)) 0
      (fun s' sl k => s'.resolve (gang slScr) sl .load (blockAt w8 ((machine (gang slScr)).rctx (gang slScr)) sl k) 4)).1.filterMap
      fun q => match q.check with | .ok a => some a | _ => none).flatMap (fun a => granulesTouched [a]) = [0, 0, 0, 0] := by decide
theorem wit_vstf_pass : LanesPass (machine (gang slScr)) (gang slScr) 0
    (fun s' sl k => s'.resolve (gang slScr) sl .store (blockAt w8 ((machine (gang slScr)).rctx (gang slScr)) sl k) 4) := lanesPass (by decide) (by decide)

/-! ## Witnesses: cells, spawning, barriers, ends, emission -/

/-- A word over cells passes its checks and acts alone. -/
def CellsPass (s : State) (g : Gang) (k : AccKind) (sa : SReg) : Prop :=
  Passing g s fun s' sl => s'.resolveCell g sl k (sl.readS (s.rctx g) sa).v

theorem wit_signal : Untagged (mapped (gang slGlb)) (gang slGlb) [8, 9] ∧ CellsPass (mapped (gang slGlb)) (gang slGlb) .cellWrite 8 ∧
    (mapped (gang slGlb)).ackClear 0 4 = true := ⟨by simp only [Untagged]; decide, passing (by decide) (by decide) (by decide), by decide⟩
theorem wit_cellrd : CellsPass (mapped (gang slGlb)) (gang slGlb) .cellRead 8 := passing (by decide) (by decide) (by decide)
theorem wit_await_goes_on : (Map.get 0 (mapped (gang slGlb)).mem 0x200000) = 0 ∧ countAt (mapped (gang slGlb)) 0x200000 = 0 := by decide
theorem wit_await_parks : countAt ((mapped (gang slGlb)).initCell 0x200000 1) 0x200000 = 1 ∧ ({ gang slGlb with tier := 2 } : Gang).movable false = true := by decide
theorem wit_await_pinned : (gang slGlb).movable false = false ∧ ({ gang slGlb with tier := 2 } : Gang).movable true = false := by decide
theorem wit_signal_released : countAt ((machine (gang sl0)).signalCell 0x200000 0 3 true .pod) 0x200000 = 0 := by decide
theorem wit_signal_keeps : countAt (((machine (gang sl0)).initCell 0x200000 2).signalCell 0x200000 1 0 false .pod) 0x200000 = 1 := by decide

/-- A slice that spawns two strands at 0x300000, whose header gives 16 lane registers; s3 holds no cell. -/
def slSpawn : Slice := { sl0 with scal := [(8, ⟨0x300000, false⟩), (9, ⟨1, false⟩), (10, ⟨2, false⟩)] }
def spawner (sl : Slice) : State := (mapped (gang sl)).writeHome 0x2FFFF8 [0, 0, 16, 0x2B, 0, 0, 0, 0]

theorem wit_spawn : Untagged (spawner slSpawn) (gang slSpawn) [8, 9, 10, 11] ∧ Single (spawner slSpawn) (gang slSpawn) ∧
    (spawner slSpawn).ackClear 0 1 = true ∧ slSpawn.scalarDue = true ∧ (2 : Nat) ≤ tierCap 1 ∧
    (spawner slSpawn).spawnCheck (gang slSpawn) slSpawn 0x300000 0 = .ok { loc := .scratch 0, size := 64, por := false, gen := 0x300000 } :=
  ⟨by simp only [Untagged]; decide, by simp only [Single]; decide, by decide, by decide, by decide, by rfl⟩
theorem wit_spawn_none : ∀ sl ∈ (gang sl0).slices, (sl.readS ((machine (gang sl0)).rctx (gang sl0)) 10).v = 0 := by decide
theorem wit_spawnv : Runs (.spawnv w8) (spawner { slSpawn with scal := [(8, ⟨0x300000, false⟩)] }) (gang { slSpawn with scal := [(8, ⟨0x300000, false⟩)] }) ∧
    (∀ sl ∈ (gang { slSpawn with scal := [(8, ⟨0x300000, false⟩)] }).slices, ∀ k < 4,
      (sl.readV ((spawner { slSpawn with scal := [(8, ⟨0x300000, false⟩)] }).rctx (gang { slSpawn with scal := [(8, ⟨0x300000, false⟩)] })) 0 k).tag = false) :=
  ⟨⟨rfl, rfl⟩, by decide⟩
theorem wit_spawnv_idle : ∀ sl ∈ (gang slIdle).slices, sl.act ((machine (gang slIdle)).rctx (gang slIdle)) 0 = 0 := by decide

/-- A gang of crew 1, whose slice holds 4 in s1, and barrier 5 of core 0 owned by the crew. -/
def crewGang : Gang := { gang { slScr with scal := [(9, ⟨4, false⟩)] } with crew := some 1 }
def barred (n arrived : Nat) : State :=
  (machine crewGang).setBarrier 0 5 { Barrier.init with owner := some 1, expect := n, arrived := arrived }
def bar5 : FormBar := { fb with id := 5, cnt := 9 }

theorem wit_bar_init : Runs (.barInit bar5) (machine crewGang) crewGang ∧ Untagged (machine crewGang) crewGang [9] ∧ crewGang.crew ≠ none ∧
    (machine crewGang).hasWaiters 0 5 = false ∧ ((machine crewGang).barrier 0 5).owner = none ∧
    (∀ sl ∈ crewGang.slices, (sl.readS ((machine crewGang).rctx crewGang) 9).v.toNat = 4) ∧ crewGang.slices.getLast?.isSome = true :=
  ⟨⟨rfl, rfl⟩, by simp only [Untagged]; decide, by decide, by decide, by decide, by decide, by decide⟩
theorem wit_bar_arrive : Runs (.barArrive { bar5 with cnt := 0 }) (barred 8 0) crewGang ∧ ((barred 8 0).barrier 0 5).owner = crewGang.crew ∧
    (barred 8 0).syncDue crewGang = false ∧ (barred 8 0).rbCrew crewGang = none := ⟨⟨rfl, rfl⟩, by decide, by decide, by decide⟩
theorem wit_bar_short : ((barred 8 3).barrier 0 5).arrived + (crewGang.slices.map fun sl => (lanesOf sl.em).length).sum = 7 := by decide
theorem wit_bar_completes : ((barred 8 4).barrier 0 5).arrived + (crewGang.slices.map fun sl => (lanesOf sl.em).length).sum = 8 := by decide
theorem wit_bar_wait_early : ∃ p, ({ slScr with arrival := some (5, 7) } : Slice).arrival = some (5, p) ∧ p ≠ ((barred 8 0).barrier 0 5).phase :=
  ⟨7, rfl, by decide⟩
theorem wit_bar_wait_parks : ¬ ∃ p, slScr.arrival = some (5, p) ∧ p ≠ ((barred 8 0).barrier 0 5).phase := by simp [slScr, sl0, Slice.boot]
theorem wit_bar_foreign : Runs (.barSync { bar5 with cnt := 0 }) (machine crewGang) crewGang ∧ ((machine crewGang).barrier 0 5).owner = none := ⟨⟨rfl, rfl⟩, by decide⟩

theorem wit_exit : Passing { gang sl0 with slices := (gang sl0).slices } (machine (gang sl0)) (fun s' sl => s'.exitCheck (gang sl0) sl) ∧
    (machine (gang sl0)).ackClear 0 (gang sl0).exitSpan = true := ⟨passing (by decide) (by decide) (by decide), by decide⟩
theorem wit_ret_ends : (gang sl0).slices ≠ [] ∧ (∀ sl ∈ (gang sl0).slices, sl.link = [] ∧ sl.spilled = 0) ∧
    (gang sl0).outstanding (machine (gang sl0)).cycle = false := by decide
theorem wit_vexit_some : slVbr.exited ||| slVbr.act ((machine (gang slVbr)).rctx (gang slVbr)) 1 = 3 := by decide
theorem wit_vexit_all : ∀ sl ∈ (gang sl0).slices, ((sl.exited ||| sl.act ((machine (gang sl0)).rctx (gang sl0)) 0) == 0xF && sl.exited != 0xF) = true := by decide
theorem wit_exit_alone : (gang sl0).crew = none ∧ (gang sl0).node = none ∧ (machine (gang sl0)).cmds = [] ∧
    Map.find? { machine (gang sl0) with ctxs := [] }.ctxs (gang sl0).ctx = none := by decide

theorem wit_trigger : Runs (.trigger ns) (machine { gang sl0 with node := some (3, 0) }) { gang sl0 with node := some (3, 0) } ∧
    Single (machine { gang sl0 with node := some (3, 0) }) { gang sl0 with node := some (3, 0) } ∧
    (machine { gang sl0 with node := some (3, 0) }).ackClear 0 4 = true := ⟨⟨rfl, rfl⟩, by simp only [Single]; decide, by decide⟩

/-- A stage of launch 3 with a ring of two records, and a gang of the launch. -/
def stage0 : Stage := { node := 1, qid := 4, cap := 2, rlim := 1, minsh := 0, maxsh := 4, initsh := 0, unit := 0, tier := 1, ring := 0x400000, outs := []
                        pc := 0x300000, lregs := 64, shares := [], next := 0, queue := [], started := true, ended := false }
def launch3 : Launch := { id := 3, part := 0, ctx := 0, graph := 0, prio := 0, tag := 0, inst := 0, base := 0x500000, tvec := 0, attic := 0, nodeOff := 64, count := 1
                          nodes := [], stages := [stage0] }
def slEmit : Slice := { slGlb with scal := [(8, ⟨0x200000, false⟩), (9, ⟨4, false⟩)] }
def emitter : Gang := { gang slEmit with launch := some 3 }
def emitting (y : Stage) : State := { mapped emitter with launches := [{ launch3 with stages := [y] }] }
def record2 : Entry := { slot := 0, depth := 0, quad := 0 }

theorem wit_emit : Runs (.emit { nr with sa := 8, sb := 9 }) (emitting stage0) emitter ∧ Untagged (emitting stage0) emitter [8, 9] ∧
    Passing emitter (emitting stage0) (fun s' sl => s'.emitCheck emitter sl (sl.readS ((emitting stage0).rctx emitter) 8).v
      (sl.readS ((emitting stage0).rctx emitter) 9).v) :=
  ⟨⟨rfl, rfl⟩, by simp only [Untagged]; decide, passing (by decide) (by decide) (by decide)⟩
/-- The check of the emitting word, and how its records come out. -/
def emitted (s : State) : Emitted :=
  (s.emitAll emitter (fun sl => (sl.readS (s.rctx emitter) 9).v) (s.checkSlices emitter (fun s' sl =>
    s'.emitCheck emitter sl (sl.readS (s.rctx emitter) 8).v (sl.readS (s.rctx emitter) 9).v)).1).1
theorem wit_emit_done : emitted (emitting stage0) = .done := by rfl
theorem wit_emit_one : (emitting stage0).emitTrap emitter slEmit 4 = none ∧ (emitting stage0).occupied 3 stage0 < stage0.cap ∧
    (emitting stage0).freeSlot 3 stage0 = some 0 ∧ (emitting stage0).stage? 3 1 = some stage0 ∧
    (match (emitting stage0).xlate 0 0 0 0x400000 { w := true, user := false } with | (.ok pa _, _) => pa == 0x400000 | _ => false) = true := by decide
theorem wit_emit_full : emitted (emitting { stage0 with queue := [record2, { record2 with slot := 1 }] }) = .full 3 1 := by rfl
theorem wit_emit_full_stage : (emitting { stage0 with queue := [record2, { record2 with slot := 1 }] }).emitTrap emitter slEmit 4 = none ∧
    stage0.cap ≤ (emitting { stage0 with queue := [record2, { record2 with slot := 1 }] }).occupied 3
      { stage0 with queue := [record2, { record2 with slot := 1 }] } := by decide
theorem wit_resolve : Runs (.resolve { ns with imm := 9 * 16 + 2 }) (mapped (gang slGlb)) (gang slGlb) ∧
    Untagged (mapped (gang slGlb)) (gang slGlb) [9] ∧ (mapped (gang slGlb)).ackClear 0 0 = true :=
  ⟨⟨rfl, rfl⟩, by simp only [Untagged]; decide, by decide⟩

/-! ## Witnesses: words of the engines -/

/-- A gang on the machine with a communicator 0 of one member, this device, whose table stands at 0x600000. -/
def comm0 : List Byte := [1, 0, 1, 0, 0, 0, 0xFF, 0xFF, 0, 0, 0, 0, 5, 0, 0, 0, 0x40, 0, 0x60, 0, 0, 0, 0, 0]
def joined (g : Gang) : State := ((mapped g).writeHome 0x600000 comm0).setReg 0 regCtabBase 0x600000

/-- The check of a command word's slice. -/
def cmdOf (sl : Slice) (op : CmdOp) (k : Nat) (extra : List Word64) : Cmd :=
  (gang sl).command sl op false w8 (block ((mapped (gang sl)).rctx (gang sl)) sl 8 k ++ extra)

theorem wit_copies : (∀ x ∈ [(CmdOp.cpy, 4), (.cpy2, 6), (.cpyg, 6)], (cmdOf sl0 x.1 x.2 []).copyTrap = none) ∧
    (cmdOf { sl0 with scal := [(8, ⟨0xFE00000000000000, false⟩)] } .feset 3 []).copyTrap = none ∧
    Untagged (mapped (gang sl0)) (gang sl0) [8, 9, 10, 11, 12, 13] ∧ Single (mapped (gang sl0)) (gang sl0) ∧ (mapped (gang sl0)).ackClear 0 1 = true := by
  refine ⟨by decide, by decide, ?_, ?_, by decide⟩
  · simp only [Untagged]; decide
  · simp only [Single]; decide
theorem wit_mwld : (cmdOf { sl0 with scal := [(11, ⟨0x100000008, false⟩)] } .mwld 6 [0, 1]).mwldTrap = none := by decide
theorem wit_mtile : ((cmdOf slGlb .mtile 1 [1]).recordTrap.orElse fun _ => (cmdOf slGlb .mtile 1 [1]).chainTrap 1) = none := by decide
theorem wit_mq : (cmdOf slGlb .mq 1 [4]).recordTrap = none ∧ (mapped (gang slGlb)).ackClear 0 (4 % 8) = true := by decide
theorem wit_coll : (joined (gang sl0)).collTrap (cmdOf sl0 .coll 6 []) = none := by decide
theorem wit_fput : (joined (gang sl0)).moveTrap (cmdOf sl0 .fput 6 []) 0 = none := by decide
theorem wit_fget : (joined (gang sl0)).moveTrap (cmdOf sl0 .fget 5 []) 0 = none := by decide
theorem wit_queue : CmdOp.cpy ≠ .mq ∧ (∀ c ∈ (mapped (gang sl0)).cmds, c.op ≠ .mq) ∧ ((gang sl0).command sl0 .cpy false w8 [0]).gstate = .true := by decide

theorem wit_mchain_fits : (gang sl0).quad + (4 : Nat) ≤ 4 := by decide
theorem wit_mchain_over : 4 < ({ gang sl0 with quad := 1 } : Gang).quad + (4 : Nat) := by decide
theorem wit_asks : ∃ e, (joined (gang sl0)).commTrap 0 0 (sl0.readS ((joined (gang sl0)).rctx (gang sl0)) 8).v = .ok e ∧ e.failed = false :=
  ⟨_, rfl, by decide⟩
theorem wit_asks_alone : Single (joined (gang sl0)) (gang sl0) ∧ (∀ q ∈ (joined (gang sl0)).queries, q.word ≠ (joined (gang sl0)).free) ∧
    (∀ sl ∈ (gang sl0).slices, sl.mail = []) := ⟨by simp only [Single]; decide, by decide, by decide⟩

theorem wit_fresh : Fresh (mapped (gang slGlb)) (gang slGlb) := by simp only [Fresh]; decide
theorem wit_larder_lanes : (∀ sl ∈ (gang slGlb).slices, (sl.readS ((mapped (gang slGlb)).rctx (gang slGlb)) 8).tag = false ∧
      ∀ k < 4, (sl.readV ((mapped (gang slGlb)).rctx (gang slGlb)) 0 k).tag = false ∧
        sl.segs.larderTrap (ssPlus w8 0 ((mapped (gang slGlb)).rctx (gang slGlb)) sl k) = none) ∧
    (mapped (gang slGlb)).larderBusy 0 + (opsOf (mapped (gang slGlb)) (gang slGlb) w8).length ≤ 64 := by decide
theorem wit_larder_edge : (List.replicate 60 (0 : Nat)).length + (opsOf (mapped (gang slGlb)) (gang slGlb) w8).length = 64 := by decide
theorem wit_gmerge : ∀ k < 4, slGlb.segs.larderTrap (BitVec.ofNat 64 (0x200000 + 128 * k)) = none := by decide
theorem wit_larder_slices : Untagged (mapped (gang slGlb)) (gang slGlb) [8, 9, 10, 11] ∧ Single (mapped (gang slGlb)) (gang slGlb) ∧
    (∀ sl ∈ (gang slGlb).slices, (mapped (gang slGlb)).fenced 0 4 ((sl.readS ((mapped (gang slGlb)).rctx (gang slGlb)) 8).v.toNat / 256 % 16) = false) := by
  refine ⟨?_, ?_, by decide⟩
  · simp only [Untagged]; decide
  · simp only [Single]; decide

/-- A slice with an acceleration structure in s0, a save area of its Attic in s1 and march buffers in s2 and s3. -/
def slRay : Slice := { sl0 with stkb := 0x700000, stkl := 32768, scrl := 32768
                                scal := [(8, ⟨0x200000, false⟩), (9, ⟨0xFD00000000000000, false⟩), (10, ⟨0xFE00000000000000, false⟩), (11, ⟨0xFE00000000004000, false⟩)] }

theorem wit_rtrace : (∀ sl ∈ (gang slRay).slices, sl.saveTrap ((mapped (gang slRay)).rctx (gang slRay)) 0 (sblock 8 2)
      (sl.readS ((mapped (gang slRay)).rctx (gang slRay)) 8).v (sl.readS ((mapped (gang slRay)).rctx (gang slRay)) 9).v none = none) ∧
    (mapped (gang slRay)).raysInFlight 0 + (opsOf (mapped (gang slRay)) (gang slRay) w8).length ≤ 256 := by decide
theorem wit_rmarch : (∀ sl ∈ (gang slRay).slices, marchTrap { gang slRay with crew := some 1 } ((mapped (gang slRay)).rctx (gang slRay)) { w8 with imm := 16 } sl = none) ∧
    w8.aux.getLsbD 5 = false ∧ (∀ x ∈ (mapped (gang slRay)).cmds, x.op ≠ .mq) := by decide
theorem wit_rtex_rcand : ∀ sl ∈ (gang slRay).slices, (sl.readS ((mapped (gang slRay)).rctx (gang slRay)) 8).tag = false := by decide

/-! ## Witnesses: steps of the strand engine, contexts, faults -/

/-- The machine with some gangs put back and their memory mapped. -/
def world (gs : List Gang) : State := { mapped (gang sl0) with cur := none, gangs := gs }

/-- Gangs parked, framed and ready. -/
def parked (p : Park) : Gang := { gang sl0 with park := p }
def frame : Gang := { gang sl0 with framed := true, ready := true }

/-- A slice whose window holds 16 groups, and one whose groups lie in its Attic; a call of the first spills a group. -/
def slSpill (stkl : Word64) : Slice := { sl0 with stkb := 0x700000, stkl := stkl, link := List.replicate 16 { ret := 0x40, kS := 0, kV := 0 } }
def slRefill : Slice := { sl0 with stkb := 0x700000, stkl := 32768, spilled := 1, spillp := 16 }
theorem wit_call_spills : ((slSpill 32768).callPlan 256 { ret := 0x1004, kS := 0, kV := 0 }).spill.length = 16 ∧ (slSpill 32768).spillLimit = 32768 ∧
    ((mapped (gang (slSpill 32768))).checkAttic (gang (slSpill 32768)) (slSpill 32768) .store 0 16).1 = none := by decide
theorem wit_call_overflows : ((slSpill 8).callPlan 256 { ret := 0x1004, kS := 0, kV := 0 }).spill.length = 16 ∧ (slSpill 8).spillLimit = 8 := by decide
theorem wit_ret_refills : (match (mapped (gang slRefill)).retPlan (gang slRefill) slRefill with | (.refill _ bs _, _) => bs.length == 16 | _ => false) = true := by decide

/-- A line of the L1 with a dirty byte, at 0x200004. -/
def dirtied : State := (mapped (gang sl0)).writeL1 0 0x200004 [5] false
theorem wit_walk_line : (Map.find? (dirtied.core 0).l1 (0x200004 / 128)).map (fun l => l.dirty.getLsbD 4) = some true ∧ 0x200004 % 128 + 1 ≤ 128 := by decide
theorem test_cwb_writes_home : Map.get 0 (dirtied.walkRange 0 (.cwb true) 0x200004 1).mem 0x200004 = 5 ∧
    (Map.find? ((dirtied.walkRange 0 (.cwb true) 0x200004 1).core 0).l1 (0x200004 / 128)).map (fun l => (l.dirty, l.wvalid)) = some (0, 0) := by decide

theorem wit_has : Has (world [gang sl0]) 0 (gang sl0) := rfl
theorem wit_result_return : Has (world [gang slDue]) 0 (gang slDue) ∧ ((gang slDue).slices.any fun sl => sl.pending.any (returns 7)) = true ∧
    (∀ sl ∈ (gang slDue).slices, ∀ p ∈ sl.pending, returns 7 p = true → p.load = none) := ⟨rfl, by decide, by decide⟩
theorem wit_ready_settle : Has (world [parked .settle]) 0 (parked .settle) ∧ (parked .settle).framed = false ∧ (parked .settle).outstanding 0 = false := ⟨rfl, rfl, by decide⟩
theorem wit_ready_granules : Has (world [parked (.granules [3])]) 0 (parked (.granules [3])) ∧ ∀ x ∈ [3], x ∉ ((world []).core 0).empty := ⟨rfl, by decide⟩
theorem wit_ready_emit : Has (world [parked (.emit 3 1)]) 0 (parked (.emit 3 1)) ∧ (world [parked (.emit 3 1)]).hasRoom 3 1 = true := ⟨rfl, by decide⟩
theorem wit_bubble_end : 0 < ({ gang sl0 with bubble := 5 } : Gang).bubble ∧ ({ gang sl0 with bubble := 5 } : Gang).bubble ≤ ({ world [] with cycle := 5 } : State).cycle := by
  decide
/-- A gang with a NOP in its buffer that has waited long enough. -/
def starved : Gang := { gang sl0 with wait := 256, buf := [⟨0x1000, 0, false⟩] }
theorem wit_starvation : starved ∈ (world [starved]).readyGangs 0 := by decide
theorem wit_walk_tlbi : Has (world [parked .walk]) 0 (parked .walk) ∧ Has (world [parked .tlbi]) 0 (parked .tlbi) := ⟨rfl, rfl⟩
theorem wit_cellinit_reply : Has (world [parked (.cellinit [(0x200000, 1, 0x200000)])]) 0 (parked (.cellinit [(0x200000, 1, 0x200000)])) ∧
    0x200000 ∉ (world [parked (.cellinit [(0x200000, 1, 0x200000)])]).waitedCells := ⟨rfl, by decide⟩
theorem wit_cellinit_refused : Has (world [parked (.cellinit [(0x200000, 1, 0x200000)]), { parked (.await [0x200000] false) with gid := 5 }]) 0
      (parked (.cellinit [(0x200000, 1, 0x200000)])) ∧
    0x200000 ∈ (world [parked (.cellinit [(0x200000, 1, 0x200000)]), { parked (.await [0x200000] false) with gid := 5 }]).waitedCells := ⟨rfl, by decide⟩
theorem wit_trap_entry : Has (world [parked (.trap 0x0A 3)]) 0 (parked (.trap 0x0A 3)) ∧ (parked (.trap 0x0A 3)).outstanding 0 = false ∧
    ∀ sl ∈ (parked (.trap 0x0A 3)).slices, CanTrap sl := ⟨rfl, by decide, by simp [parked, gang, CanTrap, sl0, Slice.boot]⟩
theorem wit_trap_entry_double : ¬ CanTrap { sl0 with tvec := 0 } := by simp [CanTrap]

/-- A gang that has been asked to give its slots up. -/
def asked (g : Gang) : Gang := { g with preempt := true }
theorem wit_preempt : Has (world [asked (gang sl0)]) 0 (asked (gang sl0)) ∧ (asked (gang sl0)).framed = false ∧
    (world [asked (gang sl0)]).preemptDue (asked (gang sl0)) = true ∧ (world [asked (gang sl0)]).mayPreempt (asked (gang sl0)) = true ∧
    (world [asked (gang sl0)]).canPreempt (asked (gang sl0)) = true ∧ (asked (gang sl0)).movable false = false :=
  ⟨rfl, rfl, by decide, by decide, by decide, by decide⟩
theorem wit_preempt_later : Has (world [asked (parked .dead)]) 0 (asked (parked .dead)) ∧ (asked (parked .dead)).framed = false ∧
    (world [asked (parked .dead)]).preemptDue (asked (parked .dead)) = true ∧ (world [asked (parked .dead)]).mayPreempt (asked (parked .dead)) = false :=
  ⟨rfl, rfl, by decide, by decide⟩
theorem wit_preempt_regang : Has (world [asked (parked (.regang 4))]) 0 (asked (parked (.regang 4))) ∧
    (world [asked (parked (.regang 4))]).preemptDue (asked (parked (.regang 4))) = true := ⟨rfl, by decide⟩
theorem wit_preempt_not_due : Has (world [gang sl0]) 0 (gang sl0) ∧ (world [gang sl0]).preemptDue (gang sl0) = false := ⟨rfl, by decide⟩
theorem wit_resume : Has (world [frame]) 0 frame ∧ frame.framed = true ∧ frame.ready = true ∧ frame.park = .none ∧ frame.frameBad = false ∧
    (world [frame]).halted frame = false ∧ (world [frame]).mayServe (.frame frame) 0 = true := ⟨rfl, rfl, rfl, rfl, rfl, by decide, by decide⟩
theorem wit_regang_release : (∃ g ∈ (world [parked (.regang 4)]).gangs, g.og = 0) ∧ ∀ g ∈ (world [parked (.regang 4)]).gangs, g.og = 0 → ∃ id, g.park = .regang id := by
  refine ⟨⟨_, List.mem_singleton.mpr rfl, by decide⟩, fun g hg _ => ⟨4, ?_⟩⟩
  rw [List.mem_singleton.mp hg]; rfl
theorem wit_regang_apart : ∃ g ∈ (world [parked (.regang 4), { parked (.regang 6) with gid := 5 }]).gangs,
    ∃ h ∈ (world [parked (.regang 4), { parked (.regang 6) with gid := 5 }]).gangs, (g.park, g.pc) ≠ (h.park, h.pc) :=
  ⟨parked (.regang 4), by decide, { parked (.regang 6) with gid := 5 }, by decide, by decide⟩

/-- A context fault that waits, and a saved context. -/
def fault0 : CtxFault := { part := 0, ctx := 0, cause := 0x07, tepc := 0x1000, tval := 0, core := 0, op8 := 0x48 }
def ctx0 (saved : Bool) : Ctx := { root := 0x10000, pool := (0, 0), free := [], chkiv := 0, saving := false, saved := saved, stopAll := false }
theorem wit_context_fault : { world [] with ctxFaults := [fault0] }.ctxFaults.find? (fun x => x.part == 0 && x.ctx == 0 && x.cause == 0x07) = some fault0 := by decide
theorem wit_context_save : Map.find? { world [] with ctxs := [(0, ctx0 false)] }.ctxs 0 = some (ctx0 false) ∧ 0 / 4096 = 0 ∧ (ctx0 false).saved = false := by decide
theorem wit_context_restore : Map.find? { world [] with ctxs := [(0, ctx0 true)] }.ctxs 0 = some (ctx0 true) ∧ (ctx0 true).saved = true ∧
    (∀ e ∈ (world []).crews, e.2.ctx ≠ 0) ∧ (∀ g ∈ (world [frame]).gangs, g.ctx = 0 → g.crew = none) := by decide

/-! ## Witnesses: the service of translation faults -/

/-- A fault of gang 0 on a page above the 4 GiB that are mapped, served by a pool where `pool`. -/
def fr (pool : Bool) (stage : FaultStage) : FaultRec :=
  { token := 1, part := 0, ctx := 0, va := 0x100000000, acc := 0, why := 0, level := 2, entryAt := 0x14008, pool := pool, units := [.strand 0], unitno := 0
    stage := stage, since := 0 }
def faulted (f : FaultRec) : State := { world [parked (.fault 1 0x100000000 none)] with faults := [f] }

/-- The same machine with POOL = 1 in the entry. -/
def poolEntry : State := (faulted (fr true .new)).writeHome 0x14008 (toBytes (0x300 : BitVec 64) 8)
theorem wit_pool_empty : InService poolEntry 1 (fr true .new) ∧ poolEntry.wordAt 0x14008 8 % 2 = 0 ∧ poolEntry.wordAt 0x14008 8 / 2 ^ 9 % 2 = 1 ∧
    takeFrame (leafT (poolEntry.wordAt 0x14008 8)) (poolEntry.part 0).pools = none := ⟨rfl, by decide, by decide, by decide⟩
theorem wit_pool_changed : InService (faulted (fr true .new)) 1 (fr true .new) ∧ (faulted (fr true .new)).wordAt 0x14008 8 / 2 ^ 9 % 2 = 0 :=
  ⟨rfl, by decide⟩
theorem wit_pool_takes : takeFrame 0 [{ t := 0, base := 0x800000, count := 1 }] = some (0x800000, [{ t := 0, base := 0x801000, count := 0 }]) := by decide
theorem wit_log_none : InService (faulted (fr false .new)) 1 (fr false .new) ∧ (faulted (fr false .new)).firmwareServes (fr false .new) = false ∧
    logReg (faulted (fr false .new)) (fr false .new) 0x40008 = 0 := ⟨rfl, by decide, by decide⟩
/-- The same machine with a log of `n` records. -/
def logged (f : FaultRec) (n : Nat) : State := (faulted f).setReg 0 0x40008 (BitVec.ofNat 64 n)
theorem wit_log_full : InService (logged (fr false .new) 1) 1 (fr false .new) ∧ (0 + 1) % logReg (logged (fr false .new) 1) (fr false .new) 0x40008 =
    logReg (logged (fr false .new) 1) (fr false .new) 0x40010 := ⟨rfl, by decide⟩
theorem wit_log_full_waits : InService (logged (fr false .waiting) 1) 1 (fr false .waiting) ∧ (fr false .waiting).stage ≠ .new := ⟨rfl, by decide⟩
theorem wit_log_room : InService (logged (fr false .new) 2) 1 (fr false .new) ∧ (0 + 1) % logReg (logged (fr false .new) 2) (fr false .new) 0x40008 ≠
    logReg (logged (fr false .new) 2) (fr false .new) 0x40010 := ⟨rfl, by decide⟩
theorem wit_timeout : (fr false .waiting).stage ≠ .new ∧
    (fr false .waiting).since + 3000000 * logReg { faulted (fr false .waiting) with cycle := 300000000 } (fr false .waiting) 0x40020 ≤ 300000000 := by decide
theorem wit_fresp : (faulted (fr false .logged)).tokenFault 0 1 = some (fr false .logged) ∧
    ParkedOn (faulted (fr false .logged)) (fr false .logged) (parked (.fault 1 0x100000000 none)) 0x100000000 ∧ (faulted (fr false .logged)).cmds = [] ∧
    (parked (.fault 1 0x100000000 none)).outstanding 0 = false ∧ ∀ sl ∈ (parked (.fault 1 0x100000000 none)).slices, CanTrap sl :=
  ⟨rfl, ⟨rfl, rfl, rfl⟩, rfl, by decide, by simp [parked, gang, CanTrap, sl0, Slice.boot]⟩

/-- A CELLAR page of 4 KiB at 16 GiB, and the fault of a cell operation on it. -/
def cellarHome : Nat := 0x8000000000000
def cellarFault : FaultRec := { fr false .new with va := 0x400000000, acc := 2, entryAt := 0x14008 }
def cellar (pools : List Pool) : State :=
  let s : State := { (world []).writeHome 0x14008 (toBytes (BitVec.ofNat 64 (leafEntry 0 (cellarHome / 4096) 0xDF)) 8) with
    faults := [cellarFault], cxl := [(0, 0x10000)] }
  s.setPart 0 { s.part 0 with pools := pools }
def cellarLeaf : Leaf := { base := cellarHome, size := 4096, vbase := 0x400000000, kind := 3, por := false, user := true, x := true, w := true, r := true
                           entryAt := 0x14008, level := 2 }
theorem wit_cellar_in : (cellar [{ t := 0, base := 0x800000, count := 1 }]).walk 0 0 0x400000000 = .leaf cellarLeaf ∧
    (cellar [{ t := 0, base := 0x800000, count := 1 }]).inboundDue 0 0 cellarLeaf = true ∧
    (cellar [{ t := 0, base := 0x800000, count := 1 }]).inboundFits 0 cellarLeaf = true ∧
    (((cellar [{ t := 0, base := 0x800000, count := 1 }]).settleRange cellarHome 4096).dropCopies cellarHome 4096).rangeBad cellarHome 4096 = false := by
  refine ⟨by decide, by decide, by decide, by decide⟩
def moved : Migrated := { ctx := 0, va := 0x500000000, t := 0, entryAt := 0x14008, level := 2, home := cellarHome, frame := 0x900000 }
/-- The same machine without a frame left, and with a page in HBM. -/
def cellarShort : State := let s := cellar []; s.setPart 0 { s.part 0 with migrated := [moved] }
theorem wit_cellar_out : cellarShort.victim 0 = some moved ∧ moved.va < 2 ^ 64 ∧ cellarShort.inboundShort 0 = true := by
  refine ⟨by rfl, by decide, by decide⟩
theorem wit_cellar_idle : (cellarShort.part 0).migrated[0]? = some moved ∧ cellarShort.movable moved = true ∧
    ((cellarShort.setReg 0 0x30 1).reg 0 0x30).toNat ≠ 0 ∧ ((cellarShort.useOf 0 moved.va).map PageUse.last).getD 0 + 3000000 * 1 ≤ 3000000 := by
  refine ⟨by rfl, by decide, by decide, by decide⟩
theorem wit_cellar_timeout : InService (cellar []) 1 cellarFault ∧ (cellar []).wantsMigration cellarFault = true ∧ (cellar []).fits cellarFault = false ∧
    cellarFault.since + 3000000 * logReg (cellar []) cellarFault 0x40020 ≤ 300000000 := ⟨rfl, by decide, by decide, by decide⟩
theorem wit_move_page : Memory.wf (cellar []).mem = true ∧ 0x900000 + 4096 * 2 ^ 0 ≤ cellarHome ∧
    ∀ x ∈ entryGroup 0x14008 0 2, x + 8 ≤ 0x900000 := by decide

/-! ## Witnesses: the debugger and tokens -/

/-- A debugger attached, with comparator 7 armed at 0x1000, and the halting mode. -/
def armed (all : Bool) (g : Gang) : State :=
  let s := ({ world [g] with parts := [(0, { Part.reset with debug := 1 })] } : State).setReg 0 0x30038 0x8000000000001000
  s.setReg 0 0x30040 (if all then 1 else 0)
theorem wit_breakpoint : ∀ all, Has (armed all (gang sl0)) 0 (gang sl0) ∧ (armed all (gang sl0)).debugged 0 = true ∧
    ((armed all (gang sl0)).reg 0 (0x30000 + 8 * 7)).getLsbD 63 = true ∧ ((armed all (gang sl0)).reg 0 (0x30000 + 8 * 7)).toNat % 2 ^ 56 = (gang sl0).pc.toNat ∧
    ((armed all (gang sl0)).reg 0 0x30040).getLsbD 0 = all := by
  intro all; refine ⟨by cases all <;> rfl, ?_⟩; revert all; decide
theorem wit_stop_all : (armed false (gang sl0)).debugged 0 = true ∧ 0 / 4096 = 0 ∧ (Map.find? (armed false (gang sl0)).ctxs 0).isSome = true := by decide
theorem wit_step_resume : Has (armed false { gang sl0 with stopped := true }) 0 { gang sl0 with stopped := true } ∧
    (armed false { gang sl0 with stopped := true }).debugged 0 = true := ⟨rfl, by decide⟩

/-- A token in the submission registers: its kind, its device, and a nonce; and the nonce registers. -/
def tokened (kind ident nonce held : BitVec 64) : State :=
  (((((world []).setReg 0 regDbgtok (1 + kind * 0x100000000)).setReg 0 (regDbgtok + 8) ident).setReg 0 (regDbgtok + 16) nonce).setReg 0 regAttnonce held).setReg
    0 0x30050 1
def tokenForm (s : State) : Bool :=
  decide (tokenField s 0 0 4 = 1) && (decide (tokenField s 0 4 4 = 1) || decide (tokenField s 0 4 4 = 2)) && ((s.token 0).drop 0xB34).all (· == 0)
def tokenIdent (s : State) : Bool := decide (tokenField s 0 8 8 = (s.ident 0).toNat)
def tokenFresh (s : State) : Bool := ((s.token 0).drop 0x10).take 32 == s.nonce 0 && (((s.token 0).drop 0x10).take 32).any (· != 0)
theorem wit_token_submit : (Map.find? (world []).parts 0).isSome = true ∧ ((world []).reg 0 0x30050).toNat % 4 ≠ 1 := by decide
theorem wit_token_checked : ((tokened 0 0 0 0).reg 0 0x30050).toNat % 4 = 1 := by decide
theorem wit_token_form : tokenForm (tokened 0 0 0 0) = false := by decide
theorem wit_token_ident : tokenForm (tokened 1 0 0 0) = true ∧ tokenIdent (tokened 1 0 0 0) = false := by decide
theorem wit_token_nonce : tokenForm (tokened 1 0x300000 9 0) = true ∧ tokenIdent (tokened 1 0x300000 9 0) = true ∧ tokenFresh (tokened 1 0x300000 9 0) = false := by
  decide
/-- The clauses on the signature rest on an opaque function, so that no witness can give its value; this token meets all before it. -/
theorem wit_token_passes : tokenForm (tokened 1 0x300000 9 9) = true ∧ tokenIdent (tokened 1 0x300000 9 9) = true ∧ tokenFresh (tokened 1 0x300000 9 9) = true := by
  decide
theorem wit_token_state : tokenForm (tokened 2 0x300000 9 9) = true ∧ tokenFresh (tokened 2 0x300000 9 9) = true ∧
    tokenField (tokened 2 0x300000 9 9) 0 4 4 = 2 ∧ (tokened 2 0x300000 9 9).device.lifecycle ≠ 0 := by decide
theorem wit_lifecycle : (world []).device.lifecycle = 1 := by decide

/-! ## Witnesses: copies and tiles -/

/-- A command of gang 0 with registers, and one that is a copy of 32 bytes from 0x200000 to 0x200100. -/
def command (op : CmdOp) (regs : List Word64) : Cmd := { (gang sl0).command sl0 op false wd regs with id := 20 }
def copy32 : Cmd := command .cpy [0x200100, 0x200000, 32, 0]
def queued (c : Cmd) : State := { world [] with cmds := [c] }
def run32 : CopyRun := { cmd := copy32, active := true, done := [], rowIx := [], poison := false, ended := none, deadCell := false }
def copying (r : CopyRun) : State := { world [] with copies := [r] }

theorem wit_copy_activate : (queued copy32).cmds.find? (fun x => x.id == copy32.id && x.op.engine == .copy) = some copy32 ∧
    (queued copy32).fenced 0 3 0 = false ∧ (queued copy32).mayStart copy32 = true ∧ (queued copy32).headOfQueue copy32 = true ∧
    (queued copy32).activeCopies 0 < 8 := by decide
/-- The copy waits on slot 2 of its strand. -/
def copyGuarded : Cmd := { copy32 with guard := some 2, gstate := .unresolved }
theorem wit_resolve_guard : (∀ c ∈ (queued copyGuarded).cmds, c.op ≠ .mq) ∧ (∀ c ∈ (queued copyGuarded).cmds, c.op ≠ .mtile ∧ c.cell = 0) ∧
    (queued copyGuarded).waitingOn 1 2 = [copyGuarded] := by decide
theorem wit_copy_feset : (queued (command .feset [0xFE00000000000000, 16, 0])).mayStart (command .feset [0xFE00000000000000, 16, 0]) = true ∧
    (command .feset [0xFE00000000000000, 16, 0]).dstGranules = [0] := by decide

/-- One granule of an active copy is read and reached. -/
def granuleGoes (s : State) (r : CopyRun) (n : Nat) : Bool :=
  match r.cmd.piece n with
  | none => false
  | some x =>
    match s.pieceSource r x with
    | (.inl src, s0) =>
      match s0.engineRead r.cmd r.cmd.core src x.len, apertureOf x.dst with
      | (.ok _ _, s1), some ap =>
        match r.cmd.segs.limit ap x.dst x.len with
        | .ok p => match s1.engineReach r.cmd true r.cmd.core p x.len with
          | (.ok _ _, _) => true
          | _ => false
        | _ => false
      | _, _ => false
    | _ => false
theorem wit_copy_granule : (copying run32).copies.find? (fun r => r.cmd.id == copy32.id) = some run32 ∧ (copying run32).ctxSaved 0 = false ∧
    (copying run32).engineWaits (.copy 20) = false ∧ granuleGoes (copying run32) run32 0 = true := by decide
theorem wit_copy_scratch : granuleGoes (copying run32) { run32 with cmd := { command .cpy [0xFE00000000000010, 0x200000, 16, 0] with segs := slScr.segs } } 0 = true := by
  decide
theorem wit_copy_complete : { run32 with done := [0, 1, 2, 3] }.complete = true ∧ copy32.cell = 0 := by decide
theorem wit_copy_signals : ({ run32 with cmd := command .cpy [0x200100, 0x200000, 32, 0x300000], done := [0, 1, 2, 3] } : CopyRun).complete = true ∧
    (copying run32).ackClear 0 4 = true ∧
    (match ((copying run32).reconcileSource 0 4).reachCell 0 0 0 copy32.segs 0x300000 with | (.at pa, _) => pa == 0x300000 | _ => false) = true := by decide

/-- A tile of 1 × 1 × 8 of i8, its A, B and C in global memory. -/
def tileBytes : List Byte :=
  [0, 4, 4, 0, 0, 1, 0, 0, 1, 0, 0, 0, 1, 0, 0, 0, 8, 0, 0, 0, 0, 0, 0, 0] ++
    ([0x200000, 8, 0, 0x201000, 8, 0, 0, 0x202000, 4, 0, 0, 0, 0].flatMap fun n => toBytes (BitVec.ofNat 64 n) 8)
def tileRun (stage : TileStage) : TileRun := { (command .mtile [0x203000, 1]).runOn 0 1 1 0 stage none with record := tileBytes }
/-- The tile runs on engine 0 with its RPR in a phase. -/
def tiling (stage : TileStage) (phase : Nat) : State :=
  { world [] with tiles := [tileRun stage], matrix := [(0, { Matrix.init with rpr := BitVec.ofNat 64 (phase * 2 ^ 62), owner := some (0, 1) })] }
def isOk {α : Type} (x : Except Halt α × State) (p : α → Bool) : Bool :=
  match x.1 with
  | .ok a => p a
  | _ => false

theorem wit_at_phase : ∀ ph < 3, Running (tiling .run ph) (tileRun .run) ∧ (tileRun .run).stage = .run ∧ (tiling .run ph).engineWaits (.matrix 20) = false ∧
    ((tiling .run ph).engine 0).rpr.toNat / 2 ^ 62 = ph := by simp only [Running]; decide
theorem wit_latch : isOk ((tiling .run 0).work (tileRun .run) ((tileRun .run).readLatch ((tiling .run 0).posOf (tileRun .run)))) (fun x => x.1.length == 1) = true := by
  decide +kernel
theorem wit_compute : isOk ((tiling .run 1).work (tileRun .run) ((tileRun .run).compute ((tiling .run 1).posOf (tileRun .run)))) (fun xs => xs.length == 1) = true ∧
    (tileRun .run).tile.nantrap = false := by decide +kernel
theorem wit_write : isOk ((tiling .run 2).work (tileRun .run) (((tiling .run 2).writeRows (tileRun .run) ((tiling .run 2).posOf (tileRun .run))).mapM fun x => do
      let ps ← reachE (tileRun .run).cmd true (0 + x.1) x.2.1 x.2.2.length
      pure (ps, x))) (fun ws => ws.length == 1) = true := by decide

/-- A weight load of 8 × 1 of i8, and a tile command. -/
def mwld0 : Cmd := command .mwld [0x201000, 8, 0, 0x100000008, 0, 0, 4, 1]
def mtile0 : Cmd := command .mtile [0x203000, 1]
def busy (c : Cmd) : State := { tiling .run 1 with cmds := [{ c with id := 21 }] }
theorem wit_mwld_acquires : (((busy mwld0).acquire 21 ((busy mwld0).queuedLen 21 7) .mwld).tile? 21).map TileRun.stage = some .acquire := by decide
theorem wit_mwld_latches : (queued mwld0).engineWaits (.matrix 20) = false ∧
    (match ((queued mwld0).acquire 20 ((queued mwld0).queuedLen 20 7) .mwld).tile? 20 with
      | some r => r.stage == .start && r.cmd.op == .mwld && r.cmd.regs.getD 5 0 == 0 &&
          ((((queued mwld0).acquire 20 ((queued mwld0).queuedLen 20 7) .mwld).mwldLatch r).tile? 20).map TileRun.stage == some .finish &&
          ((((queued mwld0).acquire 20 ((queued mwld0).queuedLen 20 7) .mwld).mwldLatch r).tile? 20).map TileRun.cmd == some r.cmd
      | none => false) = true := by decide
theorem wit_tile_acquires : (((busy mtile0).acquire 21 ((busy mtile0).queuedLen 21 1) .mtile).tile? 21).map TileRun.stage = some .acquire := by decide
theorem wit_tile_starts : (((queued mtile0).acquire 20 ((queued mtile0).queuedLen 20 1) .mtile).tile? 20).map (fun r => (r.stage, r.cmd.op)) = some (.start, .mtile) := by
  decide
theorem wit_tile_finishes : Running (tiling .finish 3) (tileRun .finish) ∧ (tileRun .finish).stage = .finish ∧ (tileRun .finish).tile.cell = 0 ∧
    (tiling .finish 3).ackClear 0 4 = true ∧
    isOk ((tiling .finish 3).work (tileRun .finish) (writeSeenE (tileRun .finish).cmd 0 ((tileRun .finish).at_ + 0x68) (toBytes (0 : Word64) 8))) (fun _ => true) = true := by
  simp only [Running]; decide
theorem wit_tile_retires : Running (tiling .retire 3) (tileRun .retire) ∧ (tileRun .retire).cmd.op ≠ .mwld ∧ (tileRun .retire).tile.succ = 0 ∧
    (tileRun .retire).tile.more = 0 ∧ (tileRun .retire).next < 2 ^ 40 ∧ (tileRun .retire).node = none := by simp only [Running]; decide
/-- A ready record of tier C, and one of tier Q whose chain of two does not fit in quadrant 3. -/
def mq0 : MqRec := { cmd := command .mq [0x203000, 1], pa := some 0x203000, ready := some 0, len := none, node := none }
def mq3 : MqRec := { cmd := { command .mq [0x203000, 0] with quad := 3 }, pa := some 0x203000, ready := some 0, len := some 2, node := none }
theorem wit_mq_starts : (fun s : State => s.mqs.find? (fun x => x.cmd.id == 20) = some mq0 ∧ s.mqNever mq0 = false ∧ s.mqMay mq0 3 = true ∧
    s.mqEarlier 0 3 1 = false) { world [] with mqs := [mq0] } := by decide
theorem wit_mq_never : ({ world [] with mqs := [mq3] } : State).mqNever mq3 = true := by decide

/-! ## Witnesses: rays, marches, seals, launches, placement -/

/-- A ray of gang 0's strand at a phase with a status, and its machine. -/
def ray (phase : RayPhase) (code : Nat) : Ray :=
  { id := 30, cmd := { command .trace [0x200000, 0xFD00000000000000] with segs := slRay.segs }, gid := 0, lix := 0, k := 0, word := 0, rings := [0, 1, 2, 3, 4]
    slotAt := 0x700000, phase := phase, spilled := false, o := [0, 0, 0], d := [0, 0, 0x3F800000], tmin := 0, tmax := 0x7F800000, tagged := false, flags := 0
    limit := 0x7F800000, best := none, cands := [], verdicts := [], stack := [], inSlot := 0, code := code, reason := 0 }
def rays (r : Ray) : State := { world [gang slRay] with rays := [r] }
theorem wit_ray_due : ∀ code < 5, (rays (ray .due code)).ray? 30 = some (ray .due code) ∧ (rays (ray .due code)).ctxSaved 0 = false ∧
    (rays (ray .due code)).engineWaits (.ray 30) = false := by decide
/-- A slot's words are written, or the page of the slot is not there. -/
def written (s : State) (r : Ray) (st n : Nat) : Option State :=
  match s.writeSlot r.cmd r.slot st n with
  | (.ok (), t) => some t
  | _ => none
theorem wit_ray_slot : (written (rays (ray .due 0)) (ray .due 0) 0 128).map (fun t => t.ray? 30) = some (some (ray .due 0)) := by decide
def farRay : Ray := { ray .due 0 with cmd := { (ray .due 0).cmd with segs := { slRay.segs with stkb := 0x100000000 } } }
theorem wit_ray_slot_fault : written (rays farRay) farRay 0 128 = none := by decide
theorem wit_ray_refused : (rays (ray .refused 4)).ray? 30 = some (ray .refused 4) ∧ (ray .refused 4).spilled = false := by decide
theorem wit_ray_spill : (rays (ray .pending 2)).rays.find? (fun x => x.cmd.core == 0 && x.phase == .pending && !x.spilled && x.code != 4 &&
      !(rays (ray .pending 2)).engineWaits (.ray x.id)) = some (ray .pending 2) ∧
    (written (rays (ray .pending 2)) (ray .pending 2) 2 1024).map (fun t => t.rays) = some [ray .pending 2] := by decide
def march0 : March := { cmd := command .march [0x200000, 0xFD00000000000000, 0xFE00000000000000, 0xFE00000000004000, 0], word := 0, rings := [0, 1], lanes := [], poison := false
                        spilled := false, wrote := false }
theorem wit_march : (fun s : State => s.marches.find? (fun x => x.cmd.id == 20) = some march0 ∧ march0.busyLane = none ∧ s.engineWaits (.ray 20) = false ∧
    march0.cmd.cell = 0 ∧ march0.rings ≠ [] ∧ (s.marchSlots march0 (fun _ => 0) 128 march0.lanes).1 = true) { world [] with marches := [march0] } := by decide
/-- A seal of pass 5 waits; the Larder storage has `size` bytes in each group. -/
def seal5 : LarderOp := { cmd := command .larder [5], kind := .seal, k := 0, word := 0, rings := [], key := some 8, stage := 1, vertex := 0, record := [], found := []
                          chain := [], units := [], pc := 0x1000, dead := none }
def sealing (size : Nat) (slots : Map Slot) : State :=
  { world [] with larder := [seal5], parts := [(0, { Part.reset with larderSize := size, slots := slots })] }
theorem wit_seal : (sealing 0x10000000 []).sealing 0 5 = true ∧ (sealing 0x10000000 []).verticesOf 0 5 = [] := by decide
theorem wit_seal_full : ((sealing 0 []).part 0).findArea (sealing 0 []).nextId 0 (gridSize 0) = none := by
  simp only [Part.findArea]
  rw [show ((sealing 0 []).part 0).shareRange 0 = some (0x8000, 0) by decide]
  simp [Part.areaFree, gridSize, sealing, world, mapped, machine, State.part]
  all_goals rfl
theorem wit_seal_fits : ∃ off, ((sealing 0x10000000 []).part 0).findArea (sealing 0x10000000 []).nextId 0 (gridSize 0) = some off := by
  simp only [Part.findArea]
  rw [show ((sealing 0x10000000 []).part 0).shareRange 0 = some (0x8000, 0x10000000) by decide]
  dsimp only
  split
  · exact ⟨_, rfl⟩
  · exact ⟨0x8000, by decide⟩
/-- A READY vertex of pass 5, its record poisoned. -/
def poisonedRecord : State :=
  { sealing 0x10000000 [(5 * 2 ^ 24, { state := .ready })] with bad := [(((sealing 0x10000000 []).part 0).larderAddr 0).getD 0 / 32] }
theorem wit_seal_poisoned : 5 * 2 ^ 24 ∈ poisonedRecord.verticesOf 0 5 ∧ (poisonedRecord.slotOf 0 (5 * 2 ^ 24)).state = .ready ∧
    (poisonedRecord.recordAt 0 (5 * 2 ^ 24)).2 = true := by decide

/-- A directory entry of graph 0 in the Loft: one node, one instance at 0x500000. -/
def directory0 : List Byte := [64, 0, 0, 0, 1, 0, 1, 0, 0, 0, 4, 0, 0, 0, 0, 0, 0, 0, 0x50, 0, 0, 0, 0, 0, 1, 0]
def launching (ws : List Waiting) : State :=
  { (world []).writeHome (((world []).part 0).loftAddr 0 |>.getD 0) directory0 with waiting := ws }
def waiting0 : Waiting := { id := 7, part := 0, words := List.replicate 8 0, checked := none, inst := none, dead := 0 }
theorem wit_launch_queued : Map.find? (world []).parts 0 = some Part.reset ∧ (List.replicate 8 (0 : BitVec 64)).length = 8 ∧ ((world []).waitingIn 0).length < 64 ∧
    Part.reset.power < 2 ∧ (world []).reg 0 0x68200 = 0 := by decide
theorem wit_launch_dropped : ¬ ((List.replicate 7 (0 : BitVec 64)).length = 8 ∧ ((world []).waitingIn 0).length < 64 ∧ Part.reset.power < 2 ∧
    (world []).reg 0 0x68200 = 0) := by decide
theorem wit_launch_order : (launching [waiting0]).launchOrder 0 = [waiting0] ∧ (launching []).launchOrder 0 = [] := by decide
theorem wit_launch_refused : (match ({ world [] with waiting := [waiting0] } : State).checkLaunch waiting0 (({ world [] with waiting := [waiting0] } : State).directory 0 0) with
    | (.refuse r, _) => r == 1 | _ => false) = true := by decide
/-- A launch that has its instance, which counts against the 256. -/
theorem wit_launch_taken : (launching [{ waiting0 with inst := some 0 }]).takenIn 0 ≠ [] ∧ (launching [{ waiting0 with inst := some 0 }]).launchOrder 0 = [] := by decide
theorem wit_launch_accepted : (launching [waiting0]).launchOrder 0 = [waiting0] ∧ (launching [waiting0]).takenIn 0 = [] ∧
    (launching [waiting0]).slotsUsed 0 < 256 ∧ waiting0.checked = none ∧ waiting0.graph = 0 ∧ waiting0.ind = false ∧
    ((launching [waiting0]).directory 0 0).valid = true ∧ ((launching [waiting0]).directory 0 0).ranges = true ∧
    (Map.find? (launching [waiting0]).ctxs ((launching [waiting0]).directory 0 0).ctx).isSome = true ∧ (launching [waiting0]).taskWaits 7 = false ∧
    (launching [waiting0]).freeInstance 0 0 1 = some 0 ∧
    (match (launching [waiting0]).run (reachE (taskCmd 7 0 0) true 0 0x500000 (instanceSize 1)) with | (.ok _, _, _) => true | _ => false) = true := by decide

/-- A node of launch 3, and the launch with it. -/
def node0 : Node := { remaining := 0, started := false, done := false, retired := false, released := false, tcb := [], succ := [], left := 0, status := 0, preds := []
                      srcs := [], dead := 0 }
def noded (y : Node) (base : Nat) : State := { world [] with launches := [{ launch3 with base := base, nodes := [(0, y), (1, node0)] }] }
theorem wit_node_in : InLaunch (noded node0 0x500000) 3 0 { launch3 with nodes := [(0, node0), (1, node0)] } node0 := ⟨rfl, rfl⟩
theorem wit_node_starts : (noded node0 0x500000).taskWaits (nodeKey 3 0) = false ∧ ((noded node0 0x500000).tcbRaw 0 64 0).2 = false ∧
    (match (noded node0 0x500000).run (readHomeE (taskCmd (nodeKey 3 0) 0 0) 0 0x500000 2048) with | (.ok _, _, _) => true | _ => false) = true :=
  ⟨by decide, by decide, by decide⟩
theorem wit_node_faults : (match (noded node0 0x100000000).run (readHomeE (taskCmd (nodeKey 3 0) 0 0) 0 0x100000000 2048) with
    | (.error (.fault _), _, _) => true | _ => false) = true := by decide
theorem wit_node_unread : (({ noded node0 0x500000 with bad := [(((world []).part 0).loftAddr 64 |>.getD 0) / 32] } : State).tcbRaw 0 64 0).2 = true := by decide
def node1 : Node := { node0 with started := true, released := true, succ := [(1, false)] }
def cellPa (s : State) : Option Nat := match s.nodeCell { launch3 with nodes := [(0, node1), (1, node0)] } 0 with
  | (.at pa, _) => some pa
  | _ => none
/-- A node of one member whose trigger successor is node 1. -/
def nodeT : Node := { node0 with started := true, tcb := List.replicate 0x38 0 ++ [1], succ := [(1, true)] }
/-- Its launch: node 1 waits for one release. -/
def launchT : Launch := { launch3 with base := 0x500000, nodes := [(0, nodeT), (1, { node0 with remaining := 1 })] }
def triggering : State := { world [] with launches := [launchT] }
theorem wit_note_trigger : InLaunch triggering 3 0 launchT nodeT ∧ fieldOf nodeT.tcb 0x38 8 = (Map.get [] triggering.trig (65536 * 3) ++ [Src.quad 0]).length ∧
    Map.find? launchT.nodes 1 = some { node0 with remaining := 1 } ∧ node0.started = false := ⟨⟨rfl, rfl⟩, by decide, rfl, rfl⟩
theorem wit_note_trigger_not_last : fieldOf nodeT.tcb 0x38 8 ≠ ([Src.quad 1] ++ [Src.quad 0]).length := by decide
theorem wit_node_retires : cellPa (noded node1 0x500000) = some 0x500800 ∧ (noded node1 0x500000).cellCount 0x500800 = 0 := by decide
theorem wit_node_waits : cellPa ((noded node1 0x500000).initCell 0x500800 1) = some 0x500800 ∧ 0 < ((noded node1 0x500000).initCell 0x500800 1).cellCount 0x500800 := by
  decide
theorem wit_host_node : InLaunch (noded { node1 with tcb := [5] } 0x500000) 3 0 { launch3 with nodes := [(0, { node1 with tcb := [5] }), (1, node0)] } { node1 with tcb := [5] } ∧
    fieldOf ({ node1 with tcb := [5] } : Node).tcb 0 1 = 5 ∧ node1.done = false ∧ node1.preds = [] := ⟨⟨rfl, rfl⟩, by decide, rfl, rfl⟩

/-- A brood of `n` strands at 0x300000. -/
def brood (tier n : Nat) : Spawn :=
  { id := 8, brood := 9, part := 0, ctx := 0, tier := tier, quad := 0, prio := 0, node := none, launch := none, stage := none, pc := 0x300000, cell := 0, arg := 1, args := []
    count := n, next := 0, kib := 0, lregs := 64, ftz := false, nantrap := false, priv := true, tvec := 0x2000, glbb := 0, glbl := 0x100000000000000, attic := 0
    depth := 0, srcs := [.quad 0] }
/-- A context with an Attic pool of 1 MiB. -/
def pooled : State := { world [] with ctxs := [(0, { ctx0 false with pool := (0x800000, 0x100000), free := [(0x800000, 0x100000)] })] }
def spawning (e : Spawn) : State := { pooled with spawns := [e] }
theorem wit_place : ∀ tier < 2, (spawning (brood tier 8)).spawns.find? (fun x => x.id == 8) = some (brood tier 8) ∧ (spawning (brood tier 8)).mayPlace (brood tier 8) 0 = true := by
  decide
theorem wit_place_more : (spawning (brood 0 9)).mayPlace (brood 0 9) 0 = true ∧ (brood 0 9).next + 8 < (brood 0 9).count := by decide
def stageShare : Stage := { stage0 with shares := [0], queue := [record2] }
def staged (y : Stage) : State := { pooled with launches := [{ launch3 with stages := [y], nodes := [(0, { node1 with retired := true }), (1, { node1 with retired := true })] }] }
theorem wit_stage_take : ((staged stageShare).launch? 3).map Launch.stages = some [stageShare] ∧ (staged stageShare).stage? 3 1 = some stageShare ∧
    (staged stageShare).fenced 0 0 0 = false ∧ (staged stageShare).ctxHeld 0 = false ∧
    0 < (staged stageShare).takeable { launch3 with stages := [stageShare] } stageShare 0 ∧
    (∀ w ∈ (staged stageShare).works, w.part = 0 → w.prio < 0 → (staged stageShare).wants w 0 = false) := by decide
theorem wit_stage_end : ((staged stage0).launch? 3).map (fun x => ((staged stage0).endingStages x).map Stage.node) = some [1] := by decide
theorem wit_rebalance : Map.find? (world []).parts 0 = some Part.reset ∧ 4096 % 4096 = 0 ∧ 4096 / 4096 ≠ Part.reset.period := by decide

/-! ## Witnesses: the fabric -/

/-- A machine with communicator 0 of two members, this device first; its primary and standby by their device identifiers; and what it holds of
the communicator, changed. -/
def linkBytes (primary standby : Byte) (standbyHi : Byte) : List Byte :=
  [2, 0, 1, 0, primary, 0, standby, standbyHi, 0, 0, 0, 0, 5, 0, 0, 0, 0x40, 0, 0x60, 0, 0, 0, 0, 0]
def linked (primary standby standbyHi : Byte) (f : Comm → Comm) : State :=
  let s := (((world []).writeHome 0x600000 (linkBytes primary standby standbyHi)).writeHome 0x600040 [0, 0, 9, 0]).setReg 0 regCtabBase 0x600000
  match s.comm? 0 0 with
  | some (_, c) => s.setComm 0 0 (f c)
  | none => s
def held (s : State) : Option Comm := (s.comm? 0 0).map Prod.snd
/-- This device is the primary without a standby; the standby of device 9; a member of device 9. -/
def primaryAlone : State := linked 0 0xFF 0xFF id
def standbyHere : State := linked 9 0 0 id
def memberHere : State := linked 9 0xFF 0xFF id

def packet (signal : Bool) (origin : Nat) : Packet :=
  { comm := 0, va := 0x200000, data := [1, 2], bad := [], signal := signal, origin := origin, op := 40 }
def entry0 : CommEntry := (primaryAlone.entry? 0 0).getD { at_ := 0, image := [], nmem := 0, flags := 0, primary := 0, standby := 0, ctx := 0, self := 0, seq0 := 0, members := 0 }
theorem wit_arrives : primaryAlone.portsUp 0 = true ∧ (primaryAlone.part 0).power ≠ 1 ∧ (primaryAlone.entry? 0 0).isSome = true ∧ entry0.valid = true ∧
    (packet false 5).va.extractLsb' 56 8 = 0 ∧ primaryAlone.engineWaits (.packet 40 0x200000) = false ∧ primaryAlone.partOf 5 = none ∧
    primaryAlone.partOf 0 = some 0 := by decide
/-- Which core makes a target's translations is a free value; whatever the core is, its accesses reach the page. -/
theorem wit_packet_reaches : (match primaryAlone.run (reachE (incoming 0 0 40) true 0 0x200000 2) with | (.ok _, _, _) => true | _ => false) = true := by decide
theorem wit_packet_signals : (match primaryAlone.reachCell (incoming 0 0 40).core 0 0 rootSegs 0x200000 with | (.at _, _) => true | _ => false) = true := by
  decide

/-- An FPUT of two bytes to member `m` with a packet on its way, and one that is over. -/
def fputCmd (m : Nat) (cell : Word64) : Cmd := { command .fput [BitVec.ofNat 64 m, 0x200000, 0x300000, 2, cell, 0] with id := 40 }
def flight0 (heldBack again : Bool) : Flight := { p := packet false 0, sent := 0, again := again, held := heldBack, failed := false }
def put0 (m : Nat) (fs : List Flight) (cell : Word64) : PutRun :=
  { cmd := fputCmd m cell, sent := 1, flight := fs, owed := 1, signalled := false, status := 0, ended := false, deadCell := false }
def putting (r : PutRun) : State := { primaryAlone with puts := [r], cycle := 3000000 }
theorem wit_packet_local : (putting (put0 0 [flight0 false false] 0)).partOf ((putting (put0 0 [flight0 false false] 0)).targetOf (fputCmd 0 0)) = some 0 ∧
    ((put0 0 [flight0 false false] 0).flight.any fun f => f.p == packet false 0 && !f.held) = true := by decide
theorem wit_ack : (putting (put0 0 [flight0 true false] 0)).puts.find? (fun x => x.cmd.id == 40 && x.cmd.core == 0 && !x.ended) = some (put0 0 [flight0 true false] 0) ∧
    (put0 0 [flight0 true false] 0).flight.find? (fun x => x.held) = some (flight0 true false) := by decide
theorem wit_ack_remote : ((putting (put0 1 [flight0 false false] 0)).partOf ((putting (put0 1 [flight0 false false] 0)).targetOf (fputCmd 1 0))).isSome = false := by
  decide
theorem wit_fput_over : (put0 0 [] 0).over = true ∧ (putting (put0 0 [] 0)).engineWaits (.fabric 40) = false ∧ (put0 0 [] 0).cmd.cell = 0 := by decide
theorem wit_fput_signals : (put0 0 [] 0x400000).cmd.cell ≠ 0 ∧
    (match (putting (put0 0 [] 0x400000)).reachCell 0 0 0 (fputCmd 0 0).segs 0x400000 with | (.at pa, _) => pa == 0x400000 | _ => false) = true := by decide
theorem wit_resend : (put0 1 [flight0 false false] 0).flight[0]? = some (flight0 false false) ∧ 3000000 ≤ (putting (put0 1 [flight0 false false] 0)).cycle - (flight0 false false).sent := by
  decide
theorem wit_path_failure : (flight0 false true).again = true ∧ (∀ x ∈ (putting (put0 1 [flight0 false true] 0)).gets, x.cmd.id ≠ 40) := by decide

/-- An FGET of two bytes from member `m`, in one packet. -/
def part0 (again : Bool) (reply : Option (List Byte × NatSet × Bool)) : GetPart := { sent := 0, again := again, reply := reply, done := false }
def get0 (m : Nat) (again : Bool) (reply : Option (List Byte × NatSet × Bool)) : GetRun :=
  { cmd := { command .fget [BitVec.ofNat 64 m, 0x200000, 0x300000, 2, 0] with id := 41 }, parts := [part0 again reply], stuck := 0, status := 0, ended := false, deadCell := false }
def getting (r : GetRun) : State := { primaryAlone with gets := [r], cycle := 3000000 }
theorem wit_target_read : (get0 0 false none).asks 0x200000 2 = some 0 ∧
    (getting (get0 0 false none)).partOf ((getting (get0 0 false none)).targetOf (get0 0 false none).cmd) = some 0 ∧
    (match (getting (get0 0 false none)).run (readMarkedE (incoming 0 0 41) 0 0x200000 2) with | (.ok _, _, _) => true | _ => false) = true := by decide +kernel
theorem wit_fget_completes : (getting (get0 0 false (some ([7, 8], [], false)))).gets.find? (fun x => x.cmd.id == 41 &&
      !(getting (get0 0 false (some ([7, 8], [], false)))).engineWaits (.fabric 41)) = some (get0 0 false (some ([7, 8], [], false))) ∧
    [7, 8].length = (get0 0 false none).cmd.packetLen 0 ∧ (get0 0 false none).cmd.packetAt 0 = 0 ∧ (get0 0 false none).cmd.cell = 0 ∧
    (match (getting (get0 0 false none)).run (reachE (get0 0 false none).cmd true 0 0x300000 2) with | (.ok _, _, _) => true | _ => false) = true := by decide
theorem wit_fget_resend : ∀ again, (∀ x ∈ (getting (get0 1 again none)).puts, x.cmd.id ≠ 41) ∧ 3000000 ≤ (getting (get0 1 again none)).cycle - (part0 again none).sent ∧
    (get0 1 again none).parts[0]? = some (part0 again none) := by
  decide

/-- A COLL of key 0 in a communicator of two, an ALLREDUCE of one element, at a stage. -/
def coll0 (st : CollStage) : CollRun :=
  { cmd := { command .coll [0, 0x200000, 0x300000, 1, 0, 0] with id := 42 }, stage := st, since := 0, src := [0, 0, 0, 0], dst := [], failed := false, status := 0, report := false
    deadCell := false }
def collecting (st : CollStage) : State := { primaryAlone with colls := [coll0 st] }
theorem wit_coll_at : ∀ st ∈ [CollStage.started, .running], CollAt (collecting st) 0 0 st (coll0 st) ∧ ((collecting st).comm? 0 (commOf 0)).isSome = true := by
  simp only [CollAt]; decide
theorem wit_coll_differs : ([(1, 1)] : List (BitVec 64 × BitVec 64)).length + 1 = entry0.nmem ∧
    ((1 : BitVec 64), (1 : BitVec 64)) ≠ ((coll0 .started).cmd.regs.getD 4 0, (coll0 .started).cmd.regs.getD 3 0) := by decide
theorem wit_coll_agrees : ((0 : BitVec 64), (1 : BitVec 64)) = ((coll0 .started).cmd.regs.getD 4 0, (coll0 .started).cmd.regs.getD 3 0) := by decide
theorem wit_coll_sizes : collSizes (ctlOf 0) 2 1 = (4, 4) := by decide
theorem wit_coll_reaches : (match (collecting .started).run (reachE (coll0 .started).cmd true 0 0x300000 4) with | (.ok _, _, _) => true | _ => false) = true := by
  decide
theorem wit_coll_reads : (match (readHomeE (coll0 .started).cmd 0 0x200000 4).run (collecting .started, false) with | (.ok _, _, _) => true | _ => false) = true := by
  decide
theorem wit_coll_completes : [[1, 0, 0, 0], [2, 0, 0, 0]].length = entry0.nmem ∧ (collSizes (ctlOf 0) 2 1).1 = 4 ∧ (coll0 .running).failed = false := by decide
theorem wit_coll_waited : ({ collecting .running with gangs := [parked (.await [0x300000] false)] } : State).hitsWaiter 0x300000 4 = true ∧
    ({ coll0 .running with dst := [(0, 0x300000, 4)] } : CollRun).dst.find? (fun p =>
      ({ collecting .running with gangs := [parked (.await [0x300000] false)] } : State).hitsWaiter p.2.1 p.2.2) = some (0, 0x300000, 4) := by decide
theorem wit_communicator_failure : ((memberHere.comm? 0 0).map fun p => (p.1.hasStandby, p.1.primary, p.1.failed)) = some (false, 9, false) ∧ memberHere.devid 0 = 0 ∧
    (∀ r ∈ memberHere.colls, r.cmd.part = 0 → commOf (r.cmd.regs.getD 0 0) ≠ 0) := by decide

/-! ## Witnesses: sequencers and members -/

/-- A key that this device has registered under number 5, in a state. -/
def seqKey (st : KeyState) : SeqKey := { key := 0, number := 5, state := st, regs := [0], started := [], done := [] }
def seqWith (ks : List SeqKey) : Sequencer :=
  { role := .primary, epoch := 0, next := 6, keys := ks, busy := none, since := 0, heard := 0, degraded := false }
theorem wit_may_ask : (∀ due, (if primaryAlone.selfOf 0 entry0 = some 1 then due = true else primaryAlone.portsUp 0 = true)) ∧ 1 < entry0.nmem ∧ commOf 0 = 0 ∧
    (primaryAlone.part 0).power ≠ 1 ∧ (primaryAlone.comm? 0 0).isSome = true := by decide
theorem wit_may_ask_self : (collecting .waiting).issued 0 0 = true ∧ (collecting .waiting).selfOf 0 entry0 = some 0 ∧
    (held (linked 0 0xFF 0xFF fun c => { c with asked := [{ ask := .register, key := 0, since := 0, sent := 0, toward := 0 }] })).map (fun c =>
      c.asked.any fun r => r.ask == .register && r.key == 0 && r.toward == (collecting .waiting).devid 0) = some true := by decide
theorem wit_handles : Handles (seqWith []) ∧ (seqWith []).key? 0 = none ∧ (seqWith []).full = false ∧ (held primaryAlone).map (fun c => c.seq.role) = some .primary := by
  simp only [Handles]; decide
theorem wit_handles_full : Handles { seqWith [{ seqKey .assigned with key := 1, number := 6 }] with next := 65542 } ∧
    ({ seqWith [{ seqKey .assigned with key := 1, number := 6 }] with next := 65542 } : Sequencer).full = true ∧
    ({ seqWith [{ seqKey .assigned with key := 1, number := 6 }] with next := 65542 } : Sequencer).key? 0 = none := by simp only [Handles]; decide
theorem wit_handles_key : ∀ st, (seqWith [seqKey st]).key? 0 = some (seqKey st) := by intro st; cases st <;> rfl
theorem wit_last_report : ((seqKey .started).state = .started) ∧ 1 ≤ (NatSet.put (seqKey .started).done 0).length := by decide

/-- A grant that waits for the standby. -/
def grant0 : Grant := { ask := .register, m := 0, key := 0, number := 5, state := .assigned, notice := none }
theorem wit_standby_ack : (held (linked 0 9 0 fun c => { c with seq := { c.seq with busy := some grant0 } })).map (fun c => (c.seq.busy, c.seq.role)) =
    some (some grant0, .primary) := by decide
theorem wit_replication : (held standbyHere).map (fun c => (c.seq.role, c.seq.epoch)) = some (.standby, 0) := by decide
theorem wit_takeover : (held standbyHere).map (fun c => decide (3000000 ≤ 3000000 - c.seq.heard)) = some true := by decide
theorem wit_degraded : (held (linked 0 9 0 fun c => { c with seq := { c.seq with busy := some grant0 } })).map (fun c => decide (6000000 ≤ 6000000 - c.seq.since)) =
    some true := by decide
theorem wit_epoch_fence : (held primaryAlone).map (fun c => (c.seq.role, decide (c.seq.epoch < 1))) = some (.primary, true) := by decide
/-- A request without a reply: it was sent at cycle 0. -/
def request0 : Asked := { ask := .register, key := 0, since := 0, sent := 0, toward := 9 }
def requesting : State := linked 9 7 0 fun c => { c with asked := [request0] }
theorem wit_request_retry : (requesting.comm? 0 0).map (fun p => (p.1.hasStandby, p.2.epoch, p.2.asked.find? fun r => r.key == 0 && decide (750000 ≤ 4500000 - r.sent))) =
    some (true, 0, some request0) := by decide
theorem wit_takeover_notice : (requesting.comm? 0 0).map (fun p => (p.1.hasStandby, decide (p.2.epoch < 1))) = some (true, true) := by decide

/-- A member of device 9's communicator that knows number 5. -/
def knows (n : BitVec 32) (asking : Bool) : State :=
  linked 9 0xFF 0xFF fun c => { c with known := [{ number := n, key := 0, void := false, asking := asking, mine := true }] }
theorem wit_notice_assigned : (held memberHere).map (fun c => (c.seq.role, precedes 6 c.low, c.known)) = some (.none, false, []) := by decide
theorem wit_notice_retired : precedes 4 5 = true ∧ (held memberHere).map Comm.low = some 5 := by decide
theorem wit_notice_go : (held (knows 5 true)).map (fun c => (c.low, (c.known.find? fun k => k.number == c.low).map Known.asking, c.known.all fun x => x.number != c.low + 1)) =
    some (5, some true, true) := by decide
def query0 : Query := { cmd := command .coll [], cancel := true, key := 0, word := 0, reg := 9, since := 0, sent := true }
theorem wit_notice_answer : ({ memberHere with queries := [query0, { query0 with cancel := false }] } : State).queriesOf 0 true 0 = [query0] ∧
    (held memberHere).map (fun c => c.seq.role) = some .none := by decide
def registered : State := linked 0 0xFF 0xFF fun c => { c with seq := seqWith [{ seqKey .assigned with regs := [1] }] }
theorem wit_member_lost : (held registered).map (fun c => (c.seq.role, c.seq.degraded, c.seq.busy, (c.seq.keys.find? fun k => k.state == .assigned && k.regs.contains 1).map SeqKey.key)) =
    some (.primary, false, none, some 0) ∧ registered.selfOf 0 entry0 ≠ some 1 := by decide

/-! ## Witnesses: reliability -/

theorem wit_scrub : (world []).populated 0x200000 = true ∧ (world []).partOfDie (homeOf 0x200000 / 4) = some 0 ∧ 0x200000 / 32 ∉ (world []).bad ∧
    0x200000 / 8 ∉ (world []).bad8 := by decide
theorem wit_scrub_again : 0x200000 / 32 ∈ ({ world [] with bad := [0x200000 / 32] } : State).bad := by decide
theorem wit_register_error : (world [gang sl0]).gangs[0]? = some (gang sl0) ∧ (gang sl0).slices[0]? = some sl0 ∧ sl0.sid = 1 := by decide
theorem wit_errcnt_clear : 15 < 16 ∧ 15 ∈ ((world []).part 0).groups := by decide
/-- A unit of kind 6 that fails a test, with tests and fencing on. -/
def failing : TestRun := { kind := 6, unit := 0, test := 3, image := [], outputs := [] }
def testing : State := { ((world []).setReg 0 0x68100 0x10003) with cycle := 3000000 }
/-- Whether the image is signed, and which outputs it asks for, is open: each answer has its clause. -/
theorem wit_field_test : (testing.reg 0 0x68100).getLsbD 0 = true ∧ (testing.reg 0 0x68100).getLsbD 1 = true ∧ testing.dump = [] ∧ (testing.part 0).power < 2 ∧
    (testing.reg 0 0x68100).toNat / 65536 % 65536 = 1 ∧ (testing.part 0).testedAt + 1 * 3000000 ≤ testing.cycle ∧ failing.kind < 7 ∧
    unitDie failing.kind failing.unit ∈ Part.reset.dies ∧ testing.unitBusy 0 6 0 = false ∧ testing.slotIdle 0 0 = true := by decide
theorem wit_field_test_quad : ∃ q ∈ unitQuads 6 0, testing.slotIdle 0 q = true := ⟨0, by decide, by decide⟩
theorem wit_field_test_busy : ({ testing with larder := [] } : State).unitBusy 0 9 0 = false ∧ ¬ (({ failing with kind := 7 } : TestRun).kind < 7) := by decide
theorem wit_fatal : (world [gang sl0]).dump = [] ∧ 1 ≤ (6 : Nat) ∧ (6 : Nat) ≤ 6 := by decide

/-- Crews 1 and 2: alone, or a twin pair; and gangs of theirs at a check point. -/
def crew (core : Nat) (partner : Option Nat) (shadow recoverable sync : Bool) : Crew :=
  { part := 0, ctx := 0, core := core, base := 0, bytes := 0, rb := true, twin := partner.isSome, partner := partner, shadow := shadow, recoverable := recoverable
    rolled := false, log := [], barCopy := [], shadows := [gang sl0], since := 0, syncDue := sync, image := none }
/-- A scratchpad of 3 MiB leaves the L1 nothing. -/
theorem wit_l1_full : ({ world [] with crews := [(1, { crew 0 none false true false with bytes := 0x300000 })] } : State).l1Room 0 0x4000 = false := by decide
def twinGang (k core : Nat) : Gang := { gang { sl0 with sid := k } with gid := k, og := k, core := core, crew := some k, park := .twin false }
def twins (recoverable sync1 sync2 : Bool) : State :=
  { world [twinGang 1 0, twinGang 2 12] with crews := [(1, crew 0 (some 2) false recoverable sync1), (2, crew 12 (some 1) true recoverable sync2)] }
theorem wit_rollback : (fun s : State => s.rollbacks.find? (fun r => r.1 == 1) = some (1, false) ∧ (Map.find? s.crews 1).map Crew.partner = some none ∧
    s.commandsRun 1 0 = false) { world [] with crews := [(1, crew 0 none false true false)], rollbacks := [(1, false)] } := by decide
theorem wit_twins : ∀ r a b, Map.find? (twins r a b).crews 1 = some (crew 0 (some 2) false r a) ∧ ((twins r a b).crewSlice 1 0).map (fun x => x.1.gid) = some 1 ∧
    ((twins r a b).crewSlice 2 0).map (fun x => x.1.gid) = some 2 ∧ (twins r a b).atCheck (twinGang 1 0) = true ∧ (twins r a b).atCheck (twinGang 2 12) = true := by
  decide
theorem wit_twins_agree : ∀ p ∈ (twinGang 1 0).slices.zip (twinGang 2 12).slices, (twins true false false).agree false (twinGang 1 0, p.1) (twinGang 2 12, p.2) = true := by
  decide
theorem wit_twins_sync : ((twins true true true).crewSlices 1).length = ((twins true true true).crewSlices 2).length ∧
    ∀ x ∈ (twins true true true).crewSlices 1, ((twins true true true).crewSlice 2 x.2.index).any fun y => (twins true true true).agree true x y = true := by decide
theorem wit_twins_differ : (twins true true false).recoverable (crew 0 (some 2) false true true) = true ∧
    (twins true true false).rolledBack (crew 0 (some 2) false true true) = false := by decide
theorem wit_twins_dead : (twins false true false).recoverable (crew 0 (some 2) false false true) = false := by decide

/-! ## Witnesses: power, resets, the host -/

def powerOf (n : Nat) : State := { world [] with parts := [(0, { Part.reset with power := n })] }
theorem wit_power_run : Map.find? (powerOf 2).parts 0 = some { Part.reset with power := 2 } ∧ (powerOf 2).lstat 0 = 0 := by decide
theorem wit_power_refused : (launching [waiting0]).lstat 0 ≠ 0 := by decide
theorem wit_sleep_refused : ∃ e ∈ ({ world [] with parts := [(0, Part.reset), (1, Part.reset)] } : State).parts, e.1 ≠ 0 ∧ e.2.power ≠ 2 :=
  ⟨(1, Part.reset), by decide, by decide, by decide⟩
theorem wit_sleep : ∀ e ∈ (powerOf 0).parts, e.1 ≠ 0 → e.2.power = 2 := by decide
theorem wit_wake : ((powerOf 3).part 0).power = 3 := by decide
theorem wit_idle : (world []).hasWork 0 = false ∧ Part.reset.power = 0 ∧ Part.reset.busyAt + 3000000 ≤ ({ world [] with cycle := 3000000 } : State).cycle := by decide
/-- Whether a boot's stages verify is open: each answer has its clause. RESETCTL's key at partition 0, and another value. -/
theorem wit_boot : (∀ b, bootHalts b = true ∨ bootHalts b = false) ∧ (Map.find? (world []).parts 0).isSome = true ∧ (0x52455344 : BitVec 64) ≠ 0x52455345 :=
  ⟨fun b => by cases bootHalts b <;> simp, by decide, by decide⟩
theorem wit_flr : (Map.find? (world [gang sl0]).parts 0).isSome = true := by decide

theorem wit_attest : (world []).attState 0 % 2 = 0 ∧ (world []).device.lifecycle ≠ 2 ∧ (world []).device.key = true ∧ (world []).device.leaf < 2 ^ 20 - 1 := by decide
def lastLeaf : State := { world [] with device := { Device.reset with leaf := 2 ^ 20 - 1 } }
theorem wit_attest_exhausted : 2 ^ 20 - 1 ≤ lastLeaf.device.leaf ∧ lastLeaf.attState 0 % 2 = 0 := by decide
theorem wit_attest_done : ((world []).setAtt 0 1 0).attState 0 = 1 ∧ ((world []).setAtt 0 1 0).device.leaf < 2 ^ 20 - 1 := by decide

/-- An argument block at 0x8000 of three words. -/
def arguing (a b c : Nat) : State :=
  ((world []).writeHome 0x8000 ([a, b, c].flatMap fun n => toBytes (BitVec.ofNat 64 n) 8)).setReg 0 0x90008 0x8000
theorem wit_ctx_create : ((arguing 0x40000 0x1000 0x1000).argBlock 0).isSome = true ∧ (arguing 0x40000 0x1000 0x1000).inHbm 0 0x40000 16384 = true ∧
    zeroFrom (((arguing 0x40000 0x1000 0x1000).argBlock 0).getD []) 24 = true ∧ Map.find? (arguing 0x40000 0x1000 0x1000).ctxs 1 = none ∧
    (Map.find? (arguing 0x40000 0x1000 0x1000).ctxs 0).isSome = true := by decide
theorem wit_ctx_destroy : zeroFrom (((arguing 0 0 0).argBlock 0).getD [1]) 0 = true ∧ (Map.find? (arguing 0 0 0).ctxs 0).isSome = true ∧
    (∀ x ∈ (arguing 0 0 0).launches, x.ctx ≠ 0) ∧ (∀ r ∈ (arguing 0 0 0).colls, r.cmd.ctx ≠ 0) := by decide
theorem wit_ctx_busy : ∃ x ∈ ({ arguing 0 0 0 with launches := [launch3] } : State).launches, x.ctx = 0 := ⟨launch3, by decide, by decide⟩
theorem wit_ctx_pooladd : (arguing 20 0x100000000 1).inHbm 0 0x100000000 (4096 * 2 ^ 20 * 1) = true ∧ 0x100000000 % (4096 * 2 ^ 20) = 0 := by decide
theorem wit_ctx_lardersz : zeroFrom (((arguing 0x400000000 0 0).argBlock 0).getD [1]) 8 = true ∧ (arguing 0x400000000 0 0).passesFree 0 = true := by decide
theorem wit_ctx_passes_held : ((arguing 0x100000 0 0).writeHome ((((world []).part 0).larderAddr (128 * 255)).getD 0) [1]).passesFree 0 = false := by decide
theorem wit_ctx_no_block : ((world []).setReg 0 0x90008 0x8020).argBlock 0 = none := by decide

/-- A job whose record lies at 0x8000; its START cell at 0x200000 where `cell` says so. -/
def job0 (started : Bool) : Job := { id := 9, part := 0, reg := 0x70000, at_ := 0x8000, started := started, dead := false, status := none }
def jobbing (started : Bool) (cell : Nat) : State := { arguing 0 cell 0 with jobs := [job0 started] }
theorem wit_job_write : (0x8000 : BitVec 64).toNat % 64 = 0 ∧ (world []).owned 0 0x8000 64 = true ∧ (world []).dump = [] ∧ ((world []).part 0).power = 0 ∧
    ((world []).jobs.filter fun j => j.part == 0 && j.reg == 0x70000).length < 17 := by decide
theorem wit_job_full : 17 ≤ (({ world [] with jobs := List.replicate 17 (job0 false) } : State).jobs.filter fun j => j.part == 0 && j.reg == 0x70000).length := by decide
theorem wit_job_start : FirstJob (jobbing false 0) (job0 false) ∧ (jobbing false 0).taskWaits 9 = false ∧ (jobbing false 0).poisonedAt 0x8000 64 = false ∧
    fieldOf ((jobbing false 0).bytesAt 0x8000 64) 8 8 = 0 := by simp only [FirstJob]; decide
theorem wit_job_cell : fieldOf ((jobbing false 0x200000).bytesAt 0x8000 64) 8 8 ≠ 0 ∧
    (match (jobbing false 0x200000).jobCell (job0 false) 8 with | (.at pa, _) => pa == 0x200000 | _ => false) = true := by decide
theorem wit_job_done : FirstJob (jobbing true 0) (job0 true) ∧
    (match (jobbing true 0).run (jobWork 0x70000 ((jobbing true 0).jobCmd (job0 true)) ((jobbing true 0).jobRecord (job0 true))) with | (.ok (), _, false) => true | _ => false) = true := by
  simp only [FirstJob]; decide
theorem wit_register_write : (world []).written 0 0x28 0x1FFF = some 0x1000 ∧ (world []).written 0 0x29 0 = none := by decide
theorem wit_window : (world []).windowAt 0 4 0x200000 = some 0x200000 ∧ ((world []).windowAt 0 2 0).isSome = true := by decide

/-! ## Witnesses: addresses and the machine's step -/

/-- Segments whose global part is 4 KiB at 0x1000, with 16 bytes of scratchpad and of an Attic at 2⁵⁶ − 8. -/
def segs0 : Segs := { scrb := 0xFFFF0, scrl := 16, stkb := 0xFFFFFFFFFFFFF8, stkl := 16, glbb := 0x1000, glbl := 0x2000, user := false }
theorem wit_place_hole : (0xFC00000000000000 : Word64).toNat / 2 ^ 56 ≠ 0 ∧ (0xFC00000000000000 : Word64).toNat / 2 ^ 56 ≠ 0xFE ∧ (0xFC00000000000000 : Word64).toNat / 2 ^ 56 ≠ 0xFD := by
  decide
theorem wit_place_misaligned : (0x1001 : Word64).toNat % 4 ≠ 0 := by decide
theorem wit_place_global : segs0.glbb.toNat ≤ 0x1FFC ∧ 0x1FFC + 4 ≤ segs0.glbl.toNat ∧ ¬ (0x2000 + 4 ≤ segs0.glbl.toNat) := by decide
theorem wit_place_scratch : 12 + 4 ≤ segs0.scrl.toNat ∧ segs0.scrb.toNat + 12 + 4 ≤ 0x100000 ∧ ¬ (16 + 4 ≤ segs0.scrl.toNat) := by decide
theorem wit_place_attic : 4 + 4 ≤ segs0.stkl.toNat ∧ segs0.stkb.toNat + 4 + 4 ≤ 2 ^ 56 ∧ 2 ^ 56 < segs0.stkb.toNat + 8 + 4 ∧ 8 + 4 ≤ segs0.stkl.toNat ∧
    segs0.stkl.toNat < 16 + 4 := by decide
theorem wit_leaf : (2 : Nat) ≤ 3 ∧ 20 ≤ 20 ∧ (0 : Nat) * 2 ^ 21 < 2 ^ 41 ∧ 0x1F % 2 = 1 ∧ (0x1F / 4 % 2 = 1 → 0x1F / 2 % 2 = 1) ∧
    (world []).owned 0 (0 * (4096 * 2 ^ 20)) (4096 * 2 ^ 20) = true ∧ 4096 * 2 ^ 20 ≤ 2048 * (4096 * 2048 ^ 2) ∧ 4096 * 2 ^ 20 < 4096 * 2048 ^ 2 := by decide
theorem wit_leaf_covers : (4096 * 2048 ^ 0 : Nat) ≤ 4096 * 2 ^ 20 ∧ 0x100000000 % (4096 * 2048 ^ 2) = 4096 * 2 ^ 20 := by decide
theorem wit_walk_entries : natOfBytes (homeBytes (world []) 0x10000 8) = 1 + 5 * 2 ^ 14 ∧ natOfBytes (homeBytes (world []) 0x14000 8) / 256 % 2 = 1 ∧
    natOfBytes (homeBytes (world []) 0x14008 8) % 2 = 0 ∧ (world []).poisonedAt 0x14000 8 = false ∧
    ({ world [] with bad := [0x14000 / 32] } : State).poisonedAt 0x14000 8 = true := by decide
theorem wit_walk_level0 : natOfBytes (homeBytes ((world []).writeHome 0x30000 [1]) 0x30000 8) = 1 := by decide
def bootFound : Option Leaf := match (world []).walk 0 0 0x200000 with
  | .leaf l => some l
  | _ => none
theorem wit_xlate_leaf : (world []).tlbFind 0 0 0x200000 = none ∧ bootFound.map Leaf.size = some 0x100000000 ∧
    bootFound.map (fun l => (l.r, l.w, l.x, l.user, l.kind)) = some (true, true, true, true, 0) := by decide
theorem wit_xlate_fault : (world []).tlbFind 0 0 0x100000000 = none ∧
    (match (world []).walk 0 0 0x100000000 with | .fault 0 2 0x14000 false => true | _ => false) = true := by decide

theorem wit_step_idle : (State.reset.choose 0) = none := by decide
theorem wit_step_turn : (State.reset.withFetchWord 32 0).agenda = .issue 0 false :: [] ∧
    (({ State.reset.withFetchWord 32 0 with agenda := [] } : State).quad 0).busyUntil ≤ ({ State.reset.withFetchWord 32 0 with agenda := [] } : State).cycle ∧
    (({ State.reset.withFetchWord 32 0 with agenda := [] } : State).choose 0).isSome = true := by decide
theorem wit_step_word : decode [0x00000000] = .ok (.nop ns, []) := by rfl
theorem wit_step_undecoded : decode [0x3F000000] = .error .illegalOpcode := by rfl
theorem wit_step_event : ({ State.reset with agenda := [.event .pcieWake] } : State).agenda = .event .pcieWake :: [] := rfl
theorem wit_fetch : 0x100000 % 4 = 0 ∧ Map.find? ((world []).core 0).code (0x100000 / 128) = none ∧ (∀ w < 32, homeOf (128 * (0x100000 / 128) + 4 * w) = groupOf 0) := by decide
theorem wit_fetch_stale : ∀ l, Map.find? [(0x100000 / 128, ({ data := [], bad := [], since := 3 } : CodeLine))] (0x100000 / 128) = some l → l.since < 4 := by decide
theorem wit_step_canonical : Memory.wf State.reset.mem = true ∧ ∃ t, step State.reset = .next t := ⟨rfl, _, rfl⟩

/-! ## One step of a word, its result worked out by hand or given by the spec -/

/-- The first slice after a word runs on the machine with the gang of one slice, and a scalar or a lane register of it. -/
def after (i : Instr) (sl : Slice) : Option Slice :=
  match exec i (machine (gang sl)) with
  | .next t => t.cur.bind fun g => g.slices.head?
  | _ => none
def scalarAfter (i : Instr) (vals : List (Nat × SVal)) (k : Nat) : Option SVal := (after i { sl0 with scal := vals }).map fun sl => Map.get {} sl.scal k
def laneAfter (i : Instr) (vals : List (Nat × LVal)) (k : Nat) : Option LVal := (after i { sl0 with lane := vals }).map fun sl => Map.get {} sl.lane k

/-- s2 from s0 and s1. -/
def abd : FormNA := { na with sd := 10, sa := 8, sb := 9 }
theorem test_add_wraps : scalarAfter (.add abd) [(8, ⟨0xFFFFFFFFFFFFFFFF, false⟩), (9, ⟨2, true⟩)] 10 = some ⟨1, true⟩ := by decide
theorem test_add_word : scalarAfter (.add { abd with w := true }) [(8, ⟨0x7FFFFFFF, false⟩), (9, ⟨1, false⟩)] 10 = some ⟨0xFFFFFFFF80000000, false⟩ := by decide
theorem test_mulh_signed : scalarAfter (.mulh abd) [(8, ⟨0xFFFFFFFFFFFFFFFF, false⟩), (9, ⟨2, false⟩)] 10 = some ⟨0xFFFFFFFFFFFFFFFF, false⟩ := by decide
theorem test_mulhn_unsigned : scalarAfter (.mulhn abd) [(8, ⟨0xFFFFFFFFFFFFFFFF, false⟩), (9, ⟨2, false⟩)] 10 = some ⟨1, false⟩ := by decide
theorem test_div_truncates : scalarAfter (.div abd) [(8, ⟨0xFFFFFFFFFFFFFFF9, false⟩), (9, ⟨2, false⟩)] 10 = some ⟨0xFFFFFFFFFFFFFFFD, false⟩ := by decide
theorem test_div_zero : scalarAfter (.div abd) [(8, ⟨5, false⟩)] 10 = some ⟨0xFFFFFFFFFFFFFFFF, false⟩ := by decide
theorem test_rem_zero : scalarAfter (.rem abd) [(8, ⟨5, false⟩)] 10 = some ⟨5, false⟩ := by decide
theorem test_sar_word : scalarAfter (.sar { abd with w := true }) [(8, ⟨0x80000000, false⟩), (9, ⟨33, false⟩)] 10 = some ⟨0xFFFFFFFFC0000000, false⟩ := by decide
theorem test_rol : scalarAfter (.rol abd) [(8, ⟨0x8000000000000001, false⟩), (9, ⟨4, false⟩)] 10 = some ⟨0x18, false⟩ := by decide
theorem test_clz_word_zero : scalarAfter (.clz { abd with sb := 0, w := true }) [] 10 = some ⟨32, false⟩ := by decide
theorem test_sext : scalarAfter (.sext abd) [(8, ⟨0x1F, false⟩), (9, ⟨5, false⟩)] 10 = some ⟨0xFFFFFFFFFFFFFFFF, false⟩ := by decide
theorem test_lea : scalarAfter (.lea 3 abd) [(8, ⟨100, false⟩), (9, ⟨3, false⟩)] 10 = some ⟨124, false⟩ := by decide
theorem test_bins : scalarAfter (.bins { nf with sd := 10, sa := 8, pos := 4, wid := 8 }) [(8, ⟨0xAB, false⟩), (10, ⟨0xFFFF, false⟩)] 10 = some ⟨0xFABF, false⟩ := by
  decide
theorem test_lsh : scalarAfter (.lsh { nl with sd := 10, imm := 0x5678 }) [(10, ⟨0x1234, true⟩)] 10 = some ⟨0x12345678, true⟩ := by decide
theorem test_g0_discards : scalarAfter (.addi { ni with sd := 0, imm := 5 }) [] 0 = some ⟨0, false⟩ := by decide
theorem test_trap_pc : (after (.trap { ns with imm := 7 }) sl0).map (fun sl => (sl.pc, sl.tepc, sl.tcause, sl.tval, sl.between)) = some (0x2000, 0x1000, 0x0C, 7, true) := by
  decide
theorem test_ld_signed : (after (.ld { nm with sd := 10, sa := 8, size := 0, sx := true }) { slScr with scal := [(8, ⟨0xFE00000000000000, false⟩)] }).map
    (fun sl => Map.get {} sl.scal 10) = some ⟨0, false⟩ := by decide

/-- v4 from v0 and v1, lane 0. -/
def vab : Wide := { wd with vd := 4, va := 0, vb := 1 }
theorem test_vadd_wraps : laneAfter (.vadd vab) [(0, ⟨0xFFFFFFFF, false⟩), (4, ⟨2, true⟩)] 16 = some ⟨1, true⟩ := by decide
theorem test_vmulh_signed : laneAfter (.vmulh vab) [(0, ⟨0xFFFFFFFF, false⟩), (4, ⟨2, false⟩)] 16 = some ⟨0xFFFFFFFF, false⟩ := by decide
theorem test_vsat_i8 : laneAfter (.vsat { vab with t := 4 }) [(0, ⟨0xFFFFFF00, false⟩)] 16 = some ⟨0xFFFFFF80, false⟩ := by decide
theorem test_vfadd_tie : laneAfter (.vfadd { vab with t := 8 }) [(0, ⟨0x4B800000, false⟩), (4, ⟨0x3F800000, false⟩)] 16 = some ⟨0x4B800000, false⟩ := by decide
theorem test_vfadd_up : laneAfter (.vfadd { vab with t := 8, rm := 3 }) [(0, ⟨0x4B800000, false⟩), (4, ⟨0x3F800000, false⟩)] 16 = some ⟨0x4B800001, false⟩ := by
  decide
theorem test_vfma_once : laneAfter (.vfma { vab with t := 8, vc := 2 }) [(0, ⟨0x3F800001, false⟩), (4, ⟨0x3F800001, false⟩), (8, ⟨0xBF800002, false⟩)] 16 =
    some ⟨0x28800000, false⟩ := by decide
theorem test_vcvtf_max : laneAfter (.vcvtf { vab with vb := 0, t := 11, fn := 8 }) [(0, ⟨0x43E00000, false⟩)] 16 = some ⟨0x7E, false⟩ := by decide

/-- The gang of 07's example: slices 0 and 2, lanes 0 to 3 and 8 to 11, v4 of lane l holding 100 + l and m1 its bits. -/
def exampleGang : Gang := { gang sl0 with slices := [
  { sl0 with lane := [(16, ⟨100, false⟩), (17, ⟨101, false⟩), (18, ⟨102, false⟩), (19, ⟨103, false⟩)], masks := [(1, 0xB)] },
  { sl0 with sid := 2, pos := 2, index := 2, lane := [(16, ⟨108, false⟩), (17, ⟨109, false⟩), (18, ⟨110, false⟩), (19, ⟨111, false⟩)], masks := [(1, 0xF)] }] }
def exampleAfter (i : Instr) (v : Nat) : Option (List (List Word32)) :=
  match exec i (machine exampleGang) with
  | .next t => t.cur.map fun g => g.slices.map fun sl => (List.range 4).map fun k => (Map.get {} sl.lane (4 * v + k)).v
  | _ => none
theorem test_example_vshfl : exampleAfter (.vshfl { wd with vd := 5, va := 4, pm := 1, fn := 1, imm := 8 }) 5 = some [[100, 101, 0, 103], [100, 101, 102, 103]] := by
  decide
theorem test_example_vreduce : exampleAfter (.vreduce { wd with vd := 6, va := 4, pm := 1 }) 6 = some [[742, 742, 0, 742], [742, 742, 742, 742]] := by decide

/-- A gang whose first slice has a misaligned address in s0 and whose second has s0 tagged: the first decides the trap (06 R121, R130). -/
def twoTraps : Gang := { gang sl0 with slices := [
  { slScr with scal := [(8, ⟨0xFE00000000000001, false⟩)] }, { slTag with sid := 2, pos := 1, index := 1 }] }
theorem test_lowest_slice_traps : (match exec (.ld { nm with sd := 10, sa := 8, size := 2 }) (machine twoTraps) with
    | .next t => t.cur.map fun g => g.slices.map fun sl => (sl.tcause, sl.tval)
    | _ => none) = some [(0x05, 0xFE00000000000001), (0x05, 0xFE00000000000001)] := by decide

/-- The tile of 04's example: one element of a block-scaled FP4 tile of K = 64 that accumulates onto 0.5. -/
def exampleTile : List Byte :=
  [1, 13, 13, 1, 0, 1, 0, 0, 1, 0, 0, 0, 1, 0, 0, 0, 64, 0, 0, 0, 0, 0, 0, 0] ++
    ([0x200000, 32, 0x205000, 0x201000, 32, 0x206000, 0x207000, 0x202000, 4, 0, 0, 0, 0].flatMap fun n => toBytes (BitVec.ofNat 64 n) 8)
def exampleScales : List Byte := [0x80, 0x0C, 0x78, 0x80, 0x0C, 0, 0, 0, 0, 0, 0, 0]
def exampleTiling : State :=
  let s := tiling .run 0
  let w := fun (s : State) (p : Nat × List Byte) => s.writeHome p.1 p.2
  { [(0x200000, [6, 0, 0, 0, 2, 0, 0, 0, 0x0E]), (0x201000, [6, 0, 0, 0, 2, 0, 0, 0, 6]), (0x205000, exampleScales), (0x206000, exampleScales), (0x207000, [0x80, 0x3F]),
     (0x202000, [0, 0, 0, 0x3F])].foldl w s with tiles := [{ tileRun .run with record := exampleTile }] }
theorem test_example_tile : (match exec (.matrixLatchStep 20) exampleTiling with
    | .next t => match exec (.matrixComputeStep 20) t with
      | .next u => Map.get 0 (u.engine 0).acc 0
      | _ => 0
    | _ => 0) = 0x3FC00000 := by decide +kernel

/-! ## Witnesses: the clauses on ends, chains, records, launches, members and twins -/

/-- Barrier 5 alone on core 0, crew 1's, lane 4 marked as arrived. -/
def oneBar (expect arrived : Nat) : Barrier := { Barrier.init with owner := some 1, expect := expect, arrived := arrived, marks := [4] }
def barState (b : Barrier) : State := { world [crewGang] with cores := [(0, { Core.init with bars := [(5, b)] })] }
theorem wit_deduct_waits : ((barState (oneBar 8 3)).core 0).bars = [(5, oneBar 8 3)] ∧ (oneBar 8 3).marks.contains 4 = true ∧ 3 - 1 < 8 - 1 := by decide
theorem wit_deduct_completes : ((barState (oneBar 3 2)).core 0).bars = [(5, oneBar 3 2)] ∧ (oneBar 3 2).marks.contains 6 = false ∧ 3 - 1 ≤ 2 ∧ 0 < 2 := by decide
/-- An arrived lane after a new INIT, where ARRIVED is 0: it stays there. -/
theorem wit_deduct_floor : (oneBar 4 0).marks.contains 4 = true ∧ (0 : Nat) - 1 < 4 - 1 := by decide
theorem wit_exit_slices : (machine (gang sl0)).isShadow (gang sl0) = false ∧ (gang sl0).park = .none ∧ (machine (gang sl0)).cmds = [] ∧
    (Map.find? (machine (gang sl0)).ctxs (gang sl0).ctx).isSome = true := by decide
/-- A guarded COLL waits in slot 2 and a copy waits behind it. -/
def collGuarded : Cmd := { (command .coll [0, 0x200000, 0x300000, 1, 0, 0]) with id := 19, guard := some 2, gstate := .unresolved }
def discarding : State := { world [] with cmds := [collGuarded, { command .fput [0, 0, 0, 0, 0, 0] with id := 20 }] }
theorem wit_discard : ∀ c ∈ discarding.cmds, c.op ≠ .mq ∧ (c.sid = 1 → c.waits = true → c.op ≠ .mtile ∧ c.cell = 0) := by decide
theorem wit_discard_waits : collGuarded.waits = true ∧ collGuarded.sid = 1 := by decide

theorem wit_chain_taken : (queued mwld0).cmds.find? (fun x => x.id == 20 && x.op == .mwld) = some mwld0 ∧ (queued mwld0).mayLeave mwld0 = true ∧
    (queued mwld0).tile? 20 = none := by decide
theorem wit_chain_free : EngineFree (queued mwld0) 20 0 := by simp only [EngineFree]; decide
/-- A run of two engines that has one of them, the other held by the tile on engine 1, or free. -/
def acquiring : TileRun := { tileRun .acquire with cmd := { mtile0 with id := 22 }, len := 2, got := 1 }
def acquires (other : List TileRun) : State := { world [] with tiles := acquiring :: other }
theorem wit_chain_goes_on : Running (acquires []) acquiring ∧ acquiring.stage = .acquire ∧ acquiring.got < acquiring.len ∧
    ∀ c ∈ (acquires []).cmds, c.id ≠ acquiring.cmd.id := by simp only [Running]; decide
theorem wit_chain_waits : ∃ x ∈ (acquires [{ tileRun .run with head := 1 }]).tiles, x.holds (0 + 1) = true := ⟨{ tileRun .run with head := 1 }, by decide, by decide⟩

/-- The weight load's run with its chain. -/
def latching (c : Cmd) : TileRun := { (tileRun .start) with cmd := c, record := [] }
def latchState (c : Cmd) : State := { world [] with tiles := [latching c] }
theorem wit_latch_bad : Running (latchState { mwld0 with regs := mwld0.regs.set 0 8 }) (latching { mwld0 with regs := mwld0.regs.set 0 8 }) ∧
    ((8 : Word64).toNat % 16 ≠ 0) := by simp only [Running]; decide
/-- The same load with its columns 16 bytes apart. -/
def mwld1 : Cmd := { mwld0 with regs := mwld0.regs.set 1 16 }
theorem wit_latch_ok : Running (latchState mwld1) (latching mwld1) ∧ (latchState mwld1).chainFenced (latching mwld1) = false ∧
    (0x201000 : Word64).toNat % 16 = 0 ∧ mwld1.rangeBad (0x201000, 0 * 16 + 8) = false ∧
    isOk ((latchState mwld1).work (latching mwld1) (mwld1.mwldRead 0 1)) (fun b => b.length == 1) = true := by simp only [Running]; decide +kernel
def isStop {α : Type} (x : Except Halt α × State) : Bool := match x.1 with
  | .error (.stop _) => true
  | _ => false
theorem wit_bank_of : (([([1, 2], [3])] : List (List Nat × List Nat)).all fun p => p.1.length ≤ 64 && p.2.length ≤ 8) = true := by decide

/-- A sound tile: 1 × 1 × 8 of i8 with strides of 16 bytes. -/
def soundTile : Tile := Tile.of ([0, 4, 4, 0, 0, 1, 0, 0, 1, 0, 0, 0, 1, 0, 0, 0, 8, 0, 0, 0, 0, 0, 0, 0] ++
  ([0x200000, 16, 0, 0x201000, 16, 0, 0, 0x202000, 16, 0, 0, 0, 0].flatMap fun n => toBytes (BitVec.ofNat 64 n) 8))
theorem wit_record_aligned : [soundTile.a, soundTile.b, soundTile.c, soundTile.lda, soundTile.ldb, soundTile.ldc, soundTile.cell] =
    [0x200000, 0x201000, 0x202000, 16, 16, 16, 0] := by decide
theorem wit_record_sound : ¬ RecordFails soundTile (tileRun .start).cmd 0 1 false [Matrix.init] := by
  have h : ¬ ∃ x ∈ [soundTile.a, soundTile.b, soundTile.c, soundTile.lda, soundTile.ldb, soundTile.ldc, soundTile.cell], x.toNat % 16 ≠ 0 := by
    rw [wit_record_aligned]; simp
  simp only [RecordFails, h, not_or, not_false_eq_true, true_and]; and_intros <;> decide
/-- A reserved byte that is not 0. -/
theorem wit_record_fails : RecordFails { (tileRun .start).tile with pad := 1 } (tileRun .start).cmd 0 1 false [Matrix.init] := Or.inl (by decide)
/-- The record of tileRun stands in memory. -/
def starting : State := { (world []).writeHome 0x203000 (tileBytes ++ List.replicate (128 - tileBytes.length) 0) with tiles := [tileRun .start] }
theorem wit_record_read : Running starting (tileRun .start) ∧ (starting.savedTiles = []) ∧
    isOk (starting.work (tileRun .start) (readE (tileRun .start).cmd 0 0x203000 128)) (fun bs => (Tile.of bs).rprs == 0 && (Tile.of bs).m == 1) = true := by
  simp only [Running]; decide
/-- The record's address lies in the scratchpad of a crew that there is not: the read is denied. -/
def denied : TileRun := { tileRun .start with cmd := command .mtile [0xFE00000000000000, 1] }
theorem wit_record_unread : Running { world [] with tiles := [denied] } denied ∧
    isStop (({ world [] with tiles := [denied] } : State).work denied (readE denied.cmd 0 0xFE00000000000000 128)) = true := by simp only [Running]; decide

theorem wit_signal_tile : (starting.ackClear 0 4) = true ∧
    (match (starting.reconcileSource 0 4).reachCell 0 0 0 (tileRun .start).cmd.segs 0x400000 with | (.at pa, _) => pa == 0x400000 | _ => false) = true := by decide
theorem wit_retire_one : (match starting.run (reachE (tileRun .start).cmd true 0 0x203000 128) with
    | (.ok ((_, .l1 pa _, _) :: _), s1, false) => pa == 0x203000 && !s1.poisonedAt (pa + 6) 2 | _ => false) = true := by decide
/-- A registered record at 0x203000 whose PRED is n. -/
def released (n : Byte) : State := { starting.writeHome 0x203006 [n, 0] with mqs := [{ mq0 with ready := none }] }
theorem wit_pred : (released 1).predAt 0x203000 = 1 ∧ (released 3).predAt 0x203000 = 3 := by decide

/-- A slice that waits for an engine's result in s0, and one for which a later word has written it. -/
def due1 (passed : Bool) : Pending := { due0 with engine := true, passed := passed }
theorem wit_engine_write : ∀ passed, ({ sl0 with pending := [due1 passed] } : Slice).pending.find? (fun p => p.n == 7 && p.targ == .scalar 8 && p.engine) = some (due1 passed) := by
  decide
theorem wit_engine_write_none : sl0.pending.find? (fun p => p.n == 7 && p.targ == .scalar 8 && p.engine) = none := by decide
theorem wit_seal_waits : ((sealing 0x10000000 []).larder.filter fun o => o.cmd.part == 0 && o.kind == .seal && o.stage == 1 && o.argN 0 == 5) = [seal5] ∧
    seal5.key.isSome = true := by decide

/-- A fault ring of four records. -/
def ringed (s : State) : State := (s.setReg 0 0x10000 0x40000).setReg 0 0x10008 4
theorem wit_recorded : ((ringed (world [])).reg 0 0x10008).toNat ≠ 0 ∧
    (((ringed (world [])).reg 0 0x10018).toNat + 1) % 4 ≠ ((ringed (world [])).reg 0 0x10010).toNat := by decide

def dir0 : Directory := (launching []).directory 0 0
theorem wit_launch_reasons : dir0.valid = true ∧ dir0.ranges = true ∧ (Map.find? (world []).ctxs dir0.ctx).isSome = true ∧ (world []).taskWaits 7 = false ∧
    ({ dir0 with valid := false } : Directory).valid = false ∧ Map.find? (world []).ctxs ({ dir0 with ctx := 1 } : Directory).ctx = none := by decide
/-- WORD0 with a reserved bit, with seven patches in a list, and with a list at an odd address. -/
theorem wit_launch_reserved : ({ waiting0 with words := [0x10000] } : Waiting).word0.toNat / 2 ^ 16 % 2 ^ 16 ≠ 0 := by decide
theorem wit_node_fails : node0.released = false ∧ InLaunch (noded node0 0x500000) 3 0 { launch3 with nodes := [(0, node0), (1, node0)] } node0 ∧
    Map.find? [(0, node0), (1, node0)] 1 = some node0 ∧ node0.retired = false :=
  ⟨rfl, ⟨rfl, rfl⟩, rfl, rfl⟩
theorem wit_root_misplaced : 2 ^ 56 ≤ (0xFE00000000000000 : Word64).toNat ∧ (4 : Word64).toNat < 8 := by decide
theorem wit_root_read : (match (noded node0 0x500000).xlate (taskUnit 0) 0 0 0x2FFFF8 { x := true, user := true } with | (.ok pa _, _) => pa == 0x2FFFF8 | _ => false) = true ∧
    (match (noded node0 0x500000).xlate (taskUnit 0) 0 0 0x2FFFFC { x := true, user := true } with | (.ok pa _, _) => pa == 0x2FFFFC | _ => false) = true := by decide
/-- A TCB of a COPY node with a wrong tier, and a sound HOST node's. -/
theorem wit_tcb : (noded node0 0x500000).tcbBad launch3 0 ([3, 2] ++ List.replicate 126 0) = true ∧
    (noded node0 0x500000).tcbBad launch3 0 ([5, 3] ++ List.replicate 126 0) = false := by decide
/-- What a start goes through: lists of this partition's node 0, a unit that it holds, and a cell at the node's place. -/
theorem wit_start_inside : (noded node0 0x500000).unitInside 0 3 0 = true ∧ (noded node0 0x500000).unitInside 0 0 768 = false ∧
    (match (noded node0 0x500000).nodeCell launch3 0 with | (.at pa, s) => pa == 0x500800 && !s.waitedCells.contains pa | _ => false) = true := by decide
theorem wit_start_entries : ((noded node0 0x500000).entries 0 (List.replicate 128 0)).2.2 = false ∧
    ((noded node0 0x500000).entries 0 (List.replicate 128 0)).2.1 = some [] := by decide

theorem wit_not_placed : (world []).mayPlace (brood 0 8) 0 = false ∧ ({ world [] with spawns := [brood 0 8] } : State).spawns.find? (fun x => x.id == 8) = some (brood 0 8) := by
  decide
/-- Under TWIN a crew of 8 finds room on core 0 and in another stack group. -/
def twinning : State := (spawning (brood 1 8)).setReg 0 0x60000 2
theorem wit_place_twin : (twinning.modes 0 0).2 = true ∧ twinning.mayPlace (brood 1 8) 0 = true ∧ ∀ g ∈ twinning.gangs, g.crew ≠ some (twinning.nextId + 1) := by
  decide +kernel
theorem wit_ring_before : (staged stageShare).ringBefore 0 1 0 = true ∧ (staged stageShare).ringBefore 0 0 0 = false := by decide

/-- The BCAST of a root that is the other member: this one reaches its source and does not read it. -/
def uncountedOk (a : Word64) : Bool := match (uncountedE (reachE (coll0 .started).cmd false 0 a 4)).run (collecting .started, false) with
  | (.ok _, _, _) => true
  | _ => false
theorem wit_bcast : (ctlOf 0x430).op = 3 ∧ (ctlOf 0x430).root ≠ entry0.self := by decide
theorem wit_bcast_reaches : uncountedOk 0x200000 = true ∧ uncountedOk 0xFE00000000000000 = false := by decide
theorem wit_turned_full : ({ seqWith [{ seqKey .assigned with key := 1, number := 6 }] with next := 65542 } : Sequencer).full = true ∧ primaryAlone.selfOf 0 entry0 = some 0 := by
  decide
theorem wit_turned_fenced : (held (linked 0 9 0 fun c => { c with seq := { c.seq with role := .fenced } })).map (fun c => c.seq.role) = some .fenced := by decide

theorem wit_answer_own : (held (linked 0 0xFF 0xFF fun c => { c with inbox := [(5, 0, .answer 1)] })).map (fun c => (c.seq.role, c.inbox.contains (5, 0, .answer 1))) =
    some (.primary, true) := by decide
theorem wit_look : (held primaryAlone).map (fun c => (c.seq.busy, c.seq.key? 0, c.seq.next)) = some (none, none, 5) ∧
    (held (linked 0 0xFF 0xFF fun c => { c with seq := seqWith [seqKey .void] })).map (fun c => (c.seq.busy, (c.seq.key? 0).map SeqKey.state)) = some (none, some .void) := by
  decide
theorem wit_voided_low : (held memberHere).map (fun c => (c.low, c.known.all fun k => k.number != c.low && k.number != c.low + 1)) = some (5, true) := by decide
theorem wit_voided_past : (held (knows 4 false)).map (fun c => (precedes 4 c.low, c.known.any fun k => k.number == 4 && k.key == 0,
    c.known.all fun k => k.number == 4 || k.key != 0)) = some (true, true, true) := by decide
def startedKey : State := linked 0 0xFF 0xFF fun c => { c with seq := seqWith [{ seqKey .started with regs := [1], started := [1] }] }
theorem wit_member_lost_started : (held startedKey).map (fun c => (c.seq.role, (c.seq.keys.find? fun k => k.started.contains 1 && !k.done.contains 1).map SeqKey.key,
    c.seq.keys.all fun k => !(k.state == .assigned && k.regs.contains 1))) = some (.primary, some 0, true) := by decide

/-- A twin pair at a crew sync, the first slice with a held byte. -/
def heldGang (k core : Nat) : Gang := { twinGang k core with slices := [{ sl0 with sid := k, heldAt := [0x200000] }] }
def heldTwins : State := { twins true true true with gangs := [heldGang 1 0, heldGang 2 12] }
theorem wit_interval : heldTwins.cur = none ∧ (Map.find? heldTwins.crews 1).isSome = true ∧ (Map.find? heldTwins.crews 2).isSome = true ∧
    (heldGang 1 0).crew = some 1 ∧ ∀ h ∈ heldTwins.gangs, h.core = 0 → h.crew = some 1 ∨ h.crew = some 2 := by decide
/-- A check point before a word, at the same places, and one that is forced; a pair with other signatures differs. -/
def otherSig : Gang := { twinGang 2 12 with slices := [{ sl0 with sid := 2, sig := 9 }] }
theorem wit_check_point : (twinGang 1 0).slices.map Slice.index = (twinGang 2 12).slices.map Slice.index ∧
    ({ twinGang 1 0 with park := .twin true } : Gang).park = .twin true := by decide
theorem wit_check_differs : (twins true false false).agree true (twinGang 1 0, sl0) (otherSig, { sl0 with sid := 2, sig := 9 }) = false := by decide
theorem wit_rollback_pair : (fun s : State => s.rollbacks.find? (fun r => r.1 == 1) = some (1, true) ∧ (Map.find? s.crews 1).map Crew.partner = some (some 2) ∧
    s.commandsRun 1 0 = false ∧ s.commandsRun 2 0 = false) { twins true false false with rollbacks := [(1, true)] } := by decide

theorem wit_reset_key : ∀ x, some (0, (0x52455345 : BitVec 64)) = some x → x = (0, 0x52455345) ∧ (Map.find? (world []).parts 0).isSome := by
  intro x h; cases h; exact ⟨rfl, by decide⟩
theorem wit_off_work : (powerOf 0).lstat 0 = 0 ∧ (Map.find? ({ powerOf 0 with gangs := [gang sl0] } : State).parts 0).isSome = true := by decide
/-- The last report but none: the leaf that it takes is the last. -/
theorem wit_last_report_key : ({ world [] with device := { Device.reset with leaf := 2 ^ 20 - 2 } } : State).device.leaf + 1 = 2 ^ 20 - 1 ∧
    (({ world [] with device := { Device.reset with leaf := 2 ^ 20 - 2 } } : State).setAtt 0 1 0).attState 0 = 1 := by decide
theorem wit_coll_issued : ∃ c ∈ ({ arguing 0 0 0 with cmds := [collGuarded] } : State).cmds, c.op = .coll ∧ c.ctx = 4096 * 0 + 0 := ⟨collGuarded, by decide, by decide⟩
theorem wit_vector_masked : 3 ∉ Part.reset.unmasked ∧ 3 ∈ ({ Part.reset with unmasked := [3] } : Part).unmasked ∧ 3 ∈ ({ Part.reset with pending := [3] } : Part).pending := by
  decide
theorem wit_mask_write : (0x100000000 : BitVec 64).getLsbD 32 = true ∧ (0 : BitVec 64).getLsbD 32 = false := by decide
theorem wit_window_unit : ∀ k < 32, (world []).windowAt 0 4 (0x200000 + k) = some (32 * 0x10000 + k) := by decide

end Sys2Proof.Tests
end

section
/-! PROOFS. Bytes at home as numbers; the cell's fields under a signal and a release (01 R13 to R15, R23). -/

namespace Sys2Proof.Machine

open Sys2Proof Sys2Proof.Claim

/-! ## Little-endian numbers -/

theorem toNat_byteOf {w : Nat} (x : BitVec w) (k : Nat) : (byteOf x k).toNat = x.toNat / 256 ^ k % 256 := by
  simp [byteOf, BitVec.extractLsb'_toNat, Nat.shiftRight_eq_div_pow, Nat.pow_mul]

/-- The low `n` bytes of a word spell the word modulo 256^n (04 R71). -/
theorem natOfBytes_toBytes {w : Nat} (x : BitVec w) (n : Nat) : natOfBytes (toBytes x n) = x.toNat % 256 ^ n := by
  have shifted : ∀ j, natOfBytes ((List.range n).map fun k => byteOf x (j + k)) = x.toNat / 256 ^ j % 256 ^ n := by
    induction n with
    | zero => intro j; simp [natOfBytes, Nat.mod_one]
    | succ n ih =>
      intro j
      have tail : (List.range n).map ((fun k => byteOf x (j + k)) ∘ Nat.succ) = (List.range n).map fun k => byteOf x (j + 1 + k) :=
        List.map_congr_left fun k _ => by simp [Nat.add_assoc, Nat.add_comm 1]
      rw [List.range_succ_eq_map, List.map_cons, List.map_map, tail, natOfBytes, ih, Nat.add_zero, toNat_byteOf, Nat.pow_succ 256 j,
        ← Nat.div_div_eq_div_mul, Nat.pow_succ', Nat.mod_mul]
  simpa [toBytes] using shifted 0

@[simp] theorem length_toBytes {w : Nat} (x : BitVec w) (n : Nat) : (toBytes x n).length = n := by simp [toBytes]

/-- What a write at home has put at the head of its range reads back. -/
theorem State.bytesAt_writeHome_append (s : State) (pa : Nat) (bs cs : List Byte) :
    (s.writeHome pa (bs ++ cs)).bytesAt pa bs.length = bs := by
  refine List.ext_getElem (by simp [State.bytesAt, Map.getMany]) fun i _ hi => ?_
  have h := s.byteAt_writeHome pa (bs ++ cs) (pa + i)
  rw [if_pos ⟨Nat.le_add_right _ _, by rw [List.length_append]; omega⟩, Nat.add_sub_cancel_left, List.getD_eq_getElem?_getD, List.getElem?_append_left hi, List.getElem?_eq_getElem hi,
    Option.getD_some] at h
  simpa only [State.bytesAt, Map.getMany, List.getElem_map, List.getElem_range, State.byteAt] using h

/-! ## The cell's fields (01 R13) -/

theorem State.cellCount_eq (s : State) (pa : Nat) : s.cellCount pa = countAt s pa := rfl

theorem State.cellStatus_eq (s : State) (pa : Nat) : s.cellStatus pa = statusAt s pa := rfl

theorem State.cellNarrow_eq (s : State) (pa : Nat) : s.cellNarrow pa = narrowAt s pa := by
  have top (b : Byte) : b.getLsbD 7 = decide (128 ≤ b.toNat) := by
    have := b.isLt
    simp only [BitVec.getLsbD, Nat.testBit_eq_decide_div_mod_eq]
    exact decide_eq_decide.mpr (by omega)
  exact top _

/-- COUNT, STATUS and NARROW of a cell are read from bytes 0 to 4. -/
theorem cell_fields_congr {s t : State} {pa : Nat} (h : ∀ b, pa ≤ b → b < pa + 5 → t.byteAt b = s.byteAt b) :
    countAt t pa = countAt s pa ∧ statusAt t pa = statusAt s pa ∧ narrowAt t pa = narrowAt s pa := by
  have hbytes : homeBytes t pa 4 = homeBytes s pa 4 :=
    List.map_congr_left fun i hi => h _ (by omega) (by have := List.mem_range.mp hi; omega)
  have hflags : Map.get 0 t.mem (pa + 4) = Map.get 0 s.mem (pa + 4) := h _ (by omega) (by omega)
  simp only [countAt, statusAt, narrowAt, hbytes, hflags, and_self]

/-! ## Release (01 R15, R23) -/

theorem State.releaseCell_of_pos {s : State} {pa : Nat} (h : 0 < countAt s pa) : s.releaseCell pa = s := if_pos h

/-- A release writes WAITER alone: bytes 8 to 15, as zeros, when some strand waits on the cell and COUNT is zero or below. -/
theorem State.byteAt_releaseCell (s : State) (pa b : Nat) : (s.releaseCell pa).byteAt b =
    if countAt s pa ≤ 0 ∧ pa ∈ s.waitedCells ∧ pa + 8 ≤ b ∧ b < pa + 16 then 0 else s.byteAt b := by
  by_cases hc : 0 < countAt s pa
  · rw [State.releaseCell_of_pos hc, if_neg (by omega)]
  · have hc' : ¬ 0 < s.cellCount pa := hc
    by_cases hw : pa ∈ s.waitedCells
    · have h : (s.releaseCell pa).byteAt b = (s.writeHome (pa + 8) (List.replicate 8 0)).byteAt b := by
        simp [State.releaseCell, hc', hw, State.byteAt]
      have zeros : (List.replicate 8 (0 : Byte)).getD (b - (pa + 8)) 0 = 0 := by
        rw [List.getD_eq_getElem?_getD, List.getElem?_replicate]; split <;> rfl
      have range : pa + 8 ≤ b ∧ b < pa + 8 + (List.replicate 8 (0 : Byte)).length ↔
          countAt s pa ≤ 0 ∧ pa ∈ s.waitedCells ∧ pa + 8 ≤ b ∧ b < pa + 16 := by
        rw [List.length_replicate]
        exact ⟨fun ⟨lo, hi⟩ => ⟨Int.not_lt.mp hc, hw, lo, hi⟩, fun ⟨_, _, lo, hi⟩ => ⟨lo, hi⟩⟩
      rw [h, State.byteAt_writeHome, zeros]
      simp only [range]
    · simp [State.releaseCell, hc', hw, State.byteAt]

theorem NatSet.isEmpty_eq (m : NatSet) : List.isEmpty m = decide (m = []) := by cases m <;> rfl

/-- A gang after the release of a cell with these sources and this NARROW: parked on it, it waits for its other cells, and without any it is ready. -/
def Gang.releasedFrom (pa : Nat) (srcs : List Src) (narrow : Bool) (g : Gang) : Gang :=
  match g.park with
  | .await cells lean =>
    if pa ∈ cells then
      { g with
        park := if NatSet.drop cells pa = [] then .none else .await (NatSet.drop cells pa) lean
        ready := decide (NatSet.drop cells pa = []), pinned := g.pinned || narrow
        srcs := if lean then [] else g.srcs ++ srcs }
    else g
  | _ => g

theorem State.releaseCell_gangs {s : State} {pa : Nat} (h : countAt s pa ≤ 0) :
    (s.releaseCell pa).gangs = s.gangs.map (Gang.releasedFrom pa (Map.get [] s.cellSrc pa) (narrowAt s pa)) := by
  have hc : ¬ 0 < s.cellCount pa := Int.not_lt.mpr h
  simp only [State.releaseCell, hc, if_false, apply_ite State.gangs, State.writeHome_gangs, ite_self, State.cellNarrow_eq]
  refine List.map_congr_left fun g _ => ?_
  unfold Gang.releasedFrom
  cases g.park with
  | await cells lean => simp [NatSet.isEmpty_eq]
  | _ => rfl

/-! ## One signal (01 R14, R15) -/

/-- STATUS and NARROW as a signal leaves them, in the cell's byte 4; the other bits are kept. -/
def signalFlags (f : Byte) (st : Nat) (narrow : Bool) : Byte := (f &&& 0x7C) ||| BitVec.ofNat 8 st ||| (if narrow then 0x80 else 0)

theorem signalFlags_mod_four (f : Byte) {st : Nat} (h : st < 4) (narrow : Bool) : (signalFlags f st narrow).toNat % 4 = st := by
  have hn : (if narrow then 0x80 else 0 : Byte).toNat % 2 ^ 2 = 0 := by cases narrow <;> rfl
  have hf : (f &&& 0x7C).toNat % 2 ^ 2 = 0 := by
    rw [BitVec.toNat_and, Nat.and_mod_two_pow]; exact Nat.and_zero _
  show _ % 2 ^ 2 = st
  rw [signalFlags, BitVec.toNat_or, BitVec.toNat_or, Nat.or_mod_two_pow, Nat.or_mod_two_pow, hn, hf, BitVec.toNat_ofNat,
    Nat.zero_or, Nat.or_zero]
  omega

theorem signalFlags_getLsbD_seven (f : Byte) {st : Nat} (h : st < 4) (narrow : Bool) : (signalFlags f st narrow).getLsbD 7 = narrow := by
  have hst : (BitVec.ofNat 8 st).getLsbD 7 = false := by
    rw [BitVec.getLsbD_ofNat, Nat.testBit_lt_two_pow (by omega), Bool.and_false]
  rw [signalFlags, BitVec.getLsbD_or, BitVec.getLsbD_or, BitVec.getLsbD_and, hst]
  cases narrow <;> simp

/-- The machine after a signal's write of the cell, before the release. -/
def State.signalWritten (s : State) (pa : Nat) (amount : Int) (code : Nat) (narrow : Bool) (src : Src) : State :=
  { s.writeHome pa (toBytes (BitVec.ofInt 32 (saturate32 (countAt s pa - amount))) 4 ++
      [signalFlags (s.cellFlags pa) (max (statusAt s pa) code) (narrow || s.cellNarrow pa)]) with
    cellSrc := s.cellSrc.put pa (Map.get [] s.cellSrc pa ++ [src]) }

theorem State.signalCell_eq (s : State) (pa : Nat) (amount : Int) (code : Nat) (narrow : Bool) (src : Src) :
    s.signalCell pa amount code narrow src = (s.signalWritten pa amount code narrow src).releaseCell pa := rfl

section
variable (s : State) (pa : Nat) (amount : Int) (code : Nat) (narrow : Bool) (src : Src)

/-- The write of a signal changes the cell's bytes 0 to 4 alone. -/
theorem State.byteAt_signalWritten_other {b : Nat} (h : b < pa ∨ pa + 5 ≤ b) :
    (s.signalWritten pa amount code narrow src).byteAt b = s.byteAt b := by
  refine (s.byteAt_writeHome pa _ b).trans (if_neg ?_)
  rw [List.length_append, length_toBytes, List.length_singleton]
  omega

theorem State.byteAt_signalWritten_flags : (s.signalWritten pa amount code narrow src).byteAt (pa + 4) =
    signalFlags (s.cellFlags pa) (max (statusAt s pa) code) (narrow || s.cellNarrow pa) := by
  refine (s.byteAt_writeHome pa _ (pa + 4)).trans ?_
  simp

theorem saturate32_bounds (x : Int) : -2147483648 ≤ saturate32 x ∧ saturate32 x ≤ 2147483647 := by
  unfold saturate32; omega

theorem countAt_signalWritten : countAt (s.signalWritten pa amount code narrow src) pa = saturate32 (countAt s pa - amount) := by
  have hb : homeBytes (s.signalWritten pa amount code narrow src) pa 4 = toBytes (BitVec.ofInt 32 (saturate32 (countAt s pa - amount))) 4 := by
    have h := s.bytesAt_writeHome_append pa (toBytes (BitVec.ofInt 32 (saturate32 (countAt s pa - amount))) 4)
      [signalFlags (s.cellFlags pa) (max (statusAt s pa) code) (narrow || s.cellNarrow pa)]
    rwa [length_toBytes] at h
  obtain ⟨lo, hi⟩ := saturate32_bounds (countAt s pa - amount)
  rw [countAt, hb, natOfBytes_toBytes, Nat.mod_eq_of_lt (by exact BitVec.isLt _), BitVec.ofNat_toNat, BitVec.setWidth_eq,
    BitVec.toInt_ofInt_eq_self (by decide) (by simpa using lo) (by simpa using Int.lt_add_one_of_le hi)]

theorem statusAt_signalWritten (h : code < 4) : statusAt (s.signalWritten pa amount code narrow src) pa = max (statusAt s pa) code := by
  have hst : max (statusAt s pa) code < 4 := Nat.max_lt.mpr ⟨Nat.mod_lt _ (by decide), h⟩
  rw [← State.cellStatus_eq, State.cellStatus, State.cellFlags, State.byteAt_signalWritten_flags, signalFlags_mod_four _ hst]

theorem narrowAt_signalWritten (h : code < 4) : narrowAt (s.signalWritten pa amount code narrow src) pa = (narrow || narrowAt s pa) := by
  have hst : max (statusAt s pa) code < 4 := Nat.max_lt.mpr ⟨Nat.mod_lt _ (by decide), h⟩
  rw [← State.cellNarrow_eq, State.cellNarrow, State.cellFlags, State.byteAt_signalWritten_flags, signalFlags_getLsbD_seven _ hst, State.cellNarrow_eq]

/-- A release leaves COUNT, STATUS and NARROW as the signal wrote them. -/
theorem State.signalCell_fields (h : code < 4) : let t := s.signalCell pa amount code narrow src
    countAt t pa = saturate32 (countAt s pa - amount) ∧ statusAt t pa = max (statusAt s pa) code ∧ narrowAt t pa = (narrow || narrowAt s pa) := by
  have hr := cell_fields_congr (s := s.signalWritten pa amount code narrow src) (t := s.signalCell pa amount code narrow src) (pa := pa)
    fun b _ hb => by rw [State.signalCell_eq, State.byteAt_releaseCell, if_neg (by omega)]
  obtain ⟨hcount, hstatus, hnarrow⟩ := hr
  exact ⟨hcount.trans (countAt_signalWritten ..), hstatus.trans (statusAt_signalWritten _ _ _ _ _ _ h),
    hnarrow.trans (narrowAt_signalWritten _ _ _ _ _ _ h)⟩

/-- Outside bytes 0 to 4 and WAITER a signal changes no byte. -/
theorem State.byteAt_signalCell_other {b : Nat} (h : b < pa ∨ pa + 16 ≤ b ∨ (pa + 5 ≤ b ∧ b < pa + 8)) :
    (s.signalCell pa amount code narrow src).byteAt b = s.byteAt b := by
  rw [State.signalCell_eq, State.byteAt_releaseCell, if_neg (by omega), State.byteAt_signalWritten_other _ _ _ _ _ _ (by omega)]

end

/-- Settles O28: the cell's write, then the release, each by what it does to every byte and every gang. -/
theorem signalsCountAndRelease : Obligations.SignalsCountAndRelease := by
  intro s pa amount code narrow src hcode t
  obtain ⟨hcount, hstatus, hnarrow⟩ := s.signalCell_fields pa amount code narrow src hcode
  have ht : t = (s.signalWritten pa amount code narrow src).releaseCell pa := s.signalCell_eq pa amount code narrow src
  have hc : countAt (s.signalWritten pa amount code narrow src) pa = countAt t pa := (countAt_signalWritten ..).trans hcount.symm
  have hn : narrowAt (s.signalWritten pa amount code narrow src) pa = narrowAt t pa :=
    (narrowAt_signalWritten _ _ _ _ _ _ hcode).trans hnarrow.symm
  refine ⟨hcount, hstatus, hnarrow, fun b hb => s.byteAt_signalCell_other pa amount code narrow src hb, fun hpos => ?_, fun hle => ?_⟩
  · rw [ht, State.releaseCell_of_pos (Int.lt_of_lt_of_le hpos (Int.le_of_eq hc.symm))]
    exact ⟨rfl, fun b hb => s.byteAt_signalWritten_other pa amount code narrow src (.inr (by omega))⟩
  · have hle' := Int.le_trans (Int.le_of_eq hc) hle
    have hgangs := State.releaseCell_gangs hle'
    rw [← ht, hn] at hgangs
    refine ⟨fun hw b hlo hhi => ?_, by rw [hgangs]; exact List.length_map _, fun n g g' hg hg' => ?_⟩
    · have hb := (s.signalWritten pa amount code narrow src).byteAt_releaseCell pa b
      rw [← ht, if_pos ⟨hle', hw, hlo, hhi⟩] at hb
      exact hb
    · have hg'' : g' = g.releasedFrom pa (Map.get [] s.cellSrc pa ++ [src]) (narrowAt t pa) := by
        simpa [hgangs, hg, State.signalWritten, eq_comm] using hg'
      rw [hg'']
      unfold Gang.releasedFrom
      cases g.park with
      | await cells lean => by_cases hm : pa ∈ cells <;> simp [hm]
      | _ => rfl

end Sys2Proof.Machine
end

section
/-! PROOFS. Where segments place an address (01 R30, R31); leaves, walks and translation (11 R244 to R248). -/

namespace Sys2Proof.Machine

open Sys2Proof Sys2Proof.Claim

/-! ## Segments (01 R30, R31; 06 R130) -/

theorem offsetOf_eq (a : Word64) : offsetOf a = a.toNat % 2 ^ 56 := by simp [offsetOf, BitVec.extractLsb'_toNat]

/-- Bits 63:56 choose the aperture. -/
theorem apertureOf_eq (a : Word64) : apertureOf a =
    if a.toNat / 2 ^ 56 = 0 then some .global else if a.toNat / 2 ^ 56 = 0xFE then some .scratch
    else if a.toNat / 2 ^ 56 = 0xFD then some .attic else none := by
  have top : (a.extractLsb' 56 8).toNat = a.toNat / 2 ^ 56 := by
    rw [BitVec.extractLsb'_toNat, Nat.shiftRight_eq_div_pow]
    exact Nat.mod_eq_of_lt (Nat.div_lt_of_lt_mul a.isLt)
  unfold apertureOf
  rw [top]
  generalize a.toNat / 2 ^ 56 = x
  by_cases h0 : x = 0
  · subst h0; rfl
  by_cases hFE : x = 0xFE
  · subst hFE; rfl
  by_cases hFD : x = 0xFD
  · subst hFD; rfl
  rw [if_neg h0, if_neg hFE, if_neg hFD]
  split
  · exact absurd rfl h0
  · exact absurd rfl hFE
  · exact absurd rfl hFD
  · rfl

section
variable {g : Segs} {a : Word64} {n : Nat}

theorem Segs.place_hole (h : apertureOf a = none) (align : Nat) : g.place a n align = .error ⟨0x04, a⟩ := by
  simp [Segs.place, h, Cause.addressHole]

theorem Segs.place_misaligned {ap : Aperture} {align : Nat} (h : apertureOf a = some ap) (ha : a.toNat % align ≠ 0) :
    g.place a n align = .error ⟨0x05, a⟩ := by
  simp [Segs.place, h, ha, Cause.misaligned]

theorem Segs.place_aligned {ap : Aperture} {align : Nat} (h : apertureOf a = some ap) (ha : a.toNat % align = 0) :
    g.place a n align = g.limit ap a n := by
  simp [Segs.place, h, ha]

end

theorem segments_place_addresses : segmentsPlaceAddresses := by
  intro g a n _ top off global scratch
  have hap : apertureOf a = if top = 0 then some .global else if top = 0xFE then some .scratch else if top = 0xFD then some .attic else none :=
    apertureOf_eq a
  have hoff : offsetOf a = off := offsetOf_eq a
  refine ⟨fun h0 hFE hFD => ?_, fun htop hmis => ?_, fun hal htop => ?_, fun hal htop => ?_, fun hal htop => ?_⟩
  · exact Segs.place_hole (by simp [hap, h0, hFE, hFD]) n
  · obtain h | h | h := htop <;> exact Segs.place_misaligned (by rw [hap, h]; rfl) hmis
  · rw [Segs.place_aligned (by rw [hap, htop]; rfl) hal, Segs.limit, hoff]
    exact ⟨fun h => if_pos h, fun h => if_neg h⟩
  · rw [Segs.place_aligned (by rw [hap, htop]; rfl) hal, Segs.limit, hoff]
    refine ⟨fun ⟨hlim, hsize⟩ => ?_, fun h => ?_⟩
    · rw [if_neg (Nat.not_lt.mpr hlim)]; exact if_neg (Nat.not_lt.mpr hsize)
    · split
      · rfl
      · next hlim => exact if_pos (Nat.not_le.mp fun hsize => h ⟨Nat.not_lt.mp hlim, hsize⟩)
  · rw [Segs.place_aligned (by rw [hap, htop]; rfl) hal, Segs.limit, hoff]
    refine ⟨fun h => if_pos h, fun hlim hwrap => ?_, fun hlim hwrap => ?_⟩
    · rw [if_neg (Nat.not_lt.mpr hlim)]; exact if_pos hwrap
    · rw [if_neg (Nat.not_lt.mpr hlim)]; exact if_neg (Nat.not_lt.mpr hwrap)

/-! ## Leaf entries (11 R245, R246) -/

/-- A zero above `t` ones ends the count of trailing ones. -/
theorem trailingOnes_mul_pow (n t k : Nat) (h : t < k) : trailingOnes k (n * 2 ^ (t + 1) + 2 ^ t - 1) = t := by
  induction t generalizing k with
  | zero =>
    obtain ⟨k, rfl⟩ := Nat.exists_eq_succ_of_ne_zero (Nat.ne_of_gt h)
    rw [trailingOnes, if_neg (by omega)]
  | succ t ih =>
    obtain ⟨k, rfl⟩ := Nat.exists_eq_succ_of_ne_zero (Nat.ne_of_gt (Nat.zero_lt_of_lt h))
    have hpos : 0 < 2 ^ t := Nat.two_pow_pos t
    have hx : n * 2 ^ (t + 1 + 1) + 2 ^ (t + 1) - 1 = 2 * (n * 2 ^ (t + 1) + 2 ^ t - 1) + 1 := by
      rw [Nat.pow_succ 2 (t + 1), Nat.pow_succ 2 t, ← Nat.mul_assoc]; omega
    have hhalf : (2 * (n * 2 ^ (t + 1) + 2 ^ t - 1) + 1) / 2 = n * 2 ^ (t + 1) + 2 ^ t - 1 := by omega
    rw [hx, trailingOnes, if_pos (by omega), hhalf, ih k (Nat.lt_of_succ_lt_succ h), Nat.add_comm]

/-- PNF of the `n`-th page of 4 KiB × 2^t: the page's number above a zero and `t` ones. -/
def pageFrame (t n : Nat) : Nat := n * 2 ^ (t + 1) + 2 ^ t - 1

theorem leafEntry_eq (t n attr : Nat) : leafEntry t n attr = attr % 256 + 256 + 4096 * pageFrame t n := rfl

theorem pageFrame_lt {t n : Nat} (ht : t ≤ 20) (hn : n * 2 ^ (t + 1) < 2 ^ 41) : pageFrame t n < 2 ^ 41 := by
  have hsplit : 2 ^ 41 = 2 ^ (40 - t) * 2 ^ (t + 1) := by rw [← Nat.pow_add]; congr 1; omega
  have hn' : n + 1 ≤ 2 ^ (40 - t) := Nat.lt_of_mul_lt_mul_right (hsplit ▸ hn)
  have hle : (n + 1) * 2 ^ (t + 1) ≤ 2 ^ 41 := hsplit ▸ Nat.mul_le_mul_right _ hn'
  have hpos : 0 < 2 ^ t := Nat.two_pow_pos t
  rw [Nat.add_mul, Nat.one_mul, Nat.pow_succ 2 t] at hle
  rw [Nat.pow_succ 2 t] at hn
  unfold pageFrame
  rw [Nat.pow_succ 2 t]
  omega

theorem pageFrame_div (t n : Nat) : pageFrame t n / 2 ^ (t + 1) = n := by
  have hpos : 0 < 2 ^ t := Nat.two_pow_pos t
  have hlt : 2 ^ t - 1 < 2 ^ (t + 1) := by rw [Nat.pow_succ]; omega
  rw [pageFrame, Nat.add_sub_assoc hpos, Nat.mul_comm, Nat.mul_add_div (Nat.two_pow_pos _), Nat.div_eq_of_lt hlt, Nat.add_zero]

theorem leafEntry_pnf {t n attr : Nat} (ht : t ≤ 20) (hn : n * 2 ^ (t + 1) < 2 ^ 41) : leafEntry t n attr / 4096 % 2 ^ 41 = pageFrame t n := by
  have := pageFrame_lt ht hn
  rw [leafEntry_eq]; omega

theorem leafT_leafEntry {t n attr : Nat} (ht : t ≤ 20) (hn : n * 2 ^ (t + 1) < 2 ^ 41) : leafT (leafEntry t n attr) = t := by
  rw [leafT, leafEntry_pnf ht hn]
  exact trailingOnes_mul_pow n t 41 (by omega)

/-- The rest of a leaf entry: its reserved bits are 0, and its low byte is the one given (R245). -/
theorem leafEntry_bits {t n attr : Nat} (ht : t ≤ 20) (hn : n * 2 ^ (t + 1) < 2 ^ 41) (ha : attr < 256) : let e := leafEntry t n attr
    e / 2 ^ 63 % 2 = 0 ∧ e / 2 ^ 10 % 4 = 0 ∧ e / 2 ^ 9 % 2 = 0 ∧ e / 64 % 4 = attr / 64 ∧ e / 32 % 2 = attr / 32 % 2 ∧
      e / 16 % 2 = attr / 16 % 2 ∧ e / 8 % 2 = attr / 8 % 2 ∧ e / 4 % 2 = attr / 4 % 2 ∧ e / 2 % 2 = attr / 2 % 2 := by
  have := pageFrame_lt ht hn
  rw [leafEntry_eq]
  generalize pageFrame t n = p at this ⊢
  refine ⟨?_, ?_, ?_, ?_, ?_, ?_, ?_, ?_, ?_⟩ <;> omega

/-- What a well-formed leaf entry gives: its page, or the first part of its coverage. -/
theorem State.readLeaf_leafEntry (s : State) (part va at_ : Nat) {level t n attr : Nat} (ht : t ≤ 20) (hn : n * 2 ^ (t + 1) < 2 ^ 41) (ha : attr < 256)
    (hwr : attr / 4 % 2 = 1 → attr / 2 % 2 = 1) (hown : s.owned part (n * (4096 * 2 ^ t)) (4096 * 2 ^ t) = true)
    (hsize : 4096 * 2 ^ t ≤ 2048 * coverage level) : s.readLeaf part (leafEntry t n attr) level va at_ =
      if 4096 * 2 ^ t < coverage level ∧ 4096 * 2 ^ t ≤ va % coverage level then .fault 0 level at_ false
      else .leaf { base := n * (4096 * 2 ^ t), size := 4096 * 2 ^ t
                   vbase := if 4096 * 2 ^ t < coverage level then va / coverage level * coverage level else va / (4096 * 2 ^ t) * (4096 * 2 ^ t)
                   kind := attr / 64, por := attr / 32 % 2 == 1, user := attr / 16 % 2 == 1, x := attr / 8 % 2 == 1
                   w := attr / 4 % 2 == 1, r := attr / 2 % 2 == 1, entryAt := at_, level := level } := by
  obtain ⟨h63, h10, h9, hkind, hpor, huser, hx, hw, hr⟩ := leafEntry_bits ht hn ha
  have hbase : leafEntry t n attr / 2 ^ 12 % 2 ^ 41 / 2 ^ (t + 1) * 2 ^ (12 + t) = n * (4096 * 2 ^ t) := by
    rw [show (2 : Nat) ^ 12 = 4096 from rfl, leafEntry_pnf ht hn, pageFrame_div, Nat.pow_add]
  unfold State.readLeaf
  simp only [leafT_leafEntry ht hn, hbase, hown, h63, h10, h9, hkind, hpor, huser, hx, hw, hr]
  rw [if_neg (by omega)]
  rfl

/-! ## Walks (11 R244, R248) -/

/-- The physical address of the entry that an address indexes in a table. -/
def entryAddr (va level table : Nat) : Nat := table + 8 * (va / coverage level % 2048)

/-- One level of a walk, with what a table entry leads to. -/
def State.walkLevel (s : State) (part va level table : Nat) (lower : Nat → Walk) : Walk :=
  let at_ := entryAddr va level table
  let mine := s.owned part at_ 8
  let e := if mine then s.wordAt at_ 8 else 0
  if mine && s.poisonedAt at_ 8 then .fault 1 level at_ false
  else if e % 2 = 0 then .fault 0 level at_ (e / 512 % 2 == 1)
  else if e / 256 % 2 = 1 then s.readLeaf part e level va at_
  else lower e

/-- Where a table entry above level 0 leads. -/
def State.walkTable (s : State) (part va k at_ e : Nat) : Walk :=
  if e / 2 ^ 63 % 2 = 1 ∨ e / 2 ^ 52 % 2 = 1 ∨ e / 2 ^ 9 % 8 ≠ 0 ∨ e / 2 % 128 ≠ 0 ∨ e / 2 ^ 12 % 4 ≠ 0 then .fault 1 (k + 1) at_ false
  else s.walkFrom part va k (e / 2 ^ 14 % 2 ^ 38 * 2 ^ 14)

theorem State.walkFrom_zero (s : State) (part va table : Nat) :
    s.walkFrom part va 0 table = s.walkLevel part va 0 table fun _ => .fault 1 0 (entryAddr va 0 table) false := rfl

theorem State.walkFrom_succ (s : State) (part va k table : Nat) :
    s.walkFrom part va (k + 1) table = s.walkLevel part va (k + 1) table (s.walkTable part va k (entryAddr va (k + 1) table)) := rfl

/-- Every walk begins with one level. -/
theorem State.walkFrom_level (s : State) (part va level table : Nat) :
    ∃ lower, s.walkFrom part va level table = s.walkLevel part va level table lower := by
  cases level with
  | zero => exact ⟨_, s.walkFrom_zero part va table⟩
  | succ k => exact ⟨_, s.walkFrom_succ part va k table⟩

theorem State.walkTable_next (s : State) (part va k at_ : Nat) {x : Nat} (hx : x < 2 ^ 38) :
    s.walkTable part va k at_ (1 + x * 2 ^ 14) = s.walkFrom part va k (x * 2 ^ 14) := by
  have hnext : (1 + x * 2 ^ 14) / 2 ^ 14 % 2 ^ 38 = x := by omega
  rw [State.walkTable, if_neg (by omega), hnext]

section
variable {s : State} {part va level table : Nat} {lower : Nat → Walk}

theorem State.walkLevel_unowned (hown : s.owned part (entryAddr va level table) 8 = false) :
    s.walkLevel part va level table lower = .fault 0 level (entryAddr va level table) false := by
  simp [State.walkLevel, hown]

variable (hown : s.owned part (entryAddr va level table) 8 = true)
include hown

theorem State.walkLevel_poisoned (hp : s.poisonedAt (entryAddr va level table) 8 = true) :
    s.walkLevel part va level table lower = .fault 1 level (entryAddr va level table) false := by
  simp [State.walkLevel, hown, hp]

variable (hp : s.poisonedAt (entryAddr va level table) 8 = false)
include hp

theorem State.walkLevel_absent (hv : s.wordAt (entryAddr va level table) 8 % 2 = 0) :
    s.walkLevel part va level table lower =
      .fault 0 level (entryAddr va level table) (s.wordAt (entryAddr va level table) 8 / 512 % 2 == 1) := by
  simp [State.walkLevel, hown, hp, hv]

variable (hv : s.wordAt (entryAddr va level table) 8 % 2 = 1)
include hv

theorem State.walkLevel_leaf (hl : s.wordAt (entryAddr va level table) 8 / 256 % 2 = 1) :
    s.walkLevel part va level table lower =
      s.readLeaf part (s.wordAt (entryAddr va level table) 8) level va (entryAddr va level table) := by
  simp [State.walkLevel, hown, hp, hv, hl]

theorem State.walkLevel_table (hl : s.wordAt (entryAddr va level table) 8 / 256 % 2 = 0) :
    s.walkLevel part va level table lower = lower (s.wordAt (entryAddr va level table) 8) := by
  simp [State.walkLevel, hown, hp, hv, hl]

end

/-! ## Translation (11 R247, R248) -/

/-- The uses that a page permits: R, W, X and USER, and no write of a READONLY page. -/
theorem Leaf.allows_iff (l : Leaf) {need : Need} (h : need.cell = false) :
    l.allows need = true ↔ (need.r → l.r) ∧ (need.w → l.w ∧ l.kind ≠ 1) ∧ (need.x → l.x) ∧ (need.user → l.user) := by
  have granted (p q : Bool) : (!p || q) = true ↔ (p → q) := by cases p <;> simp
  have writable : (l.w && l.kind != 1) = true ↔ l.w ∧ l.kind ≠ 1 := by rw [Bool.and_eq_true, bne_iff_ne]
  simp only [Leaf.allows, h, Bool.and_eq_true, granted, writable, Bool.not_false, Bool.true_or, and_true, and_assoc]

theorem Leaf.use_eq (l : Leaf) (va : Nat) {need : Need} (h : need.cell = false) :
    l.use va need = if l.allows need then .ok (l.base + (va - l.vbase)) l else .denied := by
  simp [Leaf.use, h]

@[simp] theorem State.notePage_tlb (s : State) (ctx va : Nat) : (s.notePage ctx va).tlb = s.tlb := by
  unfold State.notePage; split <;> rfl

theorem State.useLeaf_fst (s : State) (ctx : Nat) (l : Leaf) (va : Nat) (need : Need) : (s.useLeaf ctx l va need).1 = l.use va need := by
  unfold State.useLeaf
  split
  · next heq => exact heq.symm
  · rfl

@[simp] theorem State.useLeaf_tlb (s : State) (ctx : Nat) (l : Leaf) (va : Nat) (need : Need) : (s.useLeaf ctx l va need).2.tlb = s.tlb := by
  rw [State.useLeaf_frame]

/-- A leaf that a walk has found is cached, then used. -/
theorem State.xlate_leaf {s : State} {unit part ctx va : Nat} {l : Leaf} (need : Need) (hmiss : s.tlbFind unit ctx va = none)
    (hwalk : s.walk part ctx va = .leaf l) : ∃ t, s.xlate unit part ctx va need = { s with tlb := t :: s.tlb }.useLeaf ctx l va need := by
  unfold State.xlate
  rw [hmiss, hwalk]
  exact ⟨_, rfl⟩

theorem State.xlate_fault {s : State} {unit part ctx va why level at_ : Nat} {pool : Bool} (need : Need) (hmiss : s.tlbFind unit ctx va = none)
    (hwalk : s.walk part ctx va = .fault why level at_ pool) : s.xlate unit part ctx va need = (.fault why level at_ pool, s) := by
  unfold State.xlate
  rw [hmiss, hwalk]

theorem walks_find_leaves : walksFindLeaves := by
  refine ⟨?_, ?_, ?_, ?_⟩
  · intro s part level va at_ t n attr _ ht hn ha _ hwr hown hsize size cov leaf
    have hread := s.readLeaf_leafEntry part va at_ ht hn ha hwr hown hsize
    refine ⟨fun h => ?_, fun hlt hin => ?_, fun hlt hout => ?_⟩
    · rw [hread, if_neg fun hc => Nat.not_lt.mpr h hc.1, if_neg (show ¬ 4096 * 2 ^ t < coverage level from Nat.not_lt.mpr h)]
    · rw [hread, if_neg fun hc => Nat.not_lt.mpr hc.2 hin, if_pos (show 4096 * 2 ^ t < coverage level from hlt)]; rfl
    · rw [hread, if_pos ⟨hlt, hout⟩]
  · intro s part va level table at_ e
    obtain ⟨lower, hwalk⟩ := s.walkFrom_level part va level table
    refine ⟨fun hown => hwalk.trans (State.walkLevel_unowned hown), fun hown => ⟨fun hp => hwalk.trans (State.walkLevel_poisoned hown hp),
      fun hp hv => hwalk.trans (State.walkLevel_absent hown hp hv), fun hp hv hl => hwalk.trans (State.walkLevel_leaf hown hp hv hl), ?_, ?_⟩⟩
    · rintro hp hv hl rfl
      exact (s.walkFrom_zero part va table).trans (State.walkLevel_table hown hp hv hl)
    · rintro k x rfl hp hx he
      have hv : e % 2 = 1 := by omega
      have hl : e / 256 % 2 = 0 := by omega
      rw [State.walkFrom_succ, State.walkLevel_table hown hp hv hl]
      exact (congrArg (s.walkTable part va k at_) he).trans (s.walkTable_next part va k at_ hx)
  · intro s unit part ctx va l need hmiss hwalk hcell r allowed
    obtain ⟨t, ht⟩ := State.xlate_leaf need hmiss hwalk
    have hr : r = State.useLeaf { s with tlb := t :: s.tlb } ctx l va need := ht
    have hfst : r.1 = if l.allows need then .ok (l.base + (va - l.vbase)) l else .denied := by
      rw [hr, State.useLeaf_fst, Leaf.use_eq l va hcell]
    have hallow : l.allows need = true ↔ allowed := Leaf.allows_iff l hcell
    refine ⟨State.xlate_mem .., by rw [hr, State.useLeaf_tlb]; rfl, fun h => ?_, fun h => ?_⟩
    · rw [hfst, if_pos (hallow.mpr h)]
    · rw [hfst, if_neg (mt hallow.mp h)]
  · intro s unit part ctx va why level at_ pool need hmiss hwalk
    exact State.xlate_fault need hmiss hwalk

/-- Settles O54, from where each segment places an address, and what a walk and a translation give. -/
theorem segmentsAndTranslation : Obligations.SegmentsAndTranslation := ⟨segments_place_addresses, walks_find_leaves⟩

end Sys2Proof.Machine
end

section
/-! PROOFS. What a lane word leaves (07 R149), with and without produced NaNs (04 R76). -/

namespace Sys2Proof.Machine

open Sys2Proof Sys2Proof.Claim

/-! ## Writing one lane register -/

@[simp] theorem Slice.laneRing_writeV (sl : Slice) (c : RCtx) (lat : Lat) (v w : VReg) (k : Nat) (x : LVal) (n : Nat) :
    (sl.writeV c lat v k x).laneRing n w = sl.laneRing n w := rfl

/-- A lane write changes its lane's entry and no other. -/
theorem Slice.writeV_lane (sl : Slice) (c : RCtx) (lat : Lat) (v : VReg) (x : LVal) (r : Nat) {j k : Nat} (hj : j < 4) (hk : k < 4) :
    Map.get {} (sl.writeV c lat v k x).lane (4 * r + j) =
      if j = k ∧ sl.laneRing c.lregs v = r then x else Map.get {} sl.lane (4 * r + j) := by
  have hkey : 4 * r + j = 4 * sl.laneRing c.lregs v + k ↔ j = k ∧ sl.laneRing c.lregs v = r := by omega
  simp only [Slice.writeV, Map.get_set, hkey]

theorem Slice.mem_writeV_pending {sl : Slice} {p : Pending} (h : p ∈ sl.pending) (c : RCtx) (lat : Lat) (v : VReg) (k : Nat) (x : LVal) :
    ∃ p' ∈ (sl.writeV c lat v k x).pending, p' = { p with passed := p'.passed } := mem_pendAdd h

/-- A lane register written in the lanes of a list. -/
def Slice.writeLanes (c : RCtx) (lat : Lat) (v : VReg) (x : Nat → LVal) (ks : List Nat) (sl : Slice) : Slice :=
  ks.foldl (fun acc k => acc.writeV c lat v k (x k)) sl

@[simp] theorem Slice.writeLanes_nil (c : RCtx) (lat : Lat) (v : VReg) (x : Nat → LVal) (sl : Slice) : sl.writeLanes c lat v x [] = sl := rfl

@[simp] theorem Slice.writeLanes_cons (c : RCtx) (lat : Lat) (v : VReg) (x : Nat → LVal) (k : Nat) (ks : List Nat) (sl : Slice) :
    sl.writeLanes c lat v x (k :: ks) = (sl.writeV c lat v k (x k)).writeLanes c lat v x ks := rfl

section
variable (c : RCtx) (lat : Lat) (v : VReg) (x : Nat → LVal)

theorem Slice.writeLanes_lane (r : Nat) {j : Nat} (hj : j < 4) {ks : List Nat} (hks : ∀ k ∈ ks, k < 4) (sl : Slice) :
    Map.get {} (sl.writeLanes c lat v x ks).lane (4 * r + j) =
      if j ∈ ks ∧ sl.laneRing c.lregs v = r then x j else Map.get {} sl.lane (4 * r + j) := by
  induction ks generalizing sl with
  | nil => simp
  | cons k ks ih =>
    rw [Slice.writeLanes_cons, ih (fun j hj => hks j (List.mem_cons_of_mem _ hj)), Slice.writeV_lane sl c lat v _ r hj (hks k List.mem_cons_self),
      Slice.laneRing_writeV]
    by_cases hr : sl.laneRing c.lregs v = r
    · by_cases hk : j = k
      · simp [hr, hk]
      · simp [hr, hk]
    · simp [hr]

theorem Slice.writeLanes_frame (ks : List Nat) (sl : Slice) :
    sl.writeLanes c lat v x ks = { sl with lane := (sl.writeLanes c lat v x ks).lane, pending := (sl.writeLanes c lat v x ks).pending } := by
  induction ks generalizing sl with
  | nil => rfl
  | cons k ks ih => rw [Slice.writeLanes_cons, ih]; rfl

theorem Slice.mem_writeLanes_pending (ks : List Nat) {sl : Slice} {p : Pending} (h : p ∈ sl.pending) :
    ∃ p' ∈ (sl.writeLanes c lat v x ks).pending, p' = { p with passed := p'.passed } := by
  induction ks generalizing sl p with
  | nil => exact ⟨p, h, rfl⟩
  | cons k ks ih =>
    obtain ⟨q, hq, hqp⟩ := Slice.mem_writeV_pending h c lat v k (x k)
    obtain ⟨p', hp', he⟩ := ih hq
    exact ⟨p', hp', by rw [he, hqp]⟩

end

@[simp] theorem mem_lanesOf (a : BitVec 4) (k : Nat) : k ∈ lanesOf a ↔ k < 4 ∧ a.getLsbD k = true := by simp [lanesOf]

/-- A lane word whose effect is one register leaves what `LanesDone` says. -/
theorem lanesDone_single (sl : Slice) (c : RCtx) (lat : Lat) (v : VReg) (x : Nat → LVal) (a : BitVec 4) :
    LanesDone c.lregs a (fun k => single v (x k).v (x k).tag) sl ((sl.writeLanes c lat v x (lanesOf a)).advance 12 false) := by
  have hframe := sl.writeLanes_frame c lat v x (lanesOf a)
  refine ⟨fun r k hk => ?_, fun m k _ => ?_, fun k _ => ?_, fun p hp => Slice.mem_writeLanes_pending c lat v x _ hp, ?_⟩
  · rw [show ((sl.writeLanes c lat v x (lanesOf a)).advance 12 false).lane = (sl.writeLanes c lat v x (lanesOf a)).lane from rfl,
      Slice.writeLanes_lane c lat v x r hk fun j hj => ((mem_lanesOf a j).1 hj).1]
    by_cases hr : sl.laneRing c.lregs v = r
    · simp [single, hr, hk]
    · simp [single, hr]
  · rw [hframe]; rfl
  · rw [hframe]; simp [single, stepped, Slice.advance, Slice.after, Slice.lfsrOf]
  · rw [hframe]; simp [Slice.advance, Slice.after]

/-! ## Words that may produce NaNs -/

/-- The lanes' effects and the mask of the lanes counted, one beside the other. -/
theorem foldl_laneCount (f : Nat → Slice → Slice) (bad : Nat → Bool) (w : Nat → Nat) (ks : List Nat) (p : Slice × Nat) :
    ks.foldl (fun p k => (f k p.1, if bad k then p.2 + w k else p.2)) p =
      (ks.foldl (fun acc k => f k acc) p.1, p.2 + (ks.map fun k => if bad k then w k else 0).sum) := by
  induction ks generalizing p with
  | nil => rfl
  | cons k ks ih =>
    rw [List.foldl_cons, ih, List.foldl_cons, List.map_cons, List.sum_cons]
    cases bad k
    · simp
    · simp [Nat.add_assoc]

/-- The lanes under NANTRAP that produce a NaN, as NAN_PRODUCED shows them (04 R76). -/
def Gang.nanMask (g : Gang) (c : RCtx) (pm : Pm) (nan : Slice → Nat → Bool) : Nat :=
  (g.slices.map fun sl => ((lanesOf (sl.act c pm)).map fun k => if sl.nantrap && nan sl k then 2 ^ (4 * sl.pos + k) else 0).sum).sum

/-- A lane word whose NaNs do not depend on the effect of other lanes traps with their mask, or writes every slice. -/
theorem laneWordN_go {i : Instr} {s : State} {g : Gang} (hrun : Runs i s g) (f : RCtx → Slice → Nat → Slice → Slice)
    (nan : RCtx → Slice → Nat → Bool) :
    laneWordN i s (fun c sl k acc => (f c sl k acc, nan c sl k)) =
      if g.nanMask (s.rctx g) (pmOf i) (nan (s.rctx g)) ≠ 0 then
        .next (s.trapped g ⟨Cause.nanProduced, BitVec.ofNat 64 (g.nanMask (s.rctx g) (pmOf i) (nan (s.rctx g)))⟩)
      else
        .next (s.wordDone (g.mapSlices fun sl =>
          ((lanesOf (sl.act (s.rctx g) (pmOf i))).foldl (fun acc k => f (s.rctx g) sl k acc) sl).advance (wordBytes i) (regionEnding i))) := by
  rw [laneWordN, runWord_go hrun.1 hrun.2]
  simp only [foldl_laneCount (f _ _), List.map_map, Function.comp_def, Nat.zero_add, Slice.laneIx]
  simp only [Gang.nanMask, Gang.mapSlices, Bool.and_comm]
  rfl

/-- A gang put back with each slice changed has completed its word. -/
theorem completes_mapSlices {i : Instr} {s : State} {g : Gang} {P : Slice → Slice → Prop} {f : Slice → Slice}
    (hexec : exec i s = .next (s.wordDone (g.mapSlices f))) (hP : ∀ sl, P sl (f sl)) : Completes i s g P := by
  refine ⟨g.mapSlices f, hexec, rfl, by simp [Gang.mapSlices], fun n sl sl' hsl hsl' => ?_⟩
  have : f sl = sl' := by simpa [Gang.mapSlices, hsl] using hsl'
  exact this ▸ hP sl

end Sys2Proof.Machine
end

section
/-! PROOFS. Codes of f32: which are NaN, and what rounding a finite value gives (04 R72, R77). -/

namespace Sys2Proof.Machine

open Sys2Proof Sys2Proof.Claim

/-! ## Codes that are NaN -/

@[simp] theorem FVal.isNan_nan : FVal.nan.isNan = true := rfl

@[simp] theorem FVal.isNan_inf (neg : Bool) : (FVal.inf neg).isNan = false := rfl

@[simp] theorem FVal.isNan_fin (neg : Bool) (m : Nat) (e : Int) : (FVal.fin neg m e).isNan = false := rfl

/-- 04 R72 for f32. -/
theorem decode_f32 (code : Nat) : fmtF32.decode code =
    if code % 2 ^ 31 / 2 ^ 23 = 255 then (if code % 2 ^ 31 % 2 ^ 23 = 0 then .inf (code.testBit 31) else .nan)
    else if code % 2 ^ 31 / 2 ^ 23 = 0 then .fin (code.testBit 31) (code % 2 ^ 31 % 2 ^ 23) (-149)
    else .fin (code.testBit 31) (2 ^ 23 + code % 2 ^ 31 % 2 ^ 23) (-149 + (code % 2 ^ 31 / 2 ^ 23 - 1 : Nat)) := by
  simp [Fmt.decode, fmtF32, Fmt.eMin]

/-- A code of f32 is a NaN past the code of infinity, whatever its sign. -/
theorem isNan_decode_f32 (code : Nat) : (fmtF32.decode code).isNan = decide (0x7F800000 < code % 2 ^ 31) := by
  rw [decode_f32, eq_comm]
  split
  · split
    · exact decide_eq_false (by omega)
    · exact decide_eq_true (by omega)
  · split
    · exact decide_eq_false (by omega)
    · exact decide_eq_false (by omega)

theorem signBit_f32 (neg : Bool) : fmtF32.signBit neg = zero32 neg := by cases neg <;> rfl

theorem isNan_decode_sign_add {code : Nat} (h : code ≤ 0x7F800000) (neg : Bool) : (fmtF32.decode (zero32 neg + code)).isNan = false := by
  rw [isNan_decode_f32]
  cases neg
  · exact decide_eq_false (show ¬ 0x7F800000 < (0 + code) % 2 ^ 31 by omega)
  · exact decide_eq_false (show ¬ 0x7F800000 < (0x80000000 + code) % 2 ^ 31 by omega)

/-! ## Rounding to f32 -/

/-- The largest finite value of f32. -/
theorem decode_maxCode_f32 : fmtF32.decode fmtF32.maxCode = .fin false (2 ^ 24 - 1) 104 := by decide

theorem beyond_f32 (m : Nat) (e : Int) (sticky : Bool) :
    (fmtF32.beyond m e sticky).1 =
      (decide (scaleTo (min e 103) (2 ^ 24 - 1) 104 < scaleTo (min e 103) m e) ||
        (decide (scaleTo (min e 103) (2 ^ 24 - 1) 104 = scaleTo (min e 103) m e) && sticky)) := by
  rw [Fmt.beyond, decode_maxCode_f32]; rfl

/-- A nonzero magnitude that f32 holds has its leading digit at 2^127 at most. -/
theorem log2_le_of_not_beyond {m : Nat} {e : Int} {sticky : Bool} (hm : m ≠ 0) (h : (fmtF32.beyond m e sticky).1 = false) :
    e + Nat.log2 m ≤ 127 := by
  rw [beyond_f32, Bool.or_eq_false_iff, decide_eq_false_iff_not, Nat.not_lt] at h
  obtain ⟨a, ha⟩ := Int.eq_ofNat_of_zero_le (show 0 ≤ e - min e 103 by omega)
  obtain ⟨b, hb⟩ := Int.eq_ofNat_of_zero_le (show 0 ≤ 104 - min e 103 by omega)
  have hle : m * 2 ^ a ≤ (2 ^ 24 - 1) * 2 ^ b := by simpa [scaleTo, ha, hb] using h.1
  have hlt : 2 ^ (Nat.log2 m + a) < 2 ^ (24 + b) := by
    calc 2 ^ (Nat.log2 m + a) = 2 ^ Nat.log2 m * 2 ^ a := Nat.pow_add ..
      _ ≤ m * 2 ^ a := Nat.mul_le_mul_right _ (Nat.log2_self_le hm)
      _ ≤ (2 ^ 24 - 1) * 2 ^ b := hle
      _ < 2 ^ (24 + b) := by rw [Nat.pow_add]; exact Nat.mul_lt_mul_of_pos_right (by decide) (Nat.two_pow_pos b)
  have := (Nat.pow_lt_pow_iff_right (by decide)).1 hlt
  omega

/-- The magnitude in units of its last place. -/
def unitsF32 (rm st : Nat) (neg : Bool) (m : Nat) (e : Int) (sticky : Bool) : Nat :=
  if ulpExp m e ≤ e then m * 2 ^ (e - ulpExp m e).toNat else roundUnits rm st neg m sticky (ulpExp m e - e).toNat

/-- The code of `q` units of 2^u, u at least −149. -/
def codeF32 (u : Int) (q : Nat) : Nat := if q < 2 ^ 23 then q else (u + 149).toNat * 2 ^ 23 + q

theorem roundMag_f32 {m : Nat} {e : Int} {sticky : Bool} (h : (fmtF32.beyond m e sticky).1 = false) (rm st : Nat) (neg : Bool) :
    fmtF32.roundMag rm st neg m e sticky = .code (codeF32 (ulpExp m e) (unitsF32 rm st neg m e sticky)) := by
  have hemin : fmtF32.eMin = -149 := rfl
  have hunits (u : Int) : u - -149 = u + 149 := by omega
  simp only [Fmt.roundMag, h, Bool.false_eq_true, if_false, codeF32, unitsF32, ulpExp, hemin, hunits]
  rfl

theorem ite_eq_either {α : Type} (p : Prop) [Decidable p] (a b : α) : (if p then a else b) = a ∨ (if p then a else b) = b := by
  by_cases h : p
  · exact .inl (if_pos h)
  · exact .inr (if_neg h)

theorem roundMag_past {m : Nat} {e : Int} {sticky : Bool} (h : (fmtF32.beyond m e sticky).1 = true) (rm st : Nat) (neg : Bool) :
    fmtF32.roundMag rm st neg m e sticky = .over ∨ fmtF32.roundMag rm st neg m e sticky = .code fmtF32.maxCode := by
  simp only [Fmt.roundMag, h, if_true]
  exact ite_eq_either ..

theorem ite_succ_le (p : Prop) [Decidable p] (q : Nat) : (if p then q + 1 else q) ≤ q + 1 := by
  by_cases h : p
  · exact Nat.le_of_eq (if_pos h)
  · exact Nat.le_trans (Nat.le_of_eq (if_neg h)) (Nat.le_succ q)

theorem roundUnits_le (rm st : Nat) (neg : Bool) (m : Nat) (sticky : Bool) (sh : Nat) : roundUnits rm st neg m sticky sh ≤ m / 2 ^ sh + 1 := by
  unfold roundUnits
  exact ite_succ_le ..

theorem unitsF32_le (rm st : Nat) (neg : Bool) (m : Nat) (e : Int) (sticky : Bool) : unitsF32 rm st neg m e sticky ≤ 2 ^ 24 := by
  have hm : m < 2 ^ (Nat.log2 m + 1) := Nat.lt_log2_self
  have hu : e + Nat.log2 m - 23 ≤ ulpExp m e := Int.le_max_right ..
  unfold unitsF32
  split
  · have hexp : Nat.log2 m + 1 + (e - ulpExp m e).toNat ≤ 24 := by omega
    calc m * 2 ^ (e - ulpExp m e).toNat ≤ 2 ^ (Nat.log2 m + 1) * 2 ^ (e - ulpExp m e).toNat := Nat.mul_le_mul_right _ (Nat.le_of_lt hm)
      _ = 2 ^ (Nat.log2 m + 1 + (e - ulpExp m e).toNat) := (Nat.pow_add ..).symm
      _ ≤ 2 ^ 24 := Nat.pow_le_pow_right (by decide) hexp
  · have hexp : Nat.log2 m + 1 ≤ 24 + (ulpExp m e - e).toNat := by omega
    have hdiv : m / 2 ^ (ulpExp m e - e).toNat < 2 ^ 24 := by
      rw [Nat.div_lt_iff_lt_mul (Nat.two_pow_pos _), ← Nat.pow_add]
      exact Nat.lt_of_lt_of_le hm (Nat.pow_le_pow_right (by decide) hexp)
    exact Nat.le_trans (roundUnits_le ..) hdiv

/-- Rounding never passes the code of infinity. -/
theorem codeF32_units_le {m : Nat} {e : Int} {sticky : Bool} (h : (fmtF32.beyond m e sticky).1 = false) (rm st : Nat) (neg : Bool) :
    codeF32 (ulpExp m e) (unitsF32 rm st neg m e sticky) ≤ 0x7F800000 := by
  have hq := unitsF32_le rm st neg m e sticky
  unfold codeF32
  split
  · omega
  · by_cases hm : m = 0
    · have : unitsF32 rm st neg m e sticky ≤ 1 := by
        subst hm
        unfold unitsF32
        split
        · simp
        · simpa using roundUnits_le rm st neg 0 sticky (ulpExp 0 e - e).toNat
      omega
    · have hu : ulpExp m e = max (-149) (e + Nat.log2 m - 23) := rfl
      have := log2_le_of_not_beyond hm h
      omega

/-- Rounding a number to f32 gives no NaN (04 R77, R80). -/
theorem isNan_decode_roundFin (rm st : Nat) (nsat ftz neg : Bool) (m : Nat) (e : Int) (sticky : Bool) :
    (fmtF32.decode (fmtF32.roundFin rm st nsat ftz neg m e sticky)).isNan = false := by
  have hover : fmtF32.overflow nsat neg = zero32 neg + 0x7F800000 := by rw [← signBit_f32]; rfl
  have mag (c : Nat) (hc : fmtF32.roundMag rm st neg m e sticky = .code c) : c ≤ 0x7F800000 := by
    cases hpast : (fmtF32.beyond m e sticky).1 with
    | false =>
      rw [roundMag_f32 hpast, Rounded.code.injEq] at hc
      exact hc ▸ codeF32_units_le hpast rm st neg
    | true =>
      obtain hinf | hmax := roundMag_past hpast rm st neg
      · simp [hinf] at hc
      · rw [hmax, Rounded.code.injEq] at hc
        exact hc ▸ (by decide)
  unfold Fmt.roundFin
  rw [hover, signBit_f32]
  split
  · exact isNan_decode_sign_add (Nat.zero_le _) neg
  · split
    · exact isNan_decode_sign_add (Nat.le_refl _) neg
    · next c hc =>
      split
      · exact isNan_decode_sign_add (Nat.zero_le _) neg
      · exact isNan_decode_sign_add (mag c hc) neg

/-- A value rounded to f32 is a NaN when it was one. -/
theorem isNan_decode_round (rm st : Nat) (nsat ftz : Bool) (x : FVal) :
    (fmtF32.decode (fmtF32.round rm st nsat ftz x)).isNan = x.isNan := by
  cases x with
  | nan => rw [Fmt.round, isNan_decode_f32]; rfl
  | inf neg =>
    rw [Fmt.round, show fmtF32.overflow nsat neg = zero32 neg + 0x7F800000 by rw [← signBit_f32]; rfl]
    exact isNan_decode_sign_add (Nat.le_refl _) neg
  | fin neg m e => exact isNan_decode_roundFin rm st nsat ftz neg m e false

/-- A power of two of f32 is its own code. -/
theorem codePow_eq {k : Int} (hlo : -149 ≤ k) (hhi : k ≤ 127) : codePow k = pow32 k := by
  have hlog : Nat.log2 1 = 0 := by decide
  have hin : (fmtF32.beyond 1 k false).1 = false := by
    rw [beyond_f32, Bool.and_false, Bool.or_false, decide_eq_false_iff_not, Nat.not_lt]
    have hexp : (k - min k 103).toNat ≤ 23 + (104 - min k 103).toNat := by omega
    calc scaleTo (min k 103) 1 k = 2 ^ (k - min k 103).toNat := by simp [scaleTo]
      _ ≤ 2 ^ (23 + (104 - min k 103).toNat) := Nat.pow_le_pow_right (by decide) hexp
      _ ≤ scaleTo (min k 103) (2 ^ 24 - 1) 104 := by rw [Nat.pow_add]; exact Nat.mul_le_mul_right _ (by decide)
  have hulp : ulpExp 1 k = max (-149) (k - 23) := by simp [ulpExp, hlog, fmtF32, Fmt.eMin]
  have hle : ulpExp 1 k ≤ k := by omega
  have hcode : codePow k = codeF32 (ulpExp 1 k) (2 ^ (k - ulpExp 1 k).toNat) := by
    simp [codePow, Fmt.roundFin, roundMag_f32 hin, unitsF32, hle, signBit_f32, zero32]
  rw [hcode, codeF32, pow32]
  by_cases hk : -126 ≤ k
  · have hd : (k - ulpExp 1 k).toNat = 23 := by omega
    have hu : (ulpExp 1 k + 149).toNat + 1 = (k + 127).toNat := by omega
    rw [hd, if_neg (by decide), if_pos hk, ← hu, Nat.add_mul, Nat.one_mul]
  · have hd : (k - ulpExp 1 k).toNat = (k + 149).toNat := by omega
    rw [hd, if_pos (Nat.pow_lt_pow_right (by decide) (by omega)), if_neg hk]

end Sys2Proof.Machine
end

section
/-! PROOFS. The special functions (04 R89, R90; 07 R161). -/

namespace Sys2Proof.Machine

open Sys2Proof Sys2Proof.Claim

/-! ## The codes of the ends -/

theorem codeZero_eq (neg : Bool) : codeZero neg = zero32 neg := signBit_f32 neg

theorem codeInf_eq (neg : Bool) : codeInf neg = inf32 neg := by cases neg <;> rfl

theorem codeOne_eq (neg : Bool) : codeOne neg = one32 neg := by cases neg <;> rfl

theorem special_at_the_ends : specialAtTheEnds := by
  refine ⟨fun op b => rfl, fun neg e b => ?_, fun neg b => ?_, fun m e b hm => ?_⟩
  · simp [special, codeZero_eq, codeInf_eq, codeOne_eq]
  · simp [special, codeZero_eq, codeInf_eq, codeOne_eq, fmtF32]
  · simp [special, hm, fmtF32]

/-! ## Powers of two -/

theorem powerOf_pow (j : Nat) (k : Int) : powerOf (2 ^ j) (k - j) = some k := by
  simp [powerOf, Nat.log2_two_pow]

theorem pow32_le {n : Int} (hn : n ≤ 127) : pow32 n ≤ 0x7F800000 := by
  unfold pow32
  split
  · omega
  · have : 2 ^ (n + 149).toNat < 2 ^ 23 := Nat.pow_lt_pow_right (by decide) (by omega)
    omega

/-- The sign bit beside a code below it. -/
theorem lor_zero32 {code : Nat} (h : code ≤ 0x7F800000) (neg : Bool) : code ||| zero32 neg = zero32 neg + code := by
  cases neg
  · simp [zero32]
  · have := Nat.two_pow_add_eq_or_of_lt (show code < 2 ^ 31 by omega) 1
    rw [Nat.or_comm]
    exact this.symm

/-! ## Fixed point: 160 fraction bits hold every source of f32 whole -/

theorem toFp_eq {m : Nat} {e : Int} (he : -149 ≤ e) : toFp m e = m * 2 ^ (e + 149).toNat * 2 ^ 11 := by
  have hexp : (e + fp).toNat = (e + 149).toNat + 11 := by unfold fp; omega
  rw [toFp, if_pos (by unfold fp; omega), hexp, Nat.pow_add, Nat.mul_assoc]

/-- A whole number, however it is scaled. -/
theorem toFp_whole (n : Nat) {j : Nat} (hj : j ≤ 149) : toFp (n * 2 ^ j) (-j) = n * 2 ^ fp := by
  have hexp : (-(j : Int) + fp).toNat = fp - j := by unfold fp; omega
  rw [toFp, if_pos (by unfold fp; omega), hexp, Nat.mul_assoc, ← Nat.pow_add, Nat.add_sub_cancel' (by unfold fp; omega)]

theorem splitFp_whole (n : Int) {j : Nat} (hj : j ≤ 149) : splitFp (decide (n < 0)) (n.natAbs * 2 ^ j) (-j) = (n, 0) := by
  have hx : signed (decide (n < 0)) (n.natAbs * 2 ^ fp) = n * 2 ^ fp := by
    rw [signed, Int.natCast_mul, Int.natCast_pow]
    by_cases hn : n < 0
    · rw [if_pos (decide_eq_true hn), Int.ofNat_natAbs_of_nonpos (Int.le_of_lt hn), Int.neg_mul, Int.neg_neg]; rfl
    · rw [if_neg (by simpa using hn), Int.natAbs_of_nonneg (Int.not_lt.1 hn)]; rfl
  have hpos : (2 ^ fp : Int) ≠ 0 := Int.ne_of_gt (Int.pow_pos (by decide))
  simp only [splitFp, toFp_whole _ hj, hx, Int.mul_ediv_cancel _ hpos, Int.mul_emod_left, Int.toNat_zero]

/-- Quarter turns of ± q quarters, modulo a whole turn. -/
def quarters (neg : Bool) (q : Nat) : Nat := if neg then (4 - q % 4) % 4 else q % 4

theorem quarters_lt (neg : Bool) (q : Nat) : quarters neg q < 4 := by
  unfold quarters
  split
  · omega
  · omega

theorem signed_emod_four (neg : Bool) (q : Nat) : signed neg q % 4 = quarters neg q := by
  cases neg <;> simp only [signed, quarters, if_true, Bool.false_eq_true, if_false] <;> omega

/-- A source of whole quarter turns leaves whole quarters of its last turn. -/
theorem four_mul_turnOf (neg : Bool) {m : Nat} {e : Int} {q : Nat} (h : 4 * toFp m e = q * 2 ^ fp) :
    4 * turnOf neg m e = quarters neg q * 2 ^ fp := by
  have hfp : 2 ^ fp = 2 ^ 158 * 4 := by decide
  rw [hfp] at h
  have hx : toFp m e = 2 ^ 158 * q := by omega
  have hsigned : signed neg (2 ^ 158 * q) = 2 ^ 158 * signed neg q := by
    cases neg <;> simp only [signed, if_true, Bool.false_eq_true, if_false] <;> omega
  have hturn : turnOf neg m e = 2 ^ 158 * quarters neg q := by
    have hmod : signed neg (toFp m e) % 2 ^ fp = ((2 ^ 158 * quarters neg q : Nat) : Int) := by
      rw [hx, hsigned, show (2 ^ fp : Int) = 2 ^ 158 * 4 by decide, Int.mul_emod_mul_of_pos _ _ (by decide), signed_emod_four]
      rfl
    simp only [turnOf, splitFp, hmod, Int.toNat_natCast]
  rw [hturn, hfp]
  omega

/-! ## The exact results -/

theorem special_rcp_pow (neg : Bool) (j : Nat) {n : Int} (b : Word32) (hlo : -126 ≤ n) (hhi : n ≤ 127) :
    special 0 (.fin neg (2 ^ j) (-n - j)) b = zero32 neg + pow32 n := by
  have hcode : codePow n ||| codeZero neg = zero32 neg + pow32 n := by
    rw [codePow_eq (by omega) hhi, codeZero_eq, lor_zero32 (pow32_le hhi)]
  simp [special, powerOf_pow, hlo, hhi, hcode]

theorem special_rsq_pow (j : Nat) {n : Int} (b : Word32) (hlo : -126 ≤ n) (hhi : n ≤ 127) :
    special 1 (.fin false (2 ^ j) (-2 * n - j)) b = pow32 n := by
  have heven : -2 * n % 2 = 0 := by omega
  have hhalf : -(-2 * n / 2) = n := by omega
  simp only [special, powerOf_pow, heven, hhalf, codePow_eq (show -149 ≤ n by omega) hhi, if_true]
  simp

theorem special_sqrt_pow (j : Nat) {n : Int} (b : Word32) (hlo : -126 ≤ n) (hhi : n ≤ 127) :
    special 2 (.fin false (2 ^ j) (2 * n - j)) b = pow32 n := by
  have heven : 2 * n % 2 = 0 := by omega
  have hhalf : 2 * n / 2 = n := by omega
  simp only [special, powerOf_pow, heven, hhalf, codePow_eq (show -149 ≤ n by omega) hhi, if_true]
  simp

theorem special_exp2_whole {j : Nat} {n : Int} (b : Word32) (hn : n ≠ 0) (hlo : -149 ≤ n) (hhi : n ≤ 127) (hj : j ≤ 149) :
    special 3 (.fin (decide (n < 0)) (n.natAbs * 2 ^ j) (-j)) b = pow32 n := by
  have hm : n.natAbs * 2 ^ j ≠ 0 := Nat.mul_ne_zero (by omega) (Nat.ne_of_gt (Nat.two_pow_pos j))
  have htiny : ¬ 0 < -(-(j : Int) + fp) := by unfold fp; omega
  simp only [special, if_neg hm, splitFp_whole n hj, if_neg (show ¬ 128 ≤ n by omega), if_neg (show ¬ n < -150 by omega)]
  rw [if_pos ⟨trivial, fun h => htiny h.1, hlo⟩, codePow_eq hlo hhi]

theorem special_exp2_top {m : Nat} {e : Int} (b : Word32) (he : -149 ≤ e) (h : 128 * 2 ^ 149 ≤ m * 2 ^ (e + 149).toNat) :
    special 3 (.fin false m e) b = inf32 false := by
  have hm : m ≠ 0 := by rintro rfl; omega
  have hx : 128 * 2 ^ fp ≤ toFp m e := by rw [toFp_eq he]; unfold fp; omega
  have hn : (128 : Int) ≤ (splitFp false m e).1 :=
    (Int.le_ediv_iff_mul_le (Int.pow_pos (by decide))).2 (by simp only [signed, Bool.false_eq_true, if_false]; exact_mod_cast hx)
  simp only [special, if_neg hm, if_pos hn, codeInf_eq]

theorem special_exp2_bottom {m : Nat} {e : Int} (b : Word32) (he : -149 ≤ e) (h : 150 * 2 ^ 149 < m * 2 ^ (e + 149).toNat) :
    special 3 (.fin true m e) b = zero32 false := by
  have hm : m ≠ 0 := by rintro rfl; omega
  have hx : 150 * 2 ^ fp < toFp m e := by rw [toFp_eq he]; unfold fp; omega
  have hn : (splitFp true m e).1 < -150 := by
    have hx' : 150 * 2 ^ fp < (toFp m e : Int) := by exact_mod_cast hx
    exact Int.ediv_lt_of_lt_mul (Int.pow_pos (by decide)) (by simp only [signed, if_true, Int.neg_mul]; omega)
  simp only [special, if_neg hm, if_neg (show ¬ 128 ≤ (splitFp true m e).1 by omega), if_pos hn, codeZero_eq]

theorem special_quarter {neg : Bool} {m : Nat} {e : Int} {q : Nat} (b : Word32) (hm : m ≠ 0) (h : 4 * toFp m e = q * 2 ^ fp) :
    special 5 (.fin neg m e) b = quarterSin (quarters neg q) ∧ special 6 (.fin neg m e) b = quarterSin ((quarters neg q + 1) % 4) := by
  have hpos : 0 < 2 ^ fp := Nat.two_pow_pos fp
  simp [special, hm, four_mul_turnOf neg h, Nat.mul_div_cancel _ hpos]

theorem quarterSin_eq (r : Nat) :
    quarterSin r = if r = 1 then one32 false else if r = 3 then one32 true else zero32 false := by
  simp only [quarterSin, codeOne_eq, codeZero_eq]

/-- A cosine is the sine a quarter turn on. -/
theorem quarterSin_succ {r : Nat} (h : r < 4) :
    quarterSin ((r + 1) % 4) = if r = 0 then one32 false else if r = 2 then one32 true else zero32 false := by
  match r, h with
  | 0, _ | 1, _ | 2, _ | 3, _ => rfl

theorem special_tanh_top {neg : Bool} {m : Nat} {e : Int} (b : Word32) (he : -149 ≤ e) (h : 91 * 2 ^ 149 ≤ 10 * m * 2 ^ (e + 149).toNat) :
    special 7 (.fin neg m e) b = one32 neg := by
  have hm : m ≠ 0 := by rintro rfl; omega
  have hx : 91 * 2 ^ fp ≤ 10 * toFp m e := by
    rw [Nat.mul_assoc] at h
    rw [toFp_eq he]
    unfold fp
    omega
  simp only [special, if_neg hm, if_pos hx, codeOne_eq]

theorem special_exactly : specialExactly := by
  refine ⟨fun neg j n b => special_rcp_pow neg j b, fun j n b => special_rsq_pow j b, fun j n b => special_sqrt_pow j b,
    fun j n b => special_exp2_whole b, fun m e b => special_exp2_top b, fun m e b => special_exp2_bottom b, fun j n b => ?_,
    fun neg m e q b hm he h => ?_, fun neg m e b => special_tanh_top b⟩
  · simp [special, powerOf_pow, codeInt, ofInt]
  · have hfp : 4 * toFp m e = q * 2 ^ fp := by
      rw [Nat.mul_assoc] at h
      rw [toFp_eq he]
      unfold fp
      omega
    obtain ⟨hsin, hcos⟩ := special_quarter (neg := neg) b hm hfp
    exact ⟨hsin.trans (quarterSin_eq _), hcos.trans (quarterSin_succ (quarters_lt neg q))⟩

/-! ## The NaNs -/

theorem Approx.isNan_of_near {a : Approx} {bound : Bound} {x : FVal} (h : a.near bound x = true) : x.isNan = false := by
  cases x with
  | nan => simp [Approx.near] at h
  | inf neg => rfl
  | fin neg m e => rfl

/-- A free choice within the bound is no NaN, and neither is the nearest f32. -/
@[simp] theorem Approx.isNan_choose (a : Approx) (bound : Bound) (choice : Nat) :
    (fmtF32.decode (a.choose bound choice)).isNan = false := by
  unfold Approx.choose
  split
  · next h => exact Approx.isNan_of_near h
  · exact isNan_decode_roundFin ..

@[simp] theorem isNan_codePow (k : Int) : (fmtF32.decode (codePow k)).isNan = false := isNan_decode_roundFin ..

@[simp] theorem isNan_codeInt (k : Int) : (fmtF32.decode (codeInt k)).isNan = false := isNan_decode_roundFin ..

@[simp] theorem isNan_codeZero (neg : Bool) : (fmtF32.decode (codeZero neg)).isNan = false := by cases neg <;> rfl

@[simp] theorem isNan_codeInf (neg : Bool) : (fmtF32.decode (codeInf neg)).isNan = false := by cases neg <;> rfl

@[simp] theorem isNan_codeOne (neg : Bool) : (fmtF32.decode (codeOne neg)).isNan = false := by cases neg <;> rfl

@[simp] theorem isNan_quarterSin (q : Nat) : (fmtF32.decode (quarterSin q)).isNan = false := by
  unfold quarterSin
  split
  · simp
  · split
    · simp
    · simp

@[simp] theorem isNan_nan : (fmtF32.decode fmtF32.nan).isNan = true := by decide

theorem isNan_codePow_lor {k : Int} (hlo : -149 ≤ k) (hhi : k ≤ 127) (neg : Bool) :
    (fmtF32.decode (codePow k ||| codeZero neg)).isNan = false := by
  rw [codePow_eq hlo hhi, codeZero_eq, lor_zero32 (pow32_le hhi)]
  exact isNan_decode_sign_add (pow32_le hhi) neg

/-- Of the nonzero numbers only the negative ones of VFRSQ, VFSQRT and VFLOG2 give NaN (R90). -/
theorem isNan_special_number {op : Nat} (hop : op < 8) (neg : Bool) {m : Nat} (hm : m ≠ 0) (e : Int) (b : Word32) :
    (fmtF32.decode (special op (.fin neg m e) b)).isNan = (neg && (op == 1 || op == 2 || op == 4)) := by
  match op, hop with
  | 0, _ =>
    simp only [special, if_neg hm]
    cases powerOf m e with
    | none => simp
    | some k =>
      by_cases hk : -126 ≤ -k ∧ -k ≤ 127
      · simp only [if_pos hk, isNan_codePow_lor (show -149 ≤ -k by omega) hk.2]; simp
      · simp only [if_neg hk, Approx.isNan_choose]; simp
  | 1, _ | 2, _ | 4, _ => cases neg <;> cases h : powerOf m e <;> simp [special, hm, h, apply_ite]
  | 3, _ =>
    simp only [special, if_neg hm]
    repeat' split
    all_goals simp
  | 5, _ | 6, _ | 7, _ => simp [special, hm, apply_ite]

/-- A special function gives NaN for a NaN and where R90 gives it no result. -/
theorem isNan_special {op : Nat} (hop : op < 8) (x : FVal) (b : Word32) :
    (fmtF32.decode (special op x b)).isNan = (x.isNan || noResult op x) := by
  cases x with
  | nan => simp [special, noResult]
  | inf neg =>
    match op, hop with
    | 0, _ | 1, _ | 2, _ | 3, _ | 4, _ | 5, _ | 6, _ | 7, _ => cases neg <;> simp [special, noResult]
  | fin neg m e =>
    by_cases hm : m = 0
    · subst hm
      match op, hop with
      | 0, _ | 1, _ | 2, _ | 3, _ | 4, _ | 5, _ | 6, _ | 7, _ => simp [special, noResult]
    · rw [isNan_special_number hop neg hm]
      rw [noResult, FVal.isNan_fin, bne_iff_ne.2 hm, Bool.and_true, Bool.false_or]

/-! ## The words -/

/-- The code that a special-function word writes: the function's value, flushed under FTZ (R89). -/
def sfuCode (op : Nat) (ftz : Bool) (x : FVal) (b : Word32) : Nat :=
  if ftz then fmtF32.round 0 0 false true (fmtF32.decode (special op x b)) else special op x b

theorem srcF32_unmodified (sl : Slice) (v : Word32) : sl.srcF32 v 0 = modified sl.ftz false false v := by simp [Slice.srcF32, modified]

/-- Flushing produces no NaN: the NaNs produced are those of sources without a result (R76, R90). -/
theorem produced_sfuCode {op : Nat} (hop : op < 8) (ftz : Bool) (x : FVal) (b : Word32) :
    produced fmtF32 (sfuCode op ftz x b) [x] = noResult op x := by
  have hcode : (fmtF32.decode (sfuCode op ftz x b)).isNan = (x.isNan || noResult op x) := by
    rw [← isNan_special hop x b, sfuCode]
    split
    · exact isNan_decode_round ..
    · rfl
  cases x <;> simp [produced, hcode, noResult]

theorem specialWord_eq {op : Nat} (hop : op < 8) (i : Instr) (o : Wide) (s : State) :
    specialWord i op o s = laneWordN i s fun c sl k acc =>
      (acc.writeV c (.fixed 16) o.vd k ⟨BitVec.ofNat 32 (sfuCode op sl.ftz (sfuSource o c sl k) (sl.readV c o.va k).v), (sl.readV c o.va k).tag⟩,
        noResult op (sfuSource o c sl k)) := by
  have hnan (c : RCtx) (sl : Slice) (k : Nat) := (produced_sfuCode hop sl.ftz (sfuSource o c sl k) (sl.readV c o.va k).v).symm
  simp only [specialWord, srcF32_unmodified, hnan]
  rfl

/-- A word whose meaning is a special function does what R89 and R90 say. -/
theorem sfu_of_specialWord {i : Wide → Instr} {op : Nat} (hop : op < 8)
    (hword : ∀ o, (∀ s, exec (i o) s = specialWord (i o) op o s) ∧ pmOf (i o) = o.pm ∧ wordBytes (i o) = 12 ∧ regionEnding (i o) = false) :
    Sfu i op := by
  intro o s g hrun
  obtain ⟨hexec, hpm, hbytes, hends⟩ := hword o
  have hgo := (hexec s).trans ((specialWord_eq hop (i o) o s).trans (laneWordN_go hrun _ _))
  rw [hpm, hbytes, hends] at hgo
  refine ⟨fun hmask => ?_, fun hmask => hgo.trans (if_pos hmask)⟩
  exact completes_mapSlices (hgo.trans (if_neg (not_not_intro hmask))) fun sl => lanesDone_single sl (s.rctx g) ..

/-- Settles O22: each word runs `special` in its lanes, which gives the values of R90 at the ends and at the exact sources. -/
theorem specialFunctions : Obligations.SpecialFunctions := by
  refine ⟨?_, ?_, ?_, ?_, ?_, ?_, ?_, ?_, special_at_the_ends, special_exactly⟩ <;>
    exact sfu_of_specialWord (by decide) fun _ => ⟨fun _ => rfl, rfl, rfl, rfl⟩

end Sys2Proof.Machine
end

section
/-! PROOFS. Words and ranges at home, and the entries in which a leaf stands (11 R246, R252, R256). -/

namespace Sys2Proof.Machine

open Sys2Proof Sys2Proof.Claim

/-! ## Sparse tables -/

/-- Reading after dropping entries by their keys. -/
@[simp] theorem Map.get_filter {α : Type} (d : α) (m : Map α) (p : Nat → Bool) (k : Nat) :
    Map.get d (m.filter fun e => p e.1) k = if p k then m.get d k else d := by
  induction m with
  | nil => simp
  | cons e m ih =>
    by_cases hk : e.1 = k
    · subst hk
      cases hp : p e.1 <;> simp [hp, Map.get_cons, ih]
    · cases hp : p e.1 <;> simp [hp, Map.get_cons, ih, hk]

/-- A key below every listed one reads as unlisted, whatever the unlisted value. -/
theorem Map.get_of_above {α : Type} [DecidableEq α] (d d' : α) {m : Map α} (hm : Map.wf d m = true) {b : Nat} (hb : Map.above b m) :
    m.get d' b = d' := by
  induction m with
  | nil => rfl
  | cons e m ih =>
    obtain ⟨a, v⟩ := e
    obtain ⟨_, ha, hm'⟩ := (Map.wf_cons d a v m).1 hm
    have hlt : b < a := hb
    rw [Map.get_cons, if_neg (by simp only; omega), ih hm' (Map.above_mono (Nat.le_of_lt hlt) ha)]

/-- Inserting the entries of a table in the canonical form, moved from `src` to `dst`: where the table lists nothing, the old value stays. -/
theorem Map.get_foldl_put_moved {α : Type} [DecidableEq α] (d : α) (src dst k : Nat) (l : Map α) (hl : Map.wf d l = true)
    (hsrc : ∀ e ∈ l, src ≤ e.1) (m : Map α) :
    Map.get d (l.foldl (fun m e => Map.put m (e.1 - src + dst) e.2) m) (dst + k) = l.get (m.get d (dst + k)) (src + k) := by
  induction l generalizing m with
  | nil => rfl
  | cons e l ih =>
    obtain ⟨a, v⟩ := e
    obtain ⟨_, ha, hl'⟩ := (Map.wf_cons d a v l).1 hl
    have hle : src ≤ a := hsrc (a, v) List.mem_cons_self
    rw [List.foldl_cons, ih hl' (fun x hx => hsrc x (List.mem_cons_of_mem _ hx)), Map.get_put, Map.get_cons]
    by_cases hk : a = src + k
    · subst hk
      rw [if_pos (by simp only; omega), if_pos rfl, Map.get_of_above d v hl' ha]
    · rw [if_neg (by simp only; omega), if_neg hk]

/-! ## Words and ranges at home -/

/-- A word is read from its own bytes. -/
theorem State.wordAt_congr {s t : State} {pa n : Nat} (h : ∀ a, pa ≤ a → a < pa + n → t.byteAt a = s.byteAt a) :
    t.wordAt pa n = s.wordAt pa n := by
  have hbytes : t.bytesAt pa n = s.bytesAt pa n :=
    List.map_congr_left fun i hi => h _ (by omega) (by have := List.mem_range.mp hi; omega)
  rw [State.wordAt, hbytes, State.wordAt]

/-- A word written at home reads back modulo 2^64. -/
theorem State.wordAt_writeHome_same (s : State) (pa e : Nat) :
    (s.writeHome pa (toBytes (BitVec.ofNat 64 e) 8)).wordAt pa 8 = e % 2 ^ 64 := by
  have h := s.bytesAt_writeHome_append pa (toBytes (BitVec.ofNat 64 e) 8) []
  rw [List.append_nil, length_toBytes] at h
  rw [State.wordAt, h, natOfBytes_toBytes, BitVec.toNat_ofNat, ← Nat.pow_mul 2 8 8, Nat.mod_mod]

/-- A word written at home leaves every word as it is that shares no byte with it. -/
theorem State.wordAt_writeHome_apart (s : State) {pa x : Nat} (h : x + 8 ≤ pa ∨ pa + 8 ≤ x) (e : Nat) :
    (s.writeHome pa (toBytes (BitVec.ofNat 64 e) 8)).wordAt x 8 = s.wordAt x 8 :=
  State.wordAt_congr fun a _ _ => by rw [State.byteAt_writeHome, if_neg (by rw [length_toBytes]; omega)]

/-- Zeroing a range at home: its bytes read 0, every other byte stays. -/
theorem State.byteAt_zeroRange (s : State) (pa n a : Nat) :
    (s.zeroRange pa n).byteAt a = if pa ≤ a ∧ a < pa + n then 0 else s.byteAt a := by
  refine (Map.get_filter unlisted s.mem (fun k => decide (k < pa) || decide (pa + n ≤ k)) a).trans ?_
  by_cases h : pa ≤ a ∧ a < pa + n
  · rw [if_pos h, if_neg (by simp; omega)]; rfl
  · rw [if_neg h, if_pos (by simp; omega)]; rfl

/-- A move of bytes at home puts each byte of the range at its place in the other one. -/
theorem State.byteAt_copyHome {s : State} (h : Memory.wf s.mem = true) {src dst n k : Nat} (hk : k < n) :
    (s.copyHome src dst n).byteAt (dst + k) = s.byteAt (src + k) := by
  let inside : Nat → Bool := fun a => decide (src ≤ a) && decide (a < src + n)
  have hmoved := Map.get_foldl_put_moved unlisted src dst k (s.mem.filter fun c => inside c.1) (Map.wf_filter unlisted h _)
    (fun e he => by have := (List.mem_filter.mp he).2; simp [inside] at this; exact this.1) (s.zeroRange dst n).mem
  have hzero : (s.zeroRange dst n).byteAt (dst + k) = 0 := by rw [State.byteAt_zeroRange, if_pos (by omega)]
  have hin : inside (src + k) = true := by simp [inside, hk]
  rw [show Map.get unlisted (s.zeroRange dst n).mem (dst + k) = 0 from hzero, Map.get_filter, if_pos hin] at hmoved
  exact hmoved

/-! ## The entries of a leaf (R246) -/

/-- Words at two places are the same word, or share no byte. -/
def wordsApart (x y : Nat) : Prop := x = y ∨ x + 8 ≤ y ∨ y + 8 ≤ x

theorem mem_entryGroup_self (entryAt level t : Nat) : entryAt ∈ entryGroup entryAt level t := by
  simp only [entryGroup]
  generalize 4096 * 2 ^ t / coverage level = n
  split
  · exact List.mem_singleton_self _
  · next hn =>
    have hpos : 0 < n := by omega
    have hlt := Nat.mod_lt (entryAt / 8 % 2048) hpos
    have hle := Nat.mod_le (entryAt / 8 % 2048) n
    exact List.mem_map.2 ⟨entryAt / 8 % 2048 % n, List.mem_range.2 hlt, by omega⟩

theorem entryGroup_apart {entryAt level t x y : Nat} (hx : x ∈ entryGroup entryAt level t) (hy : y ∈ entryGroup entryAt level t) :
    wordsApart x y := by
  simp only [entryGroup] at hx hy
  split at hx
  · next h =>
    rw [if_pos h] at hy
    exact .inl ((List.mem_singleton.1 hx).trans (List.mem_singleton.1 hy).symm)
  · next h =>
    rw [if_neg h] at hy
    obtain ⟨i, _, rfl⟩ := List.mem_map.1 hx
    obtain ⟨j, _, rfl⟩ := List.mem_map.1 hy
    unfold wordsApart
    omega

theorem State.mem_sameEntries {s : State} {entryAt level t x : Nat} :
    x ∈ s.sameEntries entryAt level t ↔ x ∈ entryGroup entryAt level t ∧ s.wordAt x 8 = s.wordAt entryAt 8 := by
  simp [State.sameEntries]

/-! ## Writing entries (R252, R256) -/

/-- Writing entries changes bytes and poison marks at home, and nothing else. -/
theorem State.writeEntries_frame (s : State) (es : List Nat) (e : Nat) :
    s.writeEntries es e = { s with mem := (s.writeEntries es e).mem, writes := (s.writeEntries es e).writes
                                   bad := (s.writeEntries es e).bad, bad8 := (s.writeEntries es e).bad8 } :=
  foldl_keeps (P := fun t : State => t = { s with mem := t.mem, writes := t.writes, bad := t.bad, bad8 := t.bad8 })
    (fun t x ht => by rw [ht]; rfl) es rfl

theorem State.byteAt_writeEntries (s : State) {es : List Nat} (e : Nat) {a : Nat} (h : ∀ x ∈ es, a < x ∨ x + 8 ≤ a) :
    (s.writeEntries es e).byteAt a = s.byteAt a :=
  foldl_keeps_mem (P := fun t : State => t.byteAt a = s.byteAt a) es
    (fun t x hx ht => by
      have := h x hx
      rw [State.byteAt_writeHome, if_neg (by rw [length_toBytes]; omega), ht]) rfl

/-- Each entry written reads back; an entry that shares no byte with those written stays. -/
theorem State.wordAt_writeEntries (s : State) (es : List Nat) (e : Nat) {x : Nat} (h : ∀ y ∈ es, wordsApart x y) :
    (s.writeEntries es e).wordAt x 8 = if x ∈ es then e % 2 ^ 64 else s.wordAt x 8 := by
  induction es generalizing s with
  | nil => rfl
  | cons y es ih =>
    have ih' := ih (s.writeHome y (toBytes (BitVec.ofNat 64 e) 8)) fun z hz => h z (List.mem_cons_of_mem _ hz)
    refine ih'.trans ?_
    rcases h y List.mem_cons_self with rfl | hxy
    · simp [State.wordAt_writeHome_same]
    · have hne : x ≠ y := by omega
      rw [State.wordAt_writeHome_apart s (by omega)]
      simp [hne]

/-- The entry that firmware writes: V = 1, POOL = 0, and PNF the frame's, in the 41 bits of the field. -/
theorem entryWith_fields (e t base : Nat) : let w := entryWith e t base % 2 ^ 64
    w % 2 = 1 ∧ w / 2 ^ 9 % 2 = 0 ∧ w / 2 ^ 12 % 2 ^ 41 = pnfOf t base % 2 ^ 41 := by
  simp only [entryWith]
  generalize pnfOf t base = p
  omega

end Sys2Proof.Machine
end

section
/-! PROOFS. The service of translation faults (11 R251 to R254; 10 R226, R227). -/

namespace Sys2Proof.Machine

open Sys2Proof Sys2Proof.Claim

/-! ## Pools (R252) -/

section
variable {s : State} {tok : Nat} {f : FaultRec}

theorem State.faultAt_of_inService (hf : InService s tok f) : s.faultAt tok = some f := hf

/-- The PNF field in the unit of the frame's size. -/
theorem pnfOf_eq (t base : Nat) : pnfOf t base = base / (4096 * 2 ^ t) * 2 ^ (t + 1) + (2 ^ t - 1) := by
  rw [pnfOf, Nat.pow_add]

/-- The machine with a frame taken and zeroed, and the leaf written in every entry of the group that held the same (R252). -/
def State.frameTaken (s : State) (f : FaultRec) (base : Nat) (pools : List Pool) : State :=
  let e := s.wordAt f.entryAt 8
  (((s.setPart f.part { s.part f.part with pools := pools }).zeroRange base (4096 * 2 ^ leafT e)).writeEntries
    (s.sameEntries f.entryAt f.level (leafT e)) (entryWith e (leafT e) base))

theorem poolAllocation_changed (hf : InService s tok f) (hpool : f.pool = true) (hstage : f.stage = .new)
    (he : s.wordAt f.entryAt 8 % 2 = 1 ∨ s.wordAt f.entryAt 8 / 2 ^ 9 % 2 = 0) : Goes (.poolAllocation tok) s (s.resolveFault f) := by
  show execPoolAllocation tok s = _
  simp only [execPoolAllocation, State.faultAt_of_inService hf, hpool, hstage, if_pos he]
  rfl

theorem poolAllocation_empty (hf : InService s tok f) (hpool : f.pool = true) (hstage : f.stage = .new)
    (hv : s.wordAt f.entryAt 8 % 2 = 0) (hp : s.wordAt f.entryAt 8 / 2 ^ 9 % 2 = 1)
    (hnone : takeFrame (leafT (s.wordAt f.entryAt 8)) (s.part f.part).pools = none) :
    Goes (.poolAllocation tok) s (s.setFault tok fun x => { x with why := 2, pool := false }) := by
  show execPoolAllocation tok s = _
  simp only [execPoolAllocation, State.faultAt_of_inService hf, hpool, hstage, hnone]
  rw [if_neg (by simp), if_neg (by omega)]

theorem poolAllocation_takes {base : Nat} {pools : List Pool} (hf : InService s tok f) (hpool : f.pool = true) (hstage : f.stage = .new)
    (hv : s.wordAt f.entryAt 8 % 2 = 0) (hp : s.wordAt f.entryAt 8 / 2 ^ 9 % 2 = 1)
    (hsome : takeFrame (leafT (s.wordAt f.entryAt 8)) (s.part f.part).pools = some (base, pools)) :
    Goes (.poolAllocation tok) s
      ((s.frameTaken f base pools).replayEntries (s.sameEntries f.entryAt f.level (leafT (s.wordAt f.entryAt 8)))) := by
  show execPoolAllocation tok s = _
  simp only [execPoolAllocation, State.faultAt_of_inService hf, hpool, hstage, hsome]
  rw [if_neg (by simp), if_neg (by omega)]
  rfl

theorem State.frameTaken_frame (s : State) (f : FaultRec) (base : Nat) (pools : List Pool) :
    (s.frameTaken f base pools).gangs = s.gangs ∧
      (s.frameTaken f base pools).parts = (s.setPart f.part { s.part f.part with pools := pools }).parts := by
  rw [State.frameTaken, State.writeEntries_frame]
  exact ⟨rfl, rfl⟩

/-- Each entry of the group that held what the fault's entry held is the leaf with the frame. -/
theorem State.wordAt_frameTaken (s : State) (f : FaultRec) (base : Nat) (pools : List Pool) {x : Nat}
    (hx : x ∈ entryGroup f.entryAt f.level (leafT (s.wordAt f.entryAt 8))) (hsame : s.wordAt x 8 = s.wordAt f.entryAt 8) :
    (s.frameTaken f base pools).wordAt x 8 = entryWith (s.wordAt f.entryAt 8) (leafT (s.wordAt f.entryAt 8)) base % 2 ^ 64 := by
  rw [State.frameTaken, State.wordAt_writeEntries _ _ _ fun y hy => entryGroup_apart hx (State.mem_sameEntries.1 hy).1,
    if_pos (State.mem_sameEntries.2 ⟨hx, hsame⟩)]

/-- Outside the entries written the frame reads 0, and every other byte stays. -/
theorem State.byteAt_frameTaken (s : State) (f : FaultRec) (base : Nat) (pools : List Pool) {a : Nat}
    (ha : ∀ x ∈ entryGroup f.entryAt f.level (leafT (s.wordAt f.entryAt 8)), s.wordAt x 8 = s.wordAt f.entryAt 8 → a < x ∨ x + 8 ≤ a) :
    (s.frameTaken f base pools).byteAt a = if base ≤ a ∧ a < base + 4096 * 2 ^ leafT (s.wordAt f.entryAt 8) then 0 else s.byteAt a := by
  rw [State.frameTaken, State.byteAt_writeEntries _ _ fun x hx => ha x (State.mem_sameEntries.1 hx).1 (State.mem_sameEntries.1 hx).2,
    State.byteAt_zeroRange]
  rfl

end

theorem pools_serve_faults : poolsServeFaults := by
  intro s tok f hf hpool hstage
  refine ⟨poolAllocation_changed hf hpool hstage, poolAllocation_empty hf hpool hstage, fun base pools hv hp htake => ?_⟩
  have hself := mem_entryGroup_self f.entryAt f.level (leafT (s.wordAt f.entryAt 8))
  have hword := s.wordAt_frameTaken f base pools hself rfl
  obtain ⟨hvalid, hpool0, hpnf⟩ := entryWith_fields (s.wordAt f.entryAt 8) (leafT (s.wordAt f.entryAt 8)) base
  obtain ⟨hgangs, hparts⟩ := s.frameTaken_frame f base pools
  refine ⟨s.frameTaken f base pools, poolAllocation_takes hf hpool hstage hv hp htake, hgangs, hparts, ?_, ?_, ?_, ?_, ?_⟩
  · rw [hword, hvalid]
  · rw [hword, hpool0]
  · rw [hword, hpnf, pnfOf_eq]
  · exact fun x hx hsame => (s.wordAt_frameTaken f base pools hx hsame).trans hword.symm
  · exact fun a ha => s.byteAt_frameTaken f base pools ha

/-! ## Raising a vector (22 R451) -/

theorem State.find?_setReg (s : State) (part off : Nat) (v : Word64) :
    Map.find? (s.setReg part off v).parts part = some ((s.setReg part off v).part part) := by
  simp [State.setReg]

/-- A raised vector sends a message or sets a pending bit. -/
theorem State.raiseVector_frame (s : State) (part : Nat) (v : Word64) :
    s.raiseVector part v = { s with parts := (s.raiseVector part v).parts, msix := (s.raiseVector part v).msix } := by
  unfold State.raiseVector
  split
  · rfl
  · split
    · rfl
    · split <;> rfl

section
variable {s : State} {part : Nat} {v : Word64} (hpart : Map.find? s.parts part = some (s.part part))
include hpart

theorem State.raiseVector_none (hv : ¬ (1 ≤ v.toNat ∧ v.toNat < 64)) : s.raiseVector part v = s := by
  have hno : v = 0 ∨ 64 ≤ v.toNat := by bv_omega
  simp only [State.raiseVector, hpart, if_pos hno]

theorem State.raiseVector_unmasked (hv : 1 ≤ v.toNat ∧ v.toNat < 64) (hu : v.toNat ∈ (s.part part).unmasked) :
    s.raiseVector part v = { s with msix := s.msix ++ [(part, v.toNat)] } := by
  have hno : ¬ (v = 0 ∨ 64 ≤ v.toNat) := by bv_omega
  simp only [State.raiseVector, hpart, if_neg hno, List.contains_iff_mem.2 hu, if_true]

theorem State.raiseVector_masked (hv : 1 ≤ v.toNat ∧ v.toNat < 64) (hu : v.toNat ∉ (s.part part).unmasked) :
    s.raiseVector part v = s.setPart part { s.part part with pending := (s.part part).pending.put v.toNat } := by
  have hno : ¬ (v = 0 ∨ 64 ≤ v.toNat) := by bv_omega
  simp only [State.raiseVector, hpart, if_neg hno, List.contains_iff_mem, if_neg hu]

theorem State.msix_raiseVector : (s.raiseVector part v).msix =
    s.msix ++ if 1 ≤ v.toNat ∧ v.toNat < 64 ∧ v.toNat ∈ (s.part part).unmasked then [(part, v.toNat)] else [] := by
  by_cases hv : 1 ≤ v.toNat ∧ v.toNat < 64
  · by_cases hu : v.toNat ∈ (s.part part).unmasked
    · rw [State.raiseVector_unmasked hpart hv hu, if_pos ⟨hv.1, hv.2, hu⟩]
    · rw [State.raiseVector_masked hpart hv hu, if_neg fun h => hu h.2.2, List.append_nil, State.setPart_msix]
  · rw [State.raiseVector_none hpart hv, if_neg fun h => hv ⟨h.1, h.2.1⟩, List.append_nil]

theorem State.mem_pending_raiseVector (hv : 1 ≤ v.toNat ∧ v.toNat < 64) (hu : v.toNat ∉ (s.part part).unmasked) :
    v.toNat ∈ ((s.raiseVector part v).part part).pending := by
  rw [State.raiseVector_masked hpart hv hu, State.part_setPart, if_pos rfl]
  exact (NatSet.mem_put _ _ _).2 (.inl rfl)

theorem State.reg_raiseVector (off : Nat) : (s.raiseVector part v).reg part off = s.reg part off := by
  by_cases hv : 1 ≤ v.toNat ∧ v.toNat < 64
  · by_cases hu : v.toNat ∈ (s.part part).unmasked
    · rw [State.raiseVector_unmasked hpart hv hu]; rfl
    · rw [State.raiseVector_masked hpart hv hu]; simp [State.reg]
  · rw [State.raiseVector_none hpart hv]

end

/-! ## The fault log (R253) -/

/-- A change of the first element that a test accepts leaves an element that the change made, or one that was there. -/
theorem mem_updFirst {α : Type} {p : α → Bool} {g : α → α} {l : List α} {x : α} (h : x ∈ updFirst p g l) :
    x ∈ l ∨ ∃ y ∈ l, p y = true ∧ x = g y := by
  induction l with
  | nil => cases h
  | cons a l ih =>
    simp only [updFirst] at h
    split at h
    · next hp =>
      rcases List.mem_cons.1 h with rfl | hx
      · exact .inr ⟨a, List.mem_cons_self, hp, rfl⟩
      · exact .inl (List.mem_cons_of_mem _ hx)
    · rcases List.mem_cons.1 h with rfl | hx
      · exact .inl List.mem_cons_self
      · rcases ih hx with hx | ⟨y, hy, hpy, rfl⟩
        · exact .inl (List.mem_cons_of_mem _ hx)
        · exact .inr ⟨y, List.mem_cons_of_mem _ hy, hpy, rfl⟩

/-- The machine with a record at FLOGTAIL, which has not moved on yet. -/
def State.recordWritten (s : State) (tok : Nat) (f : FaultRec) : State :=
  { s with host := Map.setMany 0 s.host (logReg s f 0x40000 + 32 * logReg s f 0x40018) f.bytes }.setFault tok
    fun x => { x with stage := .logged, since := if x.stage = FaultStage.new then s.cycle else x.since }

/-- The machine with a record in the log: FLOGTAIL has moved on. -/
def State.recordLogged (s : State) (tok : Nat) (f : FaultRec) : State :=
  (s.recordWritten tok f).setReg f.part 0x40018 (BitVec.ofNat 64 ((logReg s f 0x40018 + 1) % logReg s f 0x40008))

section
variable {s : State} {tok : Nat} {f : FaultRec} (hf : InService s tok f) (hstage : f.stage ≠ .logged) (hfirm : s.firmwareServes f = false)
include hf hstage hfirm

theorem faultLogWrite_noLog (hsize : logReg s f 0x40008 = 0) : Goes (.faultLogWrite tok) s (s.failFault f) := by
  show execFaultLogWrite tok s = _
  have hsize' : (s.reg f.part regFlogSize).toNat = 0 := hsize
  simp only [execFaultLogWrite, State.faultAt_of_inService hf]
  rw [if_neg (by simp [hstage, hfirm]), if_pos hsize']

theorem faultLogWrite_full (hsize : logReg s f 0x40008 ≠ 0) (hfull : (logReg s f 0x40018 + 1) % logReg s f 0x40008 = logReg s f 0x40010) :
    Goes (.faultLogWrite tok) s
      (if f.stage = .new then s.setFault tok fun x => { x with stage := .waiting, since := s.cycle } else s) := by
  show execFaultLogWrite tok s = _
  have hsize' : (s.reg f.part regFlogSize).toNat ≠ 0 := hsize
  simp only [execFaultLogWrite, State.faultAt_of_inService hf]
  rw [if_neg (by simp [hstage, hfirm]), if_neg hsize']
  exact if_pos hfull

theorem faultLogWrite_room (hsize : logReg s f 0x40008 ≠ 0) (hroom : (logReg s f 0x40018 + 1) % logReg s f 0x40008 ≠ logReg s f 0x40010) :
    Goes (.faultLogWrite tok) s ((s.recordLogged tok f).raiseVector f.part (s.reg f.part 0x40030)) := by
  show execFaultLogWrite tok s = _
  have hsize' : (s.reg f.part regFlogSize).toNat ≠ 0 := hsize
  simp only [execFaultLogWrite, State.faultAt_of_inService hf]
  rw [if_neg (by simp [hstage, hfirm]), if_neg hsize']
  exact if_neg hroom

end

theorem State.unmasked_recordLogged (s : State) (tok : Nat) (f : FaultRec) : ((s.recordLogged tok f).part f.part).unmasked = (s.part f.part).unmasked := by
  rw [State.recordLogged, State.setReg, State.part_setPart, if_pos rfl]
  rfl

/-- A record in the log changes the host's memory at FLOGTAIL, FLOGTAIL itself and the record's stage. -/
theorem State.recordLogged_frame (s : State) (tok : Nat) (f : FaultRec) :
    s.recordLogged tok f = { s with
      host := Map.setMany 0 s.host (logReg s f 0x40000 + 32 * logReg s f 0x40018) f.bytes
      faults := (s.recordLogged tok f).faults, parts := (s.recordLogged tok f).parts } := by
  unfold State.recordLogged State.recordWritten
  generalize Map.setMany 0 s.host (logReg s f 0x40000 + 32 * logReg s f 0x40018) f.bytes = host
  rfl

/-- The records after one has gone to the log: those of its token are logged, or were there before. -/
theorem State.mem_faults_recordLogged {s : State} {tok : Nat} {f x : FaultRec} (hx : x ∈ (s.recordLogged tok f).faults) :
    x.stage = .logged ∨ x ∈ s.faults := by
  rcases mem_updFirst hx with hx | ⟨y, _, _, rfl⟩
  · exact .inr hx
  · exact .inl rfl

theorem State.logReg_recordLogged (s : State) (tok : Nat) (f : FaultRec) :
    logReg (s.recordLogged tok f) f 0x40018 = ((logReg s f 0x40018 + 1) % logReg s f 0x40008) % 2 ^ 64 := by
  rw [logReg, State.recordLogged, State.reg_setReg, if_pos ⟨rfl, rfl⟩, BitVec.toNat_ofNat]

/-! ## The host's answers, and none in time (R254) -/

theorem frespRetry_answers {s : State} {part : Nat} {token : BitVec 32} {f : FaultRec} (hf : s.tokenFault part token = some f) :
    Goes (.frespRetry part token) s ((s.tlbRemove f.ctx (some f.va)).resolveFault f) := by
  show execFrespRetry part token s = _
  simp only [execFrespRetry, hf]

theorem frespFail_answers {s : State} {part : Nat} {token : BitVec 32} {f : FaultRec} (hf : s.tokenFault part token = some f) :
    Goes (.frespFail part token) s (s.failFault f) := by
  show execFrespFail part token s = _
  simp only [execFrespFail, hf]

theorem faultTimeout_overdue {s : State} {tok : Nat} {f : FaultRec} (hf : InService s tok f) (hstage : f.stage ≠ .new)
    (hdue : f.since + 3000000 * logReg s f 0x40020 ≤ s.cycle) : Goes (.faultTimeout tok) s (s.failFault f) := by
  show execFaultTimeout tok s = _
  simp only [execFaultTimeout, State.faultAt_of_inService hf]
  exact if_pos ⟨hstage, decide_eq_true hdue⟩

/-! ## The strand parked on a fault (10 R226, R227) -/

theorem State.failFault_strand {s : State} {f : FaultRec} {g : Gang} {va : Nat} (hparked : ParkedOn s f g va) :
    s.failFault f = { s with faults := s.faults.filter fun x => x.token != f.token }.withGang g fun g s =>
      s.raise { g with park := .none, waiting := false } ⟨Cause.pageFault, BitVec.ofNat 64 va⟩ := by
  obtain ⟨hunits, hpark, hhas⟩ := hparked
  have hgang : { s with faults := s.faults.filter fun x => x.token != f.token }.gang? g.gid = some g := hhas
  simp only [State.failFault, hunits, List.foldl_cons, List.foldl_nil, State.failStrand, hgang, hpark, if_true]

theorem State.withGang_eq_back {s t : State} {g : Gang} {act : Gang → State → State} (h : act g (out s g) = t) : s.withGang g act = Claim.back t g := by
  subst h
  unfold State.withGang Claim.back
  cases bufferedWord g.buf g.pc <;> rfl

/-- A slice that can take a trap meets no double trap (10 R222, R224). -/
theorem Slice.doubleTrap_of_canTrap {sl : Slice} (h : CanTrap sl) : sl.doubleTrap = false := by
  obtain ⟨hsave, hne, halign⟩ := h
  have hlow : sl.tvec.extractLsb' 0 2 = 0 := by
    apply BitVec.eq_of_toNat_eq
    simpa [BitVec.extractLsb'_toNat] using halign
  simp [Slice.doubleTrap, hsave, hlow, show sl.tvec ≠ 0#64 from hne]

/-- A trap other than a consumption of poison is entered at once when nothing is outstanding and every slice can take it (10 R222). -/
theorem State.raise_enters {s : State} {g : Gang} {t : Trap} (ht : t.cause ≠ Cause.poisonUse) (hout : g.outstanding s.cycle = false)
    (hcan : ∀ sl ∈ g.slices, CanTrap sl) :
    s.raise g t = { s with cur := some { g.mapSlices (·.enterTrap t) with park := .none, buf := [] } } := by
  have hdouble : g.slices.find? Slice.doubleTrap = none :=
    List.find?_eq_none.2 fun sl hsl => by simp [Slice.doubleTrap_of_canTrap (hcan sl hsl)]
  simp only [State.raise, if_neg ht, State.deliver, hout, State.enterTrap, hdouble]
  rfl

theorem each_mapSlices {P : Slice → Slice → Prop} {f : Slice → Slice} (g : Gang) (h : ∀ sl, P sl (f sl)) : Each P g (g.mapSlices f) := by
  refine ⟨rfl, by simp [Gang.mapSlices], fun n sl sl' hn hn' => ?_⟩
  have hmap : (g.slices.map f)[n]? = some sl' := hn'
  rw [List.getElem?_map, hn] at hmap
  exact Option.some.inj hmap ▸ h sl

/-- A fault that is not resolved raises PAGE_FAULT at the strand parked on it, with the address of its lowest unfinished part (10 R227). -/
theorem State.failFault_parked {s : State} {f : FaultRec} {g : Gang} {va : Nat} (hparked : ParkedOn s f g va)
    (hout : g.outstanding s.cycle = false) (hcan : ∀ sl ∈ g.slices, CanTrap sl) :
    s.failFault f = Claim.back { out s g with
      faults := s.faults.filter fun x => x.token != f.token
      cur := some { g.mapSlices (·.enterTrap ⟨Cause.pageFault, BitVec.ofNat 64 va⟩) with park := .none, buf := [], waiting := false } } g := by
  rw [State.failFault_strand hparked]
  have hcause : Cause.pageFault ≠ Cause.poisonUse := by decide
  exact State.withGang_eq_back (State.raise_enters hcause hout hcan)

/-- With no command queued, the strand parked on a fault goes on when the fault is resolved. -/
theorem State.resolveFault_parked {s : State} {f : FaultRec} {g : Gang} (hunits : f.units = [.strand g.gid]) (hcmds : s.cmds = []) :
    s.resolveFault f = { s with
      faults := s.faults.filter fun x => x.token != f.token
      gangs := s.gangs.map fun h => if h.gid = g.gid then (match h.park with
        | .fault t _ _ => if t = f.token then { h with park := .none } else h
        | _ => h) else h } := by
  have hnone : (s.cmds.filter fun c => c.op == .mq) = [] := by rw [hcmds]; rfl
  simp only [State.resolveFault, hunits, List.foldl_cons, List.foldl_nil, State.registerAll, State.replayStrand, hnone]
  congr 1
  refine List.map_congr_left fun h _ => ?_
  by_cases hgid : h.gid = g.gid
  · cases h.park <;> simp [hgid]
  · cases h.park <;> simp [hgid]

theorem fault_log_answers_and_timeouts : faultLogAnswersAndTimeouts := by
  refine ⟨fun s tok f hf hstage hfirm => ⟨faultLogWrite_noLog hf hstage hfirm, ?_, ?_, ?_⟩, ?_, ?_, ?_⟩
  · intro hsize hfull hnew
    simpa only [if_pos hnew] using faultLogWrite_full hf hstage hfirm hsize hfull
  · intro hsize hfull hold
    simpa only [if_neg hold] using faultLogWrite_full hf hstage hfirm hsize hfull
  · intro hsize hroom
    have hpart : Map.find? (s.recordLogged tok f).parts f.part = some ((s.recordLogged tok f).part f.part) := State.find?_setReg ..
    have hunmasked := s.unmasked_recordLogged tok f
    have hraised := (s.recordLogged tok f).raiseVector_frame f.part (s.reg f.part 0x40030)
    have hframe := s.recordLogged_frame tok f
    refine ⟨_, faultLogWrite_room hf hstage hfirm hsize hroom, ?_, ?_, ?_, ?_, ⟨?_, ?_⟩, ?_⟩
    · rw [hraised, hframe]
    · rw [logReg, State.reg_raiseVector hpart]; exact s.logReg_recordLogged tok f
    · rw [hraised, hframe]
    · rw [hraised, hframe]
    · rw [State.msix_raiseVector hpart, hunmasked]; rfl
    · exact fun h1 h64 hmasked => State.mem_pending_raiseVector hpart ⟨h1, h64⟩ (hunmasked ▸ hmasked)
    · rw [hraised]
      exact fun x hx _ => State.mem_faults_recordLogged hx
  · exact fun _ _ _ => faultTimeout_overdue
  · exact fun _ _ _ _ hf => ⟨frespRetry_answers hf, frespFail_answers hf⟩
  · intro s part token f g va hf hparked
    refine ⟨fun hcmds => ?_, fun hout hcan => ?_⟩
    · have hgo := frespRetry_answers hf
      rwa [State.resolveFault_parked (s := s.tlbRemove f.ctx (some f.va)) hparked.1 hcmds] at hgo
    · have hgo := frespFail_answers hf
      rw [State.failFault_parked hparked hout hcan] at hgo
      exact ⟨g.mapSlices (·.enterTrap ⟨Cause.pageFault, BitVec.ofNat 64 va⟩), hgo, each_mapSlices g fun sl => ⟨rfl, rfl, rfl, rfl, rfl, rfl⟩⟩

/-- Settles O40: a pool's frame by the bytes that the leaf's entries and the frame take, the log by what a record and its vector change,
the answers by what they do to the strand parked on the fault. -/
theorem translationFaultsAreServed : Obligations.TranslationFaultsAreServed := ⟨pools_serve_faults, fault_log_answers_and_timeouts⟩

end Sys2Proof.Machine
end

section
/-! PROOFS. The migration of CELLAR pages (11 R255 to R257). -/

namespace Sys2Proof.Machine

open Sys2Proof Sys2Proof.Claim

/-! ## What a move does to memory at home (R256) -/

/-- Performing what a range still waits for keeps the canonical form. -/
theorem State.settleRange_wf {s : State} (h : Memory.wf s.mem = true) (pa n : Nat) : Memory.wf (s.settleRange pa n).mem = true := by
  refine State.performPosted_wf ?_ _
  have hloads (p : List Gang × State) (g : Gang) (test : Pending → Bool) := foldl_same (fun (q : List Slice × State) => q.2.mem)
    (f := fun q sl => (q.1 ++ [(q.2.performLoads g.core sl test).1], (q.2.performLoads g.core sl test).2))
    (fun q sl => State.performLoads_mem ..) g.slices ([], p.2)
  exact (congrArg Memory.wf (foldl_same (fun (p : List Gang × State) => p.2.mem) (fun p g => hloads p g _) s.gangs ([], s))).trans h

/-- Writing back and dropping the copies of a range keeps the canonical form. -/
theorem State.dropCopies_wf {s : State} (h : Memory.wf s.mem = true) (pa n : Nat) : Memory.wf (s.dropCopies pa n).mem = true :=
  foldl_keeps (P := fun s : State => Memory.wf s.mem = true)
    (fun _ _ ht => foldl_keeps (P := fun s : State => Memory.wf s.mem = true) (fun _ _ hu => State.writeBackLine_wf hu _ _ _ _) _ ht) _ h

/-- A moved page holds at its new frame what home held at the old one once its copies had been written back (R256). -/
theorem State.byteAt_movePage {s : State} (h : Memory.wf s.mem = true) (ctx va entryAt level t old new : Nat)
    (hentries : ∀ x ∈ entryGroup entryAt level t, x + 8 ≤ new ∨ new + 4096 * 2 ^ t ≤ x) {k : Nat} (hk : k < 4096 * 2 ^ t) :
    (s.movePage ctx va entryAt level t old new).byteAt (new + k) =
      (((s.tlbRemove ctx (some va)).settleRange old (4096 * 2 ^ t)).dropCopies old (4096 * 2 ^ t)).byteAt (old + k) := by
  have hwf : Memory.wf (((s.tlbRemove ctx (some va)).settleRange old (4096 * 2 ^ t)).dropCopies old (4096 * 2 ^ t)).mem = true :=
    State.dropCopies_wf (State.settleRange_wf (s := s.tlbRemove ctx (some va)) h _ _) _ _
  refine (State.byteAt_writeEntries _ _ fun x hx => ?_).trans (State.byteAt_copyHome hwf hk)
  have := hentries x (State.mem_sameEntries.1 hx).1
  omega

/-! ## The steps (R255 to R257) -/

/-- The waiting accesses on some entries pass to the host with WHY 3. -/
def State.passedToHost (s : State) (es : List Nat) : State :=
  (s.faultsOn es).foldl (fun s f => s.setFault f.token fun x => { x with why := 3, stage := .waiting, since := s.cycle }) s

theorem State.passedToHost_frame (s : State) (es : List Nat) : s.passedToHost es = { s with faults := (s.passedToHost es).faults } :=
  foldl_keeps (P := fun t : State => t = { s with faults := t.faults }) (fun t f ht => by rw [ht]; rfl) _ rfl

section
variable {s : State} {part ctx va : Nat} {l : Leaf} {frame : Nat} {pools : List Pool} (hva : va < 2 ^ 64)
  (hwalk : s.walk part ctx va = .leaf l) (hdue : s.inboundDue part ctx l = true) (hfits : s.inboundFits part l = true)
  (htake : takeFrame (leafT (s.wordAt l.entryAt 8)) (s.part part).pools = some (frame, pools))
include hva hwalk hdue hfits htake

/-- A migration inward that is due and fits: the copy meets an error, or the page moves. -/
theorem execCellarMigration_inward (ok : Bool) : execCellarMigration part ctx (BitVec.ofNat 64 va) true ok s =
    let t := leafT (s.wordAt l.entryAt 8)
    let es := entryGroup l.entryAt l.level t
    let s0 := (s.settleRange l.base l.size).dropCopies l.base l.size
    let s1 := s.movePage ctx l.vbase l.entryAt l.level t l.base frame
    let m : Migrated := { ctx := ctx, va := l.vbase, t := t, entryAt := l.entryAt, level := l.level, home := l.base, frame := frame }
    .next (if !ok || s0.rangeBad l.base l.size then s0.passedToHost es
      else (s1.setPart part { s1.part part with pools := pools, migrated := (s1.part part).migrated ++ [m] }).replayEntries es) := by
  have hva' : (BitVec.ofNat 64 va).toNat = va := by rw [BitVec.toNat_ofNat, Nat.mod_eq_of_lt hva]
  simp only [execCellarMigration, hva', hwalk, hdue, hfits, htake]
  cases ok <;> cases ((s.settleRange l.base l.size).dropCopies l.base l.size).rangeBad l.base l.size <;> rfl

end

/-- Settles O41: a move inward and a failed one from `execCellarMigration_inward`, the page's bytes from `State.byteAt_movePage`, the steps
outward and the timeout from the conditions of their own. -/
theorem cellarPagesMigrate : Obligations.CellarPagesMigrate := by
  refine ⟨fun s part ctx va l frame pools hva hwalk hdue hfits htake => ⟨fun hgood => ?_, fun ok hbad => ?_⟩, ?_, ?_, ?_, ?_⟩
  · exact (execCellarMigration_inward hva hwalk hdue hfits htake true).trans (congrArg _ (if_neg (by simp [hgood])))
  · refine ⟨_, (execCellarMigration_inward hva hwalk hdue hfits htake ok).trans (congrArg _ (if_pos ?_)), ?_⟩
    · rcases hbad with hbad | rfl
      · simp [hbad]
      · rfl
    · rw [State.passedToHost_frame]
      exact ⟨rfl, rfl, rfl⟩
  · intro s ctx va entryAt level t old new hwf _ hentries k hk
    exact State.byteAt_movePage hwf ctx va entryAt level t old new hentries hk
  · intro s part m hvictim hva hshort
    show execCellarMigration part m.ctx (BitVec.ofNat 64 m.va) false true s = _
    simp only [execCellarMigration, hvictim, hshort, BitVec.toNat_ofNat, Nat.mod_eq_of_lt hva, and_self, if_true]
    rfl
  · intro s part page m hpage hidle hmov hlast
    show execCellarIdleReturn part page s = _
    simp only [execCellarIdleReturn, hpage]
    refine if_neg ?_
    rintro (h | h | h)
    · exact hidle h
    · exact absurd hlast (Nat.not_le.2 h)
    · simp [hmov] at h
  · intro s tok f hf hwants hfits hdue
    show execInboundMigrationTimeout tok s = _
    have hover : s.overdue f = true := decide_eq_true hdue
    simp only [execInboundMigrationTimeout, State.faultAt_of_inService hf, hwants, hover, hfits]
    rfl

end Sys2Proof.Machine
end

section
/-! PROOFS. The copy engine's steps: what of the state the shared operations over L1 lines, home memory and records leave as it is, and
then activation, one granule, and completion (12 R259 to R278). -/

namespace Sys2Proof.Machine

open Sys2Proof

/-! ## Lists of runs and sets of granules -/

/-- The first element that passes a test is the first that passes another one beside it, where it passes that too. -/
theorem find?_and {α : Type} {p q : α → Bool} {l : List α} {a : α} (h : l.find? p = some a) (ha : q a = true) :
    l.find? (fun x => p x && q x) = some a := by
  obtain ⟨hp, before, after, hl, hbefore⟩ := List.find?_eq_some_iff_append.1 h
  refine List.find?_eq_some_iff_append.2 ⟨by rw [hp, ha]; rfl, before, after, hl, fun x hx => ?_⟩
  rw [Bool.not_and, hbefore x hx, Bool.true_or]

theorem find?_updFirst {α : Type} {p : α → Bool} {f : α → α} (hf : ∀ x, p (f x) = p x) (l : List α) :
    (updFirst p f l).find? p = (l.find? p).map f := by
  induction l with
  | nil => rfl
  | cons x l ih => cases hp : p x <;> simp [updFirst, hp, hf, ih]

theorem NatSet.mem_foldl_put (ks : List Nat) (m : NatSet) (n : Nat) : n ∈ ks.foldl NatSet.put m ↔ n ∈ ks ∨ n ∈ m := by
  induction ks generalizing m with
  | nil => simp
  | cons k ks ih => rw [List.foldl_cons, ih, NatSet.mem_put, List.mem_cons, or_left_comm, or_assoc]

theorem NatSet.mem_foldl_drop (ks : List Nat) (m : NatSet) (n : Nat) : n ∈ ks.foldl NatSet.drop m ↔ n ∉ ks ∧ n ∈ m := by
  induction ks generalizing m with
  | nil => simp
  | cons k ks ih => rw [List.foldl_cons, ih, NatSet.mem_drop, List.mem_cons, not_or, and_left_comm, and_assoc]

/-! ## What caches and home memory do not touch -/

/-- A state differs from another in its caches, its scratchpads and home memory at most. -/
def CachesAlone (s t : State) : Prop :=
  t = { s with cores := t.cores, l2 := t.l2, mem := t.mem, writes := t.writes, bad := t.bad, bad8 := t.bad8 }

theorem CachesAlone.trans {s t u : State} (h : CachesAlone s t) (h' : CachesAlone t u) : CachesAlone s u :=
  Eq.trans h' (congrArg (fun x : State =>
    { x with cores := u.cores, l2 := u.l2, mem := u.mem, writes := u.writes, bad := u.bad, bad8 := u.bad8 }) h)

theorem CachesAlone.foldl {α : Type} {f : State → α → State} (h : ∀ s a, CachesAlone s (f s a)) (l : List α) (s : State) :
    CachesAlone s (l.foldl f s) :=
  foldl_keeps (P := CachesAlone s) (fun t a ht => ht.trans (h t a)) l rfl

theorem CachesAlone.gangs {s t : State} (h : CachesAlone s t) : t.gangs = s.gangs := (congrArg State.gangs h :)

theorem CachesAlone.copies {s t : State} (h : CachesAlone s t) : t.copies = s.copies := (congrArg State.copies h :)

theorem State.writeBackLine_cachesAlone (s : State) (core key b n : Nat) : CachesAlone s (s.writeBackLine core key b n) := by
  simp only [State.writeBackLine]
  split
  · rfl
  · next l _ =>
    split
    · rfl
    · have hruns := CachesAlone.foldl (f := fun (s : State) (r : Nat × List Byte) => s.writeHome r.1 r.2) (fun _ _ => rfl)
        (runsOf ((l.dirtyIn b n).map fun i => (128 * key + i, Map.get 0 l.data i))) s
      have hmarks (t : State) (bad8 : NatSet) : CachesAlone t { t with bad8 := bad8 } := rfl
      have hslices (t : State) := CachesAlone.foldl
        (f := fun (s : State) (i : Nat) => s.setSlice (groupOf core) ((s.slice (groupOf core)).dropRange (128 * key + i) 1))
        (fun _ _ => rfl) (l.dirtyIn b n) t
      have hcore (t : State) (x : Core) : CachesAlone t (t.setCore core x) := rfl
      exact ((hruns.trans (hmarks ..)).trans (hslices _)).trans (hcore ..)

theorem State.evictLine_cachesAlone (s : State) (core key : Nat) : CachesAlone s (s.evictLine core key) := by
  simp only [State.evictLine]
  split
  · split
    · rfl
    · exact (s.writeBackLine_cachesAlone core key 0 128).trans rfl
  · rfl

theorem State.writeL1Line_cachesAlone (s : State) (core key b : Nat) (bs : List Byte) (held : Bool) :
    CachesAlone s (s.writeL1Line core key b bs held) := by
  have hroom : CachesAlone s (if s.l1Room core key || !held then s else
      match s.l1Victim core key with
      | some k => s.evictLine core k
      | none => s) := by
    split
    · rfl
    · split
      · exact s.evictLine_cachesAlone core _
      · rfl
  have hput (t : State) (x : Core) : CachesAlone t (t.setCore core x) := rfl
  simp only [State.writeL1Line]
  split
  · exact hroom.trans (hput ..)
  · exact (hroom.trans (hput ..)).trans (State.evictLine_cachesAlone ..)

/-- A store through the L1 writes lines, and home memory where a line goes. -/
theorem State.writeL1_cachesAlone (s : State) (core pa : Nat) (bs : List Byte) (held : Bool) : CachesAlone s (s.writeL1 core pa bs held) :=
  CachesAlone.foldl (fun _ _ => State.writeL1Line_cachesAlone ..) _ s

/-- The source's side of an edge writes dirty bytes home. -/
theorem State.reconcileSource_cachesAlone (s : State) (core span : Nat) : CachesAlone s (s.reconcileSource core span) := by
  unfold State.reconcileSource
  split
  · rfl
  · exact CachesAlone.foldl (fun _ _ => State.writeBackLine_cachesAlone ..) _ s

/-! ## What the shared operations of engines leave as it is -/

/-- A logged granule is noted with the crew. -/
theorem State.logGranule_frame (s : State) (crew : Option Nat) (core gr : Nat) :
    s.logGranule crew core gr = { s with crews := (s.logGranule crew core gr).crews } := by
  unfold State.logGranule
  split
  · rfl
  · split
    · rfl
    · split
      · rfl
      · split <;> rfl

theorem State.logGranules_frame (s : State) (crew : Option Nat) (core : Nat) (gs : List Nat) :
    gs.foldl (fun s gr => s.logGranule crew core gr) s =
      { s with crews := (gs.foldl (fun s gr => s.logGranule crew core gr) s).crews } :=
  foldl_keeps (P := fun t : State => t = { s with crews := t.crews })
    (fun t gr ht => (t.logGranule_frame crew core gr).trans
      (congrArg (fun x : State => { x with crews := (t.logGranule crew core gr).crews }) ht)) gs rfl

/-- Poison consumed is noted in CHKIV. -/
theorem State.consume_frame (s : State) (ctx bit : Nat) : s.consume ctx bit = { s with ctxs := (s.consume ctx bit).ctxs } := by
  unfold State.consume State.setChkiv
  split <;> rfl

/-- A record goes into host memory, and with it the ring's registers and a vector. -/
theorem State.record_frame (s : State) (part : Nat) (r : Record) :
    ∃ parts host msix, s.record part r = { s with parts := parts, host := host, msix := msix } := by
  simp only [State.record]
  generalize (if (s.reg part regFrecSize).toNat = 0 then 0 else ((s.reg part regFrecTail).toNat + 1) % (s.reg part regFrecSize).toNat) = next
  split
  · exact ⟨_, _, _, rfl⟩
  · exact ⟨_, _, _, State.raiseVector_frame ..⟩

theorem State.engineRecord_frame (s : State) (c : Cmd) (cause unit : Nat) (addr1 addr2 info : Word64) :
    ∃ parts host msix, s.engineRecord c cause unit addr1 addr2 info = { s with parts := parts, host := host, msix := msix } :=
  s.record_frame c.part _

theorem State.reachCell_frame (s : State) (unit part ctx : Nat) (g : Segs) (a : Word64) : (s.reachCell unit part ctx g a).2 =
    { s with tlb := (s.reachCell unit part ctx g a).2.tlb, pageUse := (s.reachCell unit part ctx g a).2.pageUse } := by
  unfold State.reachCell
  split
  · rfl
  · split
    · rfl
    · rfl
    · split
      · next va _ =>
        have h := s.xlate_frame unit part ctx va { r := true, w := true, cell := true, user := g.user }
        generalize s.xlate unit part ctx va { r := true, w := true, cell := true, user := g.user } = q at h ⊢
        obtain ⟨x, s'⟩ := q
        cases x <;> exact h
      · rfl

theorem State.signalCell_copies (s : State) (pa : Nat) (amount : Int) (code : Nat) (narrow : Bool) (src : Src) :
    (s.signalCell pa amount code narrow src).copies = s.copies := by
  rw [State.signalCell_eq, State.releaseCell]
  split
  · rfl
  · dsimp only
    split <;> rfl

/-- The cell of a finished operation, where it is reached, is signalled by 1 (R271). -/
theorem State.finishCmd_at {s s1 : State} {c : Cmd} {cell : Word64} {pa : Nat} (hcell : cell ≠ 0)
    (hreach : s.reachCell c.core c.part c.ctx c.segs cell = (.at pa, s1)) (status unit : Nat) (u : FaultUnit) :
    s.finishCmd c cell status unit u = (true, s1.signalCell pa 1 status false c.src) := by
  simp only [State.finishCmd, if_neg hcell, hreach]

/-! ## Activation (R259, R261, R270, R273) -/

/-- A copy that has left its queue: its fork has reconciled at span C. -/
def State.copyStarted (s : State) (c : Cmd) : State :=
  { s.reconcileDest c.core 1 with
    cmds := s.cmds.filter fun x => x.id != c.id
    copies := s.copies ++ [{ cmd := c, active := true, done := [], rowIx := [], poison := false, ended := none, deadCell := false }] }

/-- FESET sets its granules full or empty, each noted first in the crew's undo log. -/
def State.granulesSet (s : State) (c : Cmd) : State :=
  let logged := c.dstGranules.foldl (fun s gr => s.logGranule c.crew c.core gr) s
  if c.flag then logged.setFull c.core c.dstGranules else logged.setEmpty c.core c.dstGranules

theorem State.core_copyStarted (s : State) (c : Cmd) : (s.copyStarted c).core c.core = (s.core c.core).bump :=
  (s.core_setCore c.core c.core _).trans (if_pos rfl)

/-- Setting granules changes the logs of crews and the empty marks of one core. -/
theorem State.granulesSet_frame (s : State) (c : Cmd) :
    s.granulesSet c = { s with crews := (s.granulesSet c).crews, cores := (s.granulesSet c).cores } := by
  unfold State.granulesSet
  rw [State.logGranules_frame]
  dsimp only
  split <;> rfl

theorem State.core_granulesSet (s : State) (c : Cmd) : (s.granulesSet c).core c.core =
    { s.core c.core with empty := c.dstGranules.foldl (if c.flag then NatSet.drop else NatSet.put) (s.core c.core).empty } := by
  unfold State.granulesSet
  rw [State.logGranules_frame]
  cases c.flag <;> exact (State.core_setCore _ _ _ _).trans (if_pos rfl)

theorem State.mem_empty_granulesSet (s : State) (c : Cmd) (n : Nat) : n ∈ ((s.granulesSet c).core c.core).empty ↔
    if n ∈ c.dstGranules then c.flag = false else n ∈ (s.core c.core).empty := by
  rw [State.core_granulesSet]
  cases c.flag
  · by_cases hn : n ∈ c.dstGranules <;> simp [NatSet.mem_foldl_put, hn]
  · by_cases hn : n ∈ c.dstGranules <;> simp [NatSet.mem_foldl_drop, hn]

theorem execCopyActivate_starts {s : State} {c : Cmd} (hfind : s.cmds.find? (fun x => x.id == c.id && x.op.engine == .copy) = some c)
    (hfence : s.fenced c.part 3 c.core = false) (hmay : s.mayStart c = true) (hhead : s.headOfQueue c = true)
    (hroom : s.activeCopies c.core < 8) :
    execCopyActivate c.id s = .next (if c.op = .feset then (s.copyStarted c).granulesSet c else s.copyStarted c) := by
  have hgoes : (!s.fenced c.part 3 c.core && s.mayStart c && s.headOfQueue c && decide (s.activeCopies c.core < 8)) = true := by
    simp [hfence, hmay, hhead, hroom]
  simp only [execCopyActivate, hfind, hgoes, if_true]
  split
  · next hop => rw [if_pos hop]; rfl
  · next hop => rw [if_neg hop]; rfl

/-- A run that a save has stopped is active again, its row, its granules and its poison as they were (R279). -/
theorem execCopyActivate_resumes {s : State} {run : CopyRun} (hfind : s.copies.find? (fun r => r.cmd.id == run.cmd.id) = some run)
    (hoff : run.active = false) (hsaved : s.ctxSaved run.cmd.ctx = false) (hqueue : ∀ c ∈ s.cmds, c.id ≠ run.cmd.id)
    (hfence : s.fenced run.cmd.part 3 run.cmd.core = false) (hroom : s.activeCopies run.cmd.core < 8) :
    execCopyActivate run.cmd.id s = .next (s.setCopy run.cmd.id fun r => { r with active := true }) := by
  have hnone : s.cmds.find? (fun c => c.id == run.cmd.id && c.op.engine == .copy) = none :=
    List.find?_eq_none.2 fun c hc => by simp [hqueue c hc]
  have hrun : s.copies.find? (fun r => r.cmd.id == run.cmd.id && !r.active && !s.ctxSaved r.cmd.ctx) = some run :=
    find?_and (find?_and hfind (by rw [hoff]; rfl)) (by rw [hsaved]; rfl)
  simp only [execCopyActivate, hnone, State.reactivate, hrun, hfence, hroom]
  rfl

/-! ## One granule (R265, R274, R278) -/

theorem State.find?_setCopy (s : State) (id : Nat) {f : CopyRun → CopyRun} (hf : ∀ r, (f r).cmd = r.cmd) :
    (s.setCopy id f).copies.find? (fun r => r.cmd.id == id) = (s.copies.find? fun r => r.cmd.id == id).map f :=
  find?_updFirst (fun r => by rw [hf]) s.copies

/-- A piece's bytes stored, its granule set full in a scratchpad once every byte of it that the command covers is written. -/
def State.pieceStored (s : State) (run : CopyRun) (n : Nat) (x : Piece) (w : Where) (bs : List Byte) : State :=
  match w with
  | .scratch off =>
    if run.cmd.fills run.done n x then (s.engineStore run.cmd w bs).setFull run.cmd.core (granulesOf off x.len) else s.engineStore run.cmd w bs
  | _ => s.engineStore run.cmd w bs

/-- A piece is done: poison that was read with it counts as consumed and is noted. -/
def State.pieceDone (s : State) (run : CopyRun) (n : Nat) (bad : Bool) : State :=
  (if bad then s.consume run.cmd.ctx chkCopy else s).setCopy run.cmd.id fun r => { r with done := r.done.put n, poison := r.poison || bad }

theorem State.pieceDone_frame (s : State) (run : CopyRun) (n : Nat) (bad : Bool) :
    s.pieceDone run n bad = { s with copies := (s.pieceDone run n bad).copies, ctxs := (s.pieceDone run n bad).ctxs } := by
  unfold State.pieceDone
  cases bad
  · rfl
  · rw [if_pos rfl, State.consume_frame]; rfl

theorem State.find?_pieceDone {s : State} {run r : CopyRun} {n : Nat} {bad : Bool}
    (h : (s.pieceDone run n bad).copies.find? (fun y => y.cmd.id == run.cmd.id) = some r) : n ∈ r.done ∧ (bad = true → r.poison = true) := by
  rw [State.pieceDone, State.find?_setCopy _ _ (by exact fun _ => rfl)] at h
  obtain ⟨y, _, rfl⟩ := Option.map_eq_some_iff.1 h
  exact ⟨(NatSet.mem_put _ _ _).2 (.inl rfl), fun hbad => by simp [hbad]⟩

theorem State.writeScratchOf_frame (s : State) (crew : Option Nat) (core off : Nat) (bs : List Byte) :
    s.writeScratchOf crew core off bs =
      { s with crews := (s.writeScratchOf crew core off bs).crews, cores := (s.writeScratchOf crew core off bs).cores } := by
  unfold State.writeScratchOf
  rw [State.logGranules_frame]; rfl

/-- A write into scratchpad changes its bytes and poison marks, and no empty mark. -/
theorem State.core_writeScratchOf (s : State) (crew : Option Nat) (core off : Nat) (bs : List Byte) :
    (s.writeScratchOf crew core off bs).core core =
      { s.core core with scratch := Map.setMany 0 (s.core core).scratch off bs
                         scratchBad := clearCovered 8 off bs.length (s.core core).scratchBad } := by
  unfold State.writeScratchOf
  rw [State.logGranules_frame]
  exact (State.core_setCore _ _ _ _).trans (if_pos rfl)

theorem State.pieceStored_gangs (s : State) (run : CopyRun) (n : Nat) (x : Piece) (w : Where) (bs : List Byte) :
    (s.pieceStored run n x w bs).gangs = s.gangs := by
  cases w with
  | l1 pa ro => exact (s.writeL1_cachesAlone run.cmd.core pa bs false).gangs
  | home pa => rfl
  | scratch off =>
    have h : (s.writeScratchOf run.cmd.crew run.cmd.core off bs).gangs = s.gangs := by rw [State.writeScratchOf_frame]
    unfold State.pieceStored
    dsimp only
    split
    · exact h
    · exact h

theorem State.core_pieceStored_scratch (s : State) (run : CopyRun) (n : Nat) (x : Piece) (off : Nat) (bs : List Byte) :
    ((s.pieceStored run n x (.scratch off) bs).core run.cmd.core).scratch = Map.setMany 0 (s.core run.cmd.core).scratch off bs ∧
      ∀ k, k ∈ ((s.pieceStored run n x (.scratch off) bs).core run.cmd.core).empty ↔
        k ∈ (s.core run.cmd.core).empty ∧ ¬ (run.cmd.fills run.done n x = true ∧ k ∈ granulesOf off x.len) := by
  have hcore := s.core_writeScratchOf run.cmd.crew run.cmd.core off bs
  cases hfills : run.cmd.fills run.done n x
  · simp [State.pieceStored, State.engineStore, hfills, hcore]
  · simp [State.pieceStored, State.engineStore, State.setFull, hfills, hcore, NatSet.mem_foldl_drop, and_comm]

section
variable {s s0 s1 s2 : State} {run : CopyRun} {n : Nat} {x : Piece} {src : Word64} {ap : Aperture} {p : Place} {bs : List Byte}
  {bad : Bool} {w : Where} {por : Bool} (hfind : s.copies.find? (fun r => r.cmd.id == run.cmd.id) = some run)
  (hsaved : s.ctxSaved run.cmd.ctx = false) (hon : run.active = true) (hwaits : s.engineWaits (.copy run.cmd.id) = false)
include hfind hsaved hon hwaits

/-- An active run whose context is not saved, and for which no fault is in service, is the one that the engine works on. -/
theorem find?_engine_goes : s.copies.find? (fun r => r.cmd.id == run.cmd.id && r.active && !s.ctxSaved r.cmd.ctx &&
    !s.engineWaits (.copy run.cmd.id)) = some run :=
  find?_and (find?_and (find?_and hfind hon) (by rw [hsaved]; rfl)) (by rw [hwaits]; rfl)

/-- A granule whose source is read and whose destination is reached is stored and done. -/
theorem execCopyGranule_reached (hended : run.ended = none) (hn : n ∉ run.done) (hpiece : run.cmd.piece n = some x)
    (hsrc : s.pieceSource run x = (.inl src, s0)) (hread : s0.engineRead run.cmd run.cmd.core src x.len = (.ok bs bad, s1))
    (hap : apertureOf x.dst = some ap) (hplace : run.cmd.segs.limit ap x.dst x.len = .ok p)
    (hreach : s1.engineReach run.cmd true run.cmd.core p x.len = (.ok w por, s2)) :
    execCopyGranule run.cmd.id n s = .next ((s2.pieceStored run n x w bs).pieceDone run n bad) := by
  have hrun : s.copies.find? (fun r => r.cmd.id == run.cmd.id && r.active && !s.ctxSaved r.cmd.ctx &&
      !s.engineWaits (.copy run.cmd.id) && r.ended.isNone && !r.done.contains n) = some run :=
    find?_and (find?_and (find?_engine_goes hfind hsaved hon hwaits) (by rw [hended]; rfl)) (by simp [hn])
  simp only [execCopyGranule, hrun, hpiece, hsrc, hread, hap, hplace, hreach]
  cases w <;> rfl

end

/-! ## Completion (R271, R276, R278) -/

/-- A stopped access of a copy is recorded when the command ends (R277). -/
def State.copyEndRecorded (s : State) (run : CopyRun) : State :=
  match run.ended with
  | some a => s.engineRecord run.cmd 0x0F run.cmd.core 0 (BitVec.ofNat 64 a) 0
  | none => s

theorem State.copyEndRecorded_frame (s : State) (run : CopyRun) : (s.copyEndRecorded run).copies = s.copies ∧
    (s.copyEndRecorded run).gangs = s.gangs ∧ (s.copyEndRecorded run).mem = s.mem := by
  unfold State.copyEndRecorded
  split
  · next a _ =>
    obtain ⟨parts, host, msix, h⟩ := s.engineRecord_frame run.cmd 0x0F run.cmd.core 0 (BitVec.ofNat 64 a) 0
    rw [h]
    exact ⟨rfl, rfl, rfl⟩
  · exact ⟨rfl, rfl, rfl⟩

/-- The command is gone. -/
def State.copyDropped (s : State) (id : Nat) : State := { s with copies := s.copies.filter fun r => r.cmd.id != id }

/-- The crew of a copy that is gone goes too, where nothing else keeps it. -/
def State.copyCrewEnded (s : State) (c : Cmd) : State :=
  match c.crew with
  | some k => s.endCrew k
  | none => s

section
variable {s s1 s2 : State} {run : CopyRun} (hfind : s.copies.find? (fun r => r.cmd.id == run.cmd.id) = some run)
  (hsaved : s.ctxSaved run.cmd.ctx = false) (hon : run.active = true) (hwaits : s.engineWaits (.copy run.cmd.id) = false)
  (hcomplete : run.complete = true) (hdead : run.deadCell = false)
include hfind hsaved hon hwaits hcomplete hdead

/-- A run of which everything is done ends once its cell is signalled, or has no need to be. -/
theorem execCopyComplete_over (hack : ¬ (run.cmd.cell ≠ 0 ∧ (!s.ackClear run.cmd.core 4) = true))
    (hfin : (if run.cmd.cell = 0 then s else s.reconcileSource run.cmd.core 4).finishCmd run.cmd run.cmd.cell
      (if run.ended.isSome || run.poison then statusFaulted else statusOk) run.cmd.core (.copy run.cmd.id) = (true, s2)) :
    execCopyComplete run.cmd.id s = .next (((s2.copyEndRecorded run).copyDropped run.cmd.id).copyCrewEnded run.cmd) := by
  have hrun : s.copies.find? (fun r => r.cmd.id == run.cmd.id && r.active && !s.ctxSaved r.cmd.ctx && !s.engineWaits (.copy run.cmd.id) &&
      r.complete) = some run :=
    find?_and (find?_engine_goes hfind hsaved hon hwaits) hcomplete
  simp only [execCopyComplete, hrun, if_neg hack, hdead]
  rw [if_neg Bool.false_ne_true, hfin]
  rfl

theorem execCopyComplete_noCell (hcell : run.cmd.cell = 0) (hended : run.ended = none) :
    execCopyComplete run.cmd.id s = .next ((s.copyDropped run.cmd.id).copyCrewEnded run.cmd) := by
  rw [execCopyComplete_over hfind hsaved hon hwaits hcomplete hdead (s2 := s) (fun h => h.1 hcell)
    (by rw [if_pos hcell, State.finishCmd, if_pos hcell]), State.copyEndRecorded, hended]

theorem execCopyComplete_signals {pa : Nat} (hengine : run.cmd.op.engine = .copy) (hcell : run.cmd.cell ≠ 0)
    (hack : s.ackClear run.cmd.core 4 = true)
    (hreach : (s.reconcileSource run.cmd.core 4).reachCell run.cmd.core run.cmd.part run.cmd.ctx run.cmd.segs run.cmd.cell = (.at pa, s1)) :
    execCopyComplete run.cmd.id s = .next ((((s1.signalCell pa 1 (if run.poison || run.ended.isSome then 3 else 0) false
      (.core run.cmd.core)).copyEndRecorded run).copyDropped run.cmd.id).copyCrewEnded run.cmd) := by
  have hsrc : run.cmd.src = .core run.cmd.core := by simp only [Cmd.src, hengine]
  refine execCopyComplete_over hfind hsaved hon hwaits hcomplete hdead (fun h => by simp [hack] at h) ?_
  rw [if_neg hcell, State.finishCmd_at hcell hreach, hsrc, Bool.or_comm]
  rfl

end

/-! ## The obligation -/

/-- Settles O43: each step's next state is the one that the lemma of its step names, and what it leaves as it is follows from the frames of the
operations it is made of. -/
theorem copiesActivateMoveAndComplete : Obligations.CopiesActivateMoveAndComplete := by
  refine ⟨?_, ?_, ?_, ?_⟩
  · intro s c hfind hfence hmay hhead hroom
    have hgoes := execCopyActivate_starts hfind hfence hmay hhead hroom
    by_cases hop : c.op = .feset
    · rw [if_pos hop] at hgoes
      have hframe := (s.copyStarted c).granulesSet_frame c
      refine ⟨_, hgoes, (congrArg State.cmds hframe :), (congrArg State.gangs hframe :), (congrArg State.mem hframe :),
        (congrArg State.copies hframe :), ?_, fun h => absurd hop h, fun _ n => ?_⟩
      · rw [State.core_granulesSet, State.core_copyStarted]; rfl
      · rw [State.mem_empty_granulesSet, State.core_copyStarted]; rfl
    · rw [if_neg hop] at hgoes
      refine ⟨_, hgoes, rfl, rfl, rfl, rfl, ?_, fun _ => ?_, fun h => absurd h hop⟩
      · rw [State.core_copyStarted]; rfl
      · rw [State.core_copyStarted]; rfl
  · intro s run hfind hoff hsaved hqueue hfence hroom
    refine ⟨_, execCopyActivate_resumes hfind hoff hsaved hqueue hfence hroom, ⟨_, ?_, rfl⟩, rfl, rfl, rfl⟩
    have hnow := s.find?_setCopy run.cmd.id (f := fun r => { r with active := true }) fun _ => rfl
    rw [hfind] at hnow
    exact List.mem_of_find?_eq_some hnow
  · intro s run n x hfind hsaved hon hwaits hended hn hpiece src s0 ap p bs bad s1 w por s2 hsrc hread hap hplace hreach
    have hframe := (s2.pieceStored run n x w bs).pieceDone_frame run n bad
    have hcores := congrArg State.cores hframe
    have hmem := congrArg State.mem hframe
    refine ⟨_, execCopyGranule_reached hfind hsaved hon hwaits hended hn hpiece hsrc hread hap hplace hreach,
      (congrArg State.gangs hframe).trans (s2.pieceStored_gangs run n x w bs), fun r hr => State.find?_pieceDone hr, ?_, ?_, ?_⟩
    · rintro pa ro rfl
      exact ⟨hcores, hmem⟩
    · rintro pa rfl
      exact hmem
    · rintro off rfl
      have hcore : ((s2.pieceStored run n x (.scratch off) bs).pieceDone run n bad).core run.cmd.core =
        (s2.pieceStored run n x (.scratch off) bs).core run.cmd.core := congrArg (Map.get Core.init · run.cmd.core) hcores
      rw [hcore]
      exact s2.core_pieceStored_scratch run n x off bs
  · intro s run hfind hsaved hon hwaits hcomplete hdead hengine
    refine ⟨execCopyComplete_noCell hfind hsaved hon hwaits hcomplete hdead, fun hcell hack pa s1 hreach => ?_⟩
    let signalled := s1.signalCell pa 1 (if run.poison || run.ended.isSome then 3 else 0) false (.core run.cmd.core)
    obtain ⟨hcopies, hgangs, hmem⟩ := signalled.copyEndRecorded_frame run
    refine ⟨(signalled.copyEndRecorded run).copyDropped run.cmd.id,
      execCopyComplete_signals hfind hsaved hon hwaits hcomplete hdead hengine hcell hack hreach, ?_, hgangs, hmem⟩
    have hs1 : s1.copies = s.copies := by
      have hreached := (s.reconcileSource run.cmd.core 4).reachCell_frame run.cmd.core run.cmd.part run.cmd.ctx run.cmd.segs run.cmd.cell
      rw [hreach] at hreached
      exact (congrArg State.copies hreached :).trans (s.reconcileSource_cachesAlone run.cmd.core 4).copies
    exact congrArg (List.filter fun r => r.cmd.id != run.cmd.id) (hcopies.trans ((State.signalCell_copies ..).trans hs1))

end Sys2Proof.Machine
end
